-- ==== Sys2Proof/Word.lean ====
section
/-! DEFINITION. The word types of Limum and their plainest arithmetic (spec/00_scope.md R1, R5; spec/04_number_formats.md R54). -/

namespace Sys2Proof

/-- One byte of memory. -/
abbrev Byte := BitVec 8
/-- A 32-bit register value. -/
abbrev Word := BitVec 32
/-- A 64-bit register pair, address or system register. -/
abbrev DWord := BitVec 64

/-- A 64-bit value as its even (bits 31:0) and odd (bits 63:32) registers (R41). -/
def DWord.lo (x : DWord) : Word := x.setWidth 32
def DWord.hi (x : DWord) : Word := (x >>> 32).setWidth 32
/-- The pair of an even and an odd register (R41). -/
def pairOf (lo hi : Word) : DWord := (hi.setWidth 64 <<< 32) ||| lo.setWidth 64

/-- The `n` low bytes of a number, lowest address first (R1). -/
def bytesOfNat : Nat → Nat → List Byte
  | 0, _ => []
  | n + 1, v => BitVec.ofNat 8 v :: bytesOfNat n (v / 256)

/-- The number that little-endian bytes hold (R1). -/
def natOfBytes : List Byte → Nat
  | [] => 0
  | b :: bs => b.toNat + 256 * natOfBytes bs

/-- Bits `h` down to `l` of a number: the field x[h:l] of R1. -/
def bitsOf (x h l : Nat) : Nat := (x / 2 ^ l) % 2 ^ (h + 1 - l)

/-- Bit `i` of a number. -/
def bitAt (x i : Nat) : Bool := (x / 2 ^ i) % 2 == 1

/-- Ceiling division. -/
def ceilDiv (a b : Nat) : Nat := (a + b - 1) / b

/-- A 32-bit value, sign-extended to 64 bits. -/
def sext64 (x : Word) : DWord := x.signExtend 64

end Sys2Proof
end

