-- ==== Sys2Proof/Syntax.lean ====
section
/-! DEFINITION. The abstract syntax: the fields of word 0 (spec/03_formats_and_opcode_map.md R35-R37), the arguments of
the events of the opcode table, and Instr, one constructor per row of spec/opcode_table.json. -/

namespace Sys2Proof

/-- The fields of an instruction word (R35, R37). `len` is LEN (0 64 bits, 1 96 bits, 2 128 bits); `imm` is bits 127:64 of
the 128-bit form, bits 95:64 zero-extended of the 96-bit form, 0 of the 64-bit form. -/
structure Fields where
  len  : BitVec 2
  g    : BitVec 3
  gn   : BitVec 1
  d    : BitVec 6
  a    : BitVec 6
  an   : BitVec 2
  b    : BitVec 6
  bn   : BitVec 2
  c    : BitVec 6
  cn   : BitVec 2
  edge : BitVec 2
  hold : BitVec 2
  sub  : BitVec 6
  mod  : BitVec 10
  imm  : BitVec 64
  deriving DecidableEq, Repr

/-- A clause header (R21); its reserved bits are ignored on read and so not held. -/
structure Header where
  wait  : BitVec 12
  set0  : BitVec 4
  set1  : BitVec 4
  count : BitVec 6
  deriving DecidableEq, Repr

/-- Who issues: a front-end core, the broadcast stream of a wheel, or the buffer-mode lanes of a wheel that issue
together (R155, R159). A mill is named by its uid, a wheel by its index in the mill. -/
inductive Agent where
  | fe (n : Nat)
  | wheel (mill w : Nat)
  | buf (mill w : Nat)
  deriving DecidableEq, Repr

/-- The scopes of R227, narrowest first. -/
inductive Scope where
  | wheel | mill | gang | die | pkg | sys
  deriving DecidableEq, Repr

/-- A flit's header and the payload fields of R388, R389. -/
structure Flit where
  vc      : Nat
  typ     : Nat
  seq     : Nat
  ack     : Nat
  credit  : Nat
  srcNode : Nat
  dstNode : Nat
  tag     : Nat
  addr    : Nat
  size    : Nat
  opc     : Nat
  srcPart : Nat
  status  : Nat
  nakSeq  : Nat
  opnd0   : BitVec 64
  opnd1   : BitVec 64
  mask    : BitVec 128
  data    : List Byte
  rsv     : List Byte
  crc     : BitVec 64
  deriving DecidableEq, Repr

/-- The event-ring registers whose write discards the ring (R402). -/
inductive RingReg where
  | evbase | evlog
  deriving DecidableEq, Repr

/-- The registers a plain register write reaches: no behaviour of their own (R394, R395). Fields of a partition entry are
named by their byte offset in the entry; a queue's by its offset in the queue's registers;
`bar` is the base-address register of a partition's function (R408). -/
inductive PlainReg where
  | fwAddr
  | fwSize
  | partField (part off : Nat)
  | monBase (part m : Nat)
  | monLimit (part m : Nat)
  | queueField (q off : Nat)
  | unlisted (part off : Nat)
  | bar (part : Nat)
  deriving DecidableEq, Repr

/-- Where a soft error strikes (R420, R421). -/
inductive ErrTarget where
  | word (key : Nat)
  | line (key : Nat)
  | reg (a : Agent) (lane pos : Nat)
  | uni (a : Agent) (lane n : Nat)
  | copy (die line kid word : Nat)
  | l1 (core line kid word : Nat)
  | tlb (core root va : Nat) (cluster : Bool)
  | loopBuf (a : Agent) (lane pc : Nat)
  deriving DecidableEq, Repr

/-- What a debugger claims (R369). -/
inductive Claim where
  | breakpoints (on : Bool)
  | address (on : Bool) (pc : BitVec 64)
  deriving DecidableEq, Repr

/-- One step of the part: an instruction word (its fields), the clause header, or an event. -/
inductive Instr where
  /-- Does nothing; can be encoded in any length as padding. OP 0x00 (R47). -/
  | nop (f : Fields)
  /-- Copies source A to the destination. OP 0x01 (R76). -/
  | mov (f : Fields)
  /-- Writes a or b according to the guard named in MOD. OP 0x02 (R76). -/
  | sel (f : Fields)
  /-- Writes a + (b << s) + c, modulo the width. OP 0x03 (R76). -/
  | lea (f : Fields)
  /-- Adds two sources, wrapping or saturating. OP 0x04 (R77). -/
  | add (f : Fields)
  /-- Subtracts b from a, wrapping or saturating. OP 0x05 (R77). -/
  | sub (f : Fields)
  /-- Adds with a carry-in guard and writes a carry-out guard. OP 0x06 (R78). -/
  | addc (f : Fields)
  /-- Subtracts with a borrow-in guard and writes a borrow-out guard. OP 0x07 (R78). -/
  | subb (f : Fields)
  /-- Writes the low half of the product. OP 0x08 (R79). -/
  | mul (f : Fields)
  /-- Writes the high half of the signed or unsigned product. OP 0x09 (R79). -/
  | mulh (f : Fields)
  /-- Writes a × b + c, modulo the width. OP 0x0A (R79). -/
  | mad (f : Fields)
  /-- Long-latency division truncated toward zero, with defined results for zero and overflow. OP 0x0B (R80). -/
  | div (f : Fields)
  /-- Long-latency remainder with the sign of the dividend. OP 0x0C (R80). -/
  | rem (f : Fields)
  /-- Writes the smaller of two integers, signed or unsigned. OP 0x0D (R81). -/
  | min (f : Fields)
  /-- Writes the larger of two integers, signed or unsigned. OP 0x0E (R81). -/
  | max (f : Fields)
  /-- Writes the absolute value, modulo the width. OP 0x0F (R81). -/
  | abs (f : Fields)
  /-- Writes 0 − a, modulo the width. OP 0x10 (R81). -/
  | neg (f : Fields)
  /-- Bitwise AND. OP 0x11 (R82). -/
  | and (f : Fields)
  /-- Bitwise OR. OP 0x12 (R82). -/
  | or (f : Fields)
  /-- Bitwise XOR. OP 0x13 (R82). -/
  | xor (f : Fields)
  /-- Bitwise a AND NOT b. OP 0x14 (R82). -/
  | andn (f : Fields)
  /-- Bitwise complement. OP 0x15 (R82). -/
  | not (f : Fields)
  /-- Shifts left by a count; a count of at least the width gives 0. OP 0x16 (R83). -/
  | shl (f : Fields)
  /-- Logical right shift by a count. OP 0x17 (R83). -/
  | shr (f : Fields)
  /-- Arithmetic right shift by a count. OP 0x18 (R83). -/
  | sar (f : Fields)
  /-- Rotates left by the count modulo the width. OP 0x19 (R83). -/
  | rot (f : Fields)
  /-- Funnel shift of a 64-bit value formed from two 32-bit words. OP 0x1A (R84). -/
  | fsh (f : Fields)
  /-- Counts the leading zero bits. OP 0x1B (R85). -/
  | clz (f : Fields)
  /-- Counts the 1 bits. OP 0x1C (R85). -/
  | popc (f : Fields)
  /-- Reverses the bit order. OP 0x1D (R85). -/
  | brev (f : Fields)
  /-- Extracts a bit field, sign-extended or zero-extended. OP 0x1E (R86). -/
  | bfx (f : Fields)
  /-- Inserts a bit field. OP 0x1F (R86). -/
  | bfi (f : Fields)
  /-- Compares two integers and writes the result to a guard. OP 0x20 (R87). -/
  | cmp (f : Fields)
  /-- Combines two guards into a guard. OP 0x21 (R88). -/
  | gop (f : Fields)
  /-- Moves the guards to a register, or a register to the guards. OP 0x22 (R89). -/
  | gmov (f : Fields)
  /-- FP32 addition with one rounding. OP 0x40 (R91). -/
  | fadd (f : Fields)
  /-- FP32 subtraction with one rounding. OP 0x41 (R91). -/
  | fsub (f : Fields)
  /-- FP32 multiplication with one rounding. OP 0x42 (R91). -/
  | fmul (f : Fields)
  /-- FP32 fused multiply-add with one rounding. OP 0x43 (R91). -/
  | fma (f : Fields)
  /-- Returns the smaller FP32 source, with the NaN rules of the entry. OP 0x44 (R93). -/
  | fmin (f : Fields)
  /-- Returns the larger FP32 source, with the NaN rules of the entry. OP 0x45 (R93). -/
  | fmax (f : Fields)
  /-- Compares two FP32 values and writes the result to a guard. OP 0x46 (R94). -/
  | fcmp (f : Fields)
  /-- Writes a one-hot class mask of an FP32 value. OP 0x47 (R95). -/
  | fclass (f : Fields)
  /-- Long-latency, correctly rounded reciprocal. OP 0x48 (R96). -/
  | frcp (f : Fields)
  /-- Long-latency, correctly rounded reciprocal square root. OP 0x49 (R96). -/
  | frsq (f : Fields)
  /-- Long-latency, correctly rounded square root. OP 0x4A (R96). -/
  | fsqrt (f : Fields)
  /-- Long-latency, correctly rounded 2^x. OP 0x4B (R96). -/
  | fex2 (f : Fields)
  /-- Long-latency, correctly rounded log2 x. OP 0x4C (R96). -/
  | flg2 (f : Fields)
  /-- Long-latency, correctly rounded sin(πx). OP 0x4D (R96). -/
  | fsin (f : Fields)
  /-- Long-latency, correctly rounded cos(πx). OP 0x4E (R96). -/
  | fcos (f : Fields)
  /-- Converts one value between the integer and floating formats named in MOD. OP 0x50 (R98). -/
  | cvt (f : Fields)
  /-- Rounds an FP32 value to an integral FP32 value. OP 0x51 (R100). -/
  | frnd (f : Fields)
  /-- Adds packed BF16 or FP16 pairs. OP 0x52 (R101). -/
  | hadd2 (f : Fields)
  /-- Multiplies packed BF16 or FP16 pairs. OP 0x53 (R101). -/
  | hmul2 (f : Fields)
  /-- Fused multiply-add on packed BF16 or FP16 pairs. OP 0x54 (R101). -/
  | hfma2 (f : Fields)
  /-- Scales an FP32 value by a power of two. OP 0x55 (R92). -/
  | fscl (f : Fields)
  /-- Branches by a displacement relative to the PC. OP 0x60 (R102). -/
  | bra (f : Fields)
  /-- Branches to an absolute target. OP 0x61 (R102). -/
  | brx (f : Fields)
  /-- Writes a link, raises the depth and transfers by a displacement. OP 0x62 (R104). -/
  | call (f : Fields)
  /-- Writes a link, raises the depth and transfers to an absolute target. OP 0x63 (R104). -/
  | callx (f : Fields)
  /-- Lowers the depth, with any fill, and transfers to the target. OP 0x64 (R105). -/
  | ret (f : Fields)
  /-- Decrements a counter and branches while it is non-zero. OP 0x65 (R107). -/
  | loop (f : Fields)
  /-- Ends the thread; on a front-end core it ends the run. OP 0x66 (R108). -/
  | exit (f : Fields)
  /-- Enters the software-trap handler with subcode n. OP 0x67 (R109). -/
  | trap (f : Fields)
  /-- Enters the breakpoint handler, or halts the wheel for a debugger. OP 0x68 (R109). -/
  | bkpt (f : Fields)
  /-- Reads a system register into a pair. OP 0x69 (R111). -/
  | mfs (f : Fields)
  /-- Writes a system register from a pair. OP 0x6A (R111). -/
  | mts (f : Fields)
  /-- Lowers the depth and resumes at tpc in the clause that tcause describes. OP 0x6B (R110). -/
  | rfe (f : Fields)
  /-- Places the wheel in the paused issue class for n cycles. OP 0x6C (R259). -/
  | pause (f : Fields)
  /-- Spills every resident window to the spill area. OP 0x6D (R113). -/
  | wspill (f : Fields)
  /-- Reads the current window's image back and marks the lower windows non-resident. OP 0x6E (R114). -/
  | wfill (f : Fields)
  /-- Asserts the device's common snapshot trigger. OP 0x6F (R116). -/
  | snap (f : Fields)
  /-- Long-latency load, including the guard load and the touch. OP 0x70 (R121). -/
  | ld (f : Fields)
  /-- Store: checks complete at issue and the write performs later. OP 0x71 (R123). -/
  | st (f : Fields)
  /-- Indexed long-latency load. OP 0x72 (R121). -/
  | ldx (f : Fields)
  /-- Indexed store. OP 0x73 (R123). -/
  | stx (f : Fields)
  /-- Requests that a line be brought into the caches; it never faults. OP 0x74 (R256). -/
  | pref (f : Fields)
  /-- Wheel-collective load of one strided row per lane. OP 0x75 (R254). -/
  | tileld (f : Fields)
  /-- Wheel-collective store of one strided row per lane. OP 0x76 (R254). -/
  | tilest (f : Fields)
  /-- Discards cached copies of a range, including fetch and loop buffers for .l1. OP 0x77 (R257). -/
  | cinv (f : Fields)
  /-- Writes back the dirty lines of a range. OP 0x78 (R257). -/
  | cwb (f : Fields)
  /-- Long-latency permute of registers across lanes through a pattern table. OP 0x80 (R180). -/
  | xbar (f : Fields)
  /-- Wheel-collective gather from memory through a pattern table. OP 0x80 (R180). -/
  | xbarM (f : Fields)
  /-- Loads a 32-byte pattern table. OP 0x81 (R181). -/
  | xtld (f : Fields)
  /-- Long-latency lane shuffle. OP 0x82 (R182). -/
  | shfl (f : Fields)
  /-- Broadcasts one lane's value to every participant. OP 0x83 (R183). -/
  | bcast (f : Fields)
  /-- Computes all, any or ballot of a guard over the participants. OP 0x84 (R184). -/
  | vote (f : Fields)
  /-- Long-latency wheel reduction in the fixed tree. OP 0x85 (R186). -/
  | redw (f : Fields)
  /-- Long-latency wheel prefix scan. OP 0x86 (R187). -/
  | scanw (f : Fields)
  /-- Delivers the top k keys of each segment with their lanes. OP 0x87 (R189). -/
  | topk (f : Fields)
  /-- Sorts the keys of each segment. OP 0x88 (R189). -/
  | sortw (f : Fields)
  /-- Writes masks of the participants holding equal values. OP 0x89 (R185). -/
  | matchw (f : Fields)
  /-- Moves between the uniform registers and the vector registers. OP 0x8A (R190). -/
  | smov (f : Fields)
  /-- Claims a uniform register for the wheel and reports success in a guard. OP 0x8B (R191). -/
  | sclaim (f : Fields)
  /-- Releases the wheel's claim on a uniform register. OP 0x8C (R191). -/
  | srel (f : Fields)
  /-- Writes a field, or the extent, of the work identifier. OP 0x8D (R192). -/
  | wid (f : Fields)
  /-- Waits at the wheel's convergence point. OP 0x8E (R193). -/
  | syncw (f : Fields)
  /-- Scaled dot product of four 8-bit elements into an accumulator. OP 0x90 (R194). -/
  | dot4 (f : Fields)
  /-- Scaled dot product of eight 4-bit elements into an accumulator. OP 0x91 (R194). -/
  | dot8 (f : Fields)
  /-- Computes the UE8M0 scale code of one block. OP 0x92 (R195). -/
  | qscl (f : Fields)
  /-- Quantises a quad of FP32 values into one scaled block. OP 0x93 (R196). -/
  | qpack (f : Fields)
  /-- Unpacks one scaled block into four FP32 values. OP 0x94 (R197). -/
  | unpk (f : Fields)
  /-- Enqueues one grid per participant, stalling on a full launch queue or reporting in a guard with .try. OP 0x95 (R198). -/
  | spawn (f : Fields)
  /-- Takes a range [start, count) from the grid's range unit. OP 0x96 (R200). -/
  | grab (f : Fields)
  /-- Ends the mill's slice at the end of its clause. OP 0x97 (R201). -/
  | yield (f : Fields)
  /-- Takes a fence slot of the wheel and returns a token. OP 0xB0 (R245). -/
  | fence (f : Fields)
  /-- Blocks until the named fence, or every held fence, has completed. OP 0xB1 (R247). -/
  | fwait (f : Fields)
  /-- Long-latency memory-side atomic that returns the old value. OP 0xB2 (R250). -/
  | atom (f : Fields)
  /-- Memory-side reduction that returns no value. OP 0xB3 (R250). -/
  | red (f : Fields)
  /-- Long-latency compare-and-swap. OP 0xB4 (R251). -/
  | cas (f : Fields)
  /-- Range operation on pond elements at the pond banks. OP 0xB5 (R252). -/
  | pvop (f : Fields)
  /-- Enqueues one 64-bit message per lane at a port, a gang member's port or a walk input. OP 0xC0 (R275). -/
  | send (f : Fields)
  /-- Writes a pattern entry after checking it. OP 0xC1 (R277). -/
  | patset (f : Fields)
  /-- Writes a port configuration word after checking it. OP 0xC2 (R278). -/
  | portcfg (f : Fields)
  /-- Reads port or pattern state, optionally clearing the drop count. OP 0xC3 (R279). -/
  | portst (f : Fields)
  /-- Ends a handler thread, counting towards the instance's retirement. OP 0xC4 (R280). -/
  | hret (f : Fields)
  /-- Raises the mill's stage counter and releases flume operations. OP 0xC8 (R296). -/
  | flstage (f : Fields)
  /-- Reads a timeline counter without acquiring. OP 0xC9 (R297). -/
  | tlrd (f : Fields)
  /-- Waits for a timeline counter, or tests it with .try, and acquires. OP 0xCA (R298). -/
  | tlwait (f : Fields)
  /-- Reads and checks a problem record and queues the walk. OP 0xD0 (R325). -/
  | wpost (f : Fields)
  /-- Reads a statistic of the mill's walk on a context. OP 0xD1 (R326). -/
  | wstat (f : Fields)
  /-- Removes the mill's queued walks on a context and cancels its running walk. OP 0xD2 (R322). -/
  | wcancel (f : Fields)
  /-- Reads four FP32 values from an accumulator slot. OP 0xD3 (R328). -/
  | accld (f : Fields)
  /-- Sets an accumulator slot to +0 and clears its poison marks. OP 0xD4 (R329). -/
  | accclr (f : Fields)
  /-- Writes the 64-bit basis of a seed. OP 0xD5 (R341). -/
  | seedx (f : Fields)
  /-- Fits one seeded record to 16 target weights. OP 0xD6 (R342). -/
  | seedfit (f : Fields)
  /-- Ends the thread's part of a pending save. OP 0xE0 (R372). -/
  | savedone (f : Fields)
  /-- Reads 16 bytes of the last fault record. OP 0xE2 (R373). -/
  | frec (f : Fields)
  /-- Waits until the mill's drain counter is at or below a limit. OP 0xE3 (R374). -/
  | drnwait (f : Fields)
  /-- Issues a clause header once every flag in its WAIT mask is clear. (R22). -/
  | clauseHeader (h : Header)
  /-- Completion of a long-latency instruction writes its results, clears its pending bits and clears its flag. (R24). -/
  | longLatencyComplete (a : Agent) (lane op : Nat)
  /-- A store, reduction or other posted access performs at its location. (R228). -/
  | accessPerform (id : Nat) (scope : Scope)
  /-- A fence slot completes once every recorded access has performed at its scope. (R245). -/
  | fenceSlotComplete (a : Agent) (slot : Nat)
  /-- A failure after translation reaches the issuing thread as a posted-access fault. (R353). -/
  | postedFaultArrival (id : Nat) (cause : Nat)
  /-- The host driver maps the page, so the access replays, or refuses it, so the fault is delivered. (R221). -/
  | faultResolution (req : Nat) (mapped : Bool)
  /-- A wheel's paused count runs out and the wheel leaves the paused class. (R172). -/
  | pauseExpiry (a : Agent)
  /-- The scheduler places the head gang, or a back-fill, on cores of one cluster. (R169). -/
  | gangPlacement (part : Nat)
  /-- A mill finishes when every main wheel has exited and nothing remains for its sluice and engines. (R273). -/
  | millFinish (mill : Nat)
  /-- A draining mill's last acknowledgement arrives, and its resources are zeroed and freed. (R174). -/
  | millFree (mill : Nat)
  /-- The sluice fires one satisfiable pattern, consuming the head messages and taking a handler wheel. (R269). -/
  | patternFire (mill : Nat)
  /-- The handler wheel begins issuing once the stamped accesses of its messages have performed. (R270). -/
  | handlerWheelStart (mill wheel : Nat)
  /-- A handler instance retires when every thread has ended and its long-latency instructions have completed. (R271). -/
  | handlerRetire (mill wheel : Nat)
  /-- A walk context takes the oldest queued walk once it is free and the slot regions do not overlap. (R305). -/
  | walkStart (mill ctx : Nat)
  /-- A pair begins once its operand slots are ready and its accumulator slot is accumulating. (R309). -/
  | kstepBegin (mill ctx : Nat)
  /-- A k-step finishes with one rounding into the accumulator and advances the window. (R316). -/
  | kstepEnd (mill ctx : Nat)
  /-- The walk input accepts a READY for a NEEDED slot, or halts the walk. (R312). -/
  | ready (mill ctx : Nat)
  /-- The walk input accepts an ACCFREE for a DONE slot, completing the tile's timeline operation, or halts the walk. (R313). -/
  | accfree (mill ctx : Nat)
  /-- The flume issues the next released operation in number order when an in-flight place is free. (R286). -/
  | flumeIssue (mill : Nat)
  /-- One element is checked, read once and written once. (R287). -/
  | flumeElement (mill op elem : Nat)
  /-- An operation completes and the timeline counter advances over its prefix. (R291). -/
  | flumeOpComplete (mill op : Nat)
  /-- A completed operation sends its FLDONE or READY notice in number order once its port has room. (R291). -/
  | flumeNotice (mill : Nat)
  /-- bud reaches 0, or a yield's clause ends, and the gang is either pre-empted or renewed. (R357). -/
  | sliceEnd (gang : Nat)
  /-- The front end or a debugger requests pre-emption of a gang with class 0x21. (R360). -/
  | preemptRequest (gang sub : Nat)
  /-- A thread enters the save vector at its next stopping point. (R361). -/
  | saveVectorEntry (a : Agent) (lane : Nat)
  /-- Once every wheel has executed savedone, the flume and message sends of every member freeze. (R363). -/
  | saveFreeze (gang : Nat)
  /-- A mill whose drain counter reaches 0, with its own writes performed, closes to inbound writes. (R363). -/
  | saveClose (mill : Nat)
  /-- After the k-step ends, the mill's state is written to its context save area and its storage zeroed. (R364). -/
  | saveImage (mill : Nat)
  /-- A wheel not done within 262,144 cycles of entering the save vector puts the mill in error. (R362). -/
  | saveTimeout (mill wheel : Nat)
  /-- A placed gang loads its saved state and resumes its engines, and its threads enter the restore vector. (R368). -/
  | restore (gang : Nat)
  /-- A debugger halt, a claimed bkpt or an address match halts a wheel. (R369). -/
  | debugHalt (a : Agent) (lane : Nat)
  /-- The debugger freezes a mill at clause headers and k-step boundaries. (R369). -/
  | debugFreeze (mill : Nat)
  /-- The debugger resumes a halted thread where it stopped. (R369). -/
  | debugResume (a : Agent) (lane : Nat)
  /-- The debugger reads the state of a frozen mill through the front end. (R370). -/
  | debugRead (mill : Nat)
  /-- A write to a remote-homed location is applied at its home die. (R380). -/
  | remoteWrite (src dst : Nat)
  /-- The home's push updates a die's L2 copy in settled order. (R383). -/
  | push (src dst : Nat)
  /-- A fetch response fills a die's copy and completes the waiting read. (R380). -/
  | fetchResponse (src dst : Nat)
  /-- A die sends its SEQ to another die within 512 cycles of an advance sent nowhere else. (R382). -/
  | clockBeacon (src dst : Nat)
  /-- Request flit reading bytes at a remote address. (R389). -/
  | linkRead (port : Nat) (fl : Flit)
  /-- Request flit for a remote atomic. (R389). -/
  | linkAtomic (port : Nat) (fl : Flit)
  /-- Request flit for a remote compare-and-swap. (R389). -/
  | linkCas (port : Nat) (fl : Flit)
  /-- Response flit carrying the data of a READ. (R389). -/
  | linkReadData (port : Nat) (fl : Flit)
  /-- Response flit carrying the old value of an ATOMIC or a CAS. (R389). -/
  | linkOldValue (port : Nat) (fl : Flit)
  /-- Response flit acknowledging a WRITE or REDUCTION. (R389). -/
  | linkAcknowledgement (port : Nat) (fl : Flit)
  /-- Posted flit writing masked bytes, including writes into inboxes. (R389). -/
  | linkWrite (port : Nat) (fl : Flit)
  /-- Posted flit carrying a remote reduction. (R389). -/
  | linkReduction (port : Nat) (fl : Flit)
  /-- Link-control flit that makes the sender replay from NAKSEQ. (R390). -/
  | nak (port : Nat) (fl : Flit)
  /-- Link-control flit carrying only SEQ, ACK and CREDIT. (R389). -/
  | idle (port : Nat) (fl : Flit)
  /-- Link-control flit requesting a retrain. (R389). -/
  | retrainRequest (port : Nat) (fl : Flit)
  /-- Link-control flit acknowledging a retrain. (R389). -/
  | retrainAcknowledgement (port : Nat) (fl : Flit)
  /-- A flit with a bad CRC, VC, TYPE or sequence is dropped and answered with a NAK. (R390). -/
  | corruptFlit (port : Nat) (fl : Flit)
  /-- After 16 replays without progress the port retrains, or goes down if retraining fails. (R390). -/
  | portRetrain (port : Nat) (ok : Bool)
  /-- The front end sets MOV, shoots down the TLBs and copies a page. (R224). -/
  | pageMove (root va lo hi : Nat)
  /-- After the copy, the leaf is rewritten, MOV cleared and stalled writes replayed. (R224). -/
  | pageMoveCommit (k : Nat)
  /-- An idle front-end core takes the oldest event whose ordering lock is free. (R401). -/
  | frontEndEvent (core : Nat)
  /-- Command that checks a launch record and enqueues its seed grid. (R165). -/
  | launch (q : Nat)
  /-- Command that writes a value once an earlier command is complete. (R399). -/
  | signal (q : Nat)
  /-- Command that completes once a word in memory reaches a value. (R398). -/
  | waittl (q : Nat)
  /-- Command that opens an engagement and generates its keys. (R412). -/
  | engage (q : Nat)
  /-- Command that aborts, scrubs and destroys an engagement and writes its signed receipt. (R413). -/
  | release (q : Nat)
  /-- Command that triggers a snapshot and writes its image. (R405). -/
  | snapshot (q : Nat)
  /-- Command that removes a range from every core's TLBs. (R219). -/
  | flush (q : Nat)
  /-- A TAIL write sets the queue's wake-latch bit, or starts the wake sequence when the package is power-gated. (R397). -/
  | doorbell (q tail : Nat)
  /-- The package's wake sequence completes, and a wake-complete record is written. (R397). -/
  | wakeComplete
  /-- Setting CTRL bit 0 enables a host queue. (R395). -/
  | queueEnable (q : Nat)
  /-- Clearing CTRL bit 0 stops the queue after its started commands complete. (R400). -/
  | queueDisable (q : Nat)
  /-- Writing CTRL bit 2 clears a queue's error and resumes at HEAD. (R400). -/
  | queueRestart (q : Nat)
  /-- A write to EVBASE or EVLOG resets both indices and discards the ring's records. (R402). -/
  | eventRingConfig (part : Nat) (reg : RingReg) (v : Nat)
  /-- The host frees ring space, and any pending overflow record is written. (R403). -/
  | evhead (part v : Nat)
  /-- Writing VALID = 1 commits a partition entry, or marks it REFUSED. (R394). -/
  | partitionCommit (part : Nat)
  /-- Writing VALID = 0 aborts, scrubs and frees a partition. (R394). -/
  | partitionDestroy (part : Nat)
  /-- Makes the boot ROM load and verify the firmware image. (R409). -/
  | fwgo
  /-- A write to the power cap sets the token count of each die. (R415). -/
  | cap (v : Nat)
  /-- A write to the token override sets the token count on every die. (R415). -/
  | tokens (v : Nat)
  /-- A write to RESET scrubs every partition and repeats the bring-up steps from the clocks. (R419). -/
  | warmReset
  /-- A write to a register with no behaviour of its own, refused when the register is frozen. (R394). -/
  | registerWrite (r : PlainReg) (v : Nat)
  /-- Powers up, boots, trains memory and links, and zeroes the counters. (R418). -/
  | coldStart
  /-- A function-level reset of a virtual function acts as STOP_INTERFACE_REQUEST. (R419). -/
  | functionLevelReset (part : Nat)
  /-- SPDM request. (R407). -/
  | getVersion (body : List Byte)
  /-- SPDM request. (R407). -/
  | getCapabilities (body : List Byte)
  /-- SPDM request. (R407). -/
  | negotiateAlgorithms (body : List Byte)
  /-- SPDM request. (R407). -/
  | getDigests (body : List Byte)
  /-- SPDM request. (R407). -/
  | getCertificate (body : List Byte)
  /-- SPDM request. (R407). -/
  | challenge (body : List Byte)
  /-- SPDM request that returns the signed measurement registers. (R409). -/
  | getMeasurements (body : List Byte)
  /-- SPDM request that derives session keys by ML-KEM-1024. (R411). -/
  | keyExchange (body : List Byte)
  /-- SPDM request. (R407). -/
  | finish (body : List Byte)
  /-- SPDM request. (R407). -/
  | endSession (body : List Byte)
  /-- SPDM request. (R407). -/
  | keyUpdate (body : List Byte)
  /-- Returns the access-log entries and chain head, signed. (R414). -/
  | vendorDefinedRequest (part : Nat)
  /-- Any other SPDM request receives an ERROR response. (R407). -/
  | unsupportedRequest (code : Nat)
  /-- Freezes the interface's configuration. (R408). -/
  | lockInterfaceRequest (part : Nat)
  /-- Returns the interface report. (R408). -/
  | getDeviceInterfaceReport (part : Nat)
  /-- Returns the TDISP state. (R408). -/
  | getDeviceInterfaceState (part : Nat)
  /-- Moves a locked interface to RUN. (R408). -/
  | startInterfaceRequest (part : Nat)
  /-- Aborts the partition's grids, releases its engagements and unlocks the interface. (R408). -/
  | stopInterfaceRequest (part : Nat)
  /-- A die passes its temperature limit and is throttled to 1 token. (R417). -/
  | thermalLimit (die : Nat)
  /-- After 1 ms below the limit, the die's throttling ends. (R417). -/
  | throttleEnd (die : Nat)
  /-- Reads every line of HBM and the second tier once every 24 hours. (R421). -/
  | patrolScrub
  /-- At the host's request the front end vacates the cores and the package enters the power-gated state from which a TAIL write wakes it. (R360). -/
  | powerGating
  /-- A soft error corrupts stored bits in SRAM, HBM or the second tier, so that a later read or scrub corrects the word or marks it poisoned. (R421). -/
  | softError (target : ErrTarget) (double : Bool)
  /-- A debugger claims a mill's breakpoints or sets an address match, which changes how bkpt and matched instructions behave. (R369). -/
  | breakpointClaim (mill : Nat) (c : Claim)
  /-- The word watched by a WAITTL command reaches the value, and the command completes. (R398). -/
  | waittlSatisfied (q : Nat)
  /-- A die drops its L2 copy of a remote-homed line, so that later reads fetch the line again from its home. (R380). -/
  | dropsItsCopy (die line : Nat)
  /-- A host request to key a selective IDE stream is accepted, or refused when it asks for link IDE. (R406). -/
  | ideStreamKeying (fn : Nat) (linkIde : Bool)
  /-- The package loses power, discarding the volatile attestation key and all other volatile state. (R411). -/
  | powerLoss
  deriving DecidableEq, Repr

/-- The opcode and fields of an instruction word; none for a header or an event (R47). -/
def Instr.word? : Instr → Option (BitVec 8 × Fields)
  | .nop f => some (0x00, f)
  | .mov f => some (0x01, f)
  | .sel f => some (0x02, f)
  | .lea f => some (0x03, f)
  | .add f => some (0x04, f)
  | .sub f => some (0x05, f)
  | .addc f => some (0x06, f)
  | .subb f => some (0x07, f)
  | .mul f => some (0x08, f)
  | .mulh f => some (0x09, f)
  | .mad f => some (0x0A, f)
  | .div f => some (0x0B, f)
  | .rem f => some (0x0C, f)
  | .min f => some (0x0D, f)
  | .max f => some (0x0E, f)
  | .abs f => some (0x0F, f)
  | .neg f => some (0x10, f)
  | .and f => some (0x11, f)
  | .or f => some (0x12, f)
  | .xor f => some (0x13, f)
  | .andn f => some (0x14, f)
  | .not f => some (0x15, f)
  | .shl f => some (0x16, f)
  | .shr f => some (0x17, f)
  | .sar f => some (0x18, f)
  | .rot f => some (0x19, f)
  | .fsh f => some (0x1A, f)
  | .clz f => some (0x1B, f)
  | .popc f => some (0x1C, f)
  | .brev f => some (0x1D, f)
  | .bfx f => some (0x1E, f)
  | .bfi f => some (0x1F, f)
  | .cmp f => some (0x20, f)
  | .gop f => some (0x21, f)
  | .gmov f => some (0x22, f)
  | .fadd f => some (0x40, f)
  | .fsub f => some (0x41, f)
  | .fmul f => some (0x42, f)
  | .fma f => some (0x43, f)
  | .fmin f => some (0x44, f)
  | .fmax f => some (0x45, f)
  | .fcmp f => some (0x46, f)
  | .fclass f => some (0x47, f)
  | .frcp f => some (0x48, f)
  | .frsq f => some (0x49, f)
  | .fsqrt f => some (0x4A, f)
  | .fex2 f => some (0x4B, f)
  | .flg2 f => some (0x4C, f)
  | .fsin f => some (0x4D, f)
  | .fcos f => some (0x4E, f)
  | .cvt f => some (0x50, f)
  | .frnd f => some (0x51, f)
  | .hadd2 f => some (0x52, f)
  | .hmul2 f => some (0x53, f)
  | .hfma2 f => some (0x54, f)
  | .fscl f => some (0x55, f)
  | .bra f => some (0x60, f)
  | .brx f => some (0x61, f)
  | .call f => some (0x62, f)
  | .callx f => some (0x63, f)
  | .ret f => some (0x64, f)
  | .loop f => some (0x65, f)
  | .exit f => some (0x66, f)
  | .trap f => some (0x67, f)
  | .bkpt f => some (0x68, f)
  | .mfs f => some (0x69, f)
  | .mts f => some (0x6A, f)
  | .rfe f => some (0x6B, f)
  | .pause f => some (0x6C, f)
  | .wspill f => some (0x6D, f)
  | .wfill f => some (0x6E, f)
  | .snap f => some (0x6F, f)
  | .ld f => some (0x70, f)
  | .st f => some (0x71, f)
  | .ldx f => some (0x72, f)
  | .stx f => some (0x73, f)
  | .pref f => some (0x74, f)
  | .tileld f => some (0x75, f)
  | .tilest f => some (0x76, f)
  | .cinv f => some (0x77, f)
  | .cwb f => some (0x78, f)
  | .xbar f => some (0x80, f)
  | .xbarM f => some (0x80, f)
  | .xtld f => some (0x81, f)
  | .shfl f => some (0x82, f)
  | .bcast f => some (0x83, f)
  | .vote f => some (0x84, f)
  | .redw f => some (0x85, f)
  | .scanw f => some (0x86, f)
  | .topk f => some (0x87, f)
  | .sortw f => some (0x88, f)
  | .matchw f => some (0x89, f)
  | .smov f => some (0x8A, f)
  | .sclaim f => some (0x8B, f)
  | .srel f => some (0x8C, f)
  | .wid f => some (0x8D, f)
  | .syncw f => some (0x8E, f)
  | .dot4 f => some (0x90, f)
  | .dot8 f => some (0x91, f)
  | .qscl f => some (0x92, f)
  | .qpack f => some (0x93, f)
  | .unpk f => some (0x94, f)
  | .spawn f => some (0x95, f)
  | .grab f => some (0x96, f)
  | .yield f => some (0x97, f)
  | .fence f => some (0xB0, f)
  | .fwait f => some (0xB1, f)
  | .atom f => some (0xB2, f)
  | .red f => some (0xB3, f)
  | .cas f => some (0xB4, f)
  | .pvop f => some (0xB5, f)
  | .send f => some (0xC0, f)
  | .patset f => some (0xC1, f)
  | .portcfg f => some (0xC2, f)
  | .portst f => some (0xC3, f)
  | .hret f => some (0xC4, f)
  | .flstage f => some (0xC8, f)
  | .tlrd f => some (0xC9, f)
  | .tlwait f => some (0xCA, f)
  | .wpost f => some (0xD0, f)
  | .wstat f => some (0xD1, f)
  | .wcancel f => some (0xD2, f)
  | .accld f => some (0xD3, f)
  | .accclr f => some (0xD4, f)
  | .seedx f => some (0xD5, f)
  | .seedfit f => some (0xD6, f)
  | .savedone f => some (0xE0, f)
  | .frec f => some (0xE2, f)
  | .drnwait f => some (0xE3, f)
  | .clauseHeader _ => none
  | .longLatencyComplete _ _ _ => none
  | .accessPerform _ _ => none
  | .fenceSlotComplete _ _ => none
  | .postedFaultArrival _ _ => none
  | .faultResolution _ _ => none
  | .pauseExpiry _ => none
  | .gangPlacement _ => none
  | .millFinish _ => none
  | .millFree _ => none
  | .patternFire _ => none
  | .handlerWheelStart _ _ => none
  | .handlerRetire _ _ => none
  | .walkStart _ _ => none
  | .kstepBegin _ _ => none
  | .kstepEnd _ _ => none
  | .ready _ _ => none
  | .accfree _ _ => none
  | .flumeIssue _ => none
  | .flumeElement _ _ _ => none
  | .flumeOpComplete _ _ => none
  | .flumeNotice _ => none
  | .sliceEnd _ => none
  | .preemptRequest _ _ => none
  | .saveVectorEntry _ _ => none
  | .saveFreeze _ => none
  | .saveClose _ => none
  | .saveImage _ => none
  | .saveTimeout _ _ => none
  | .restore _ => none
  | .debugHalt _ _ => none
  | .debugFreeze _ => none
  | .debugResume _ _ => none
  | .debugRead _ => none
  | .remoteWrite _ _ => none
  | .push _ _ => none
  | .fetchResponse _ _ => none
  | .clockBeacon _ _ => none
  | .linkRead _ _ => none
  | .linkAtomic _ _ => none
  | .linkCas _ _ => none
  | .linkReadData _ _ => none
  | .linkOldValue _ _ => none
  | .linkAcknowledgement _ _ => none
  | .linkWrite _ _ => none
  | .linkReduction _ _ => none
  | .nak _ _ => none
  | .idle _ _ => none
  | .retrainRequest _ _ => none
  | .retrainAcknowledgement _ _ => none
  | .corruptFlit _ _ => none
  | .portRetrain _ _ => none
  | .pageMove _ _ _ _ => none
  | .pageMoveCommit _ => none
  | .frontEndEvent _ => none
  | .launch _ => none
  | .signal _ => none
  | .waittl _ => none
  | .engage _ => none
  | .release _ => none
  | .snapshot _ => none
  | .flush _ => none
  | .doorbell _ _ => none
  | .wakeComplete => none
  | .queueEnable _ => none
  | .queueDisable _ => none
  | .queueRestart _ => none
  | .eventRingConfig _ _ _ => none
  | .evhead _ _ => none
  | .partitionCommit _ => none
  | .partitionDestroy _ => none
  | .fwgo => none
  | .cap _ => none
  | .tokens _ => none
  | .warmReset => none
  | .registerWrite _ _ => none
  | .coldStart => none
  | .functionLevelReset _ => none
  | .getVersion _ => none
  | .getCapabilities _ => none
  | .negotiateAlgorithms _ => none
  | .getDigests _ => none
  | .getCertificate _ => none
  | .challenge _ => none
  | .getMeasurements _ => none
  | .keyExchange _ => none
  | .finish _ => none
  | .endSession _ => none
  | .keyUpdate _ => none
  | .vendorDefinedRequest _ => none
  | .unsupportedRequest _ => none
  | .lockInterfaceRequest _ => none
  | .getDeviceInterfaceReport _ => none
  | .getDeviceInterfaceState _ => none
  | .startInterfaceRequest _ => none
  | .stopInterfaceRequest _ => none
  | .thermalLimit _ => none
  | .throttleEnd _ => none
  | .patrolScrub => none
  | .powerGating => none
  | .softError _ _ => none
  | .breakpointClaim _ _ => none
  | .waittlSatisfied _ => none
  | .dropsItsCopy _ _ => none
  | .ideStreamKeying _ _ => none
  | .powerLoss => none

end Sys2Proof
end

