-- ==== Sys2Proof/WellFormed.lean ====
section
/-! DEFINITION. Well-formed instructions: the SUB values of R48-R53 (spec/03_formats_and_opcode_map.md), the length field
(R35), and the ranges of a header (R21). -/

namespace Sys2Proof

/-- The SUB values an opcode lists, R48 (integer and bit), R49 (floating), R50 (control and memory), R51 (memory levels),
R52 (parallel), R53 (engines). The empty list is an unlisted opcode (R44, R47). -/
def validSubs (op : BitVec 8) : List Nat :=
  match op.toNat with
  | 0x00 => [0]  -- nop
  | 0x01 => [0, 1]  -- mov
  | 0x02 => [0, 1]  -- sel
  | 0x03 => [0, 1]  -- lea
  | 0x04 => [0, 1, 4, 6]  -- add
  | 0x05 => [0, 1, 4, 6]  -- sub
  | 0x06 => [0, 1]  -- addc
  | 0x07 => [0, 1]  -- subb
  | 0x08 => [0, 1]  -- mul
  | 0x09 => [0, 1, 2, 3]  -- mulh
  | 0x0A => [0, 1]  -- mad
  | 0x0B => [0, 1, 2, 3]  -- div
  | 0x0C => [0, 1, 2, 3]  -- rem
  | 0x0D => [0, 1, 2, 3]  -- min
  | 0x0E => [0, 1, 2, 3]  -- max
  | 0x0F => [0, 1]  -- abs
  | 0x10 => [0, 1]  -- neg
  | 0x11 => [0, 1]  -- and
  | 0x12 => [0, 1]  -- or
  | 0x13 => [0, 1]  -- xor
  | 0x14 => [0, 1]  -- andn
  | 0x15 => [0, 1]  -- not
  | 0x16 => [0, 1]  -- shl
  | 0x17 => [0, 1]  -- shr
  | 0x18 => [0, 1]  -- sar
  | 0x19 => [0, 1]  -- rot
  | 0x1A => [0, 2]  -- fsh
  | 0x1B => [0, 1]  -- clz
  | 0x1C => [0, 1]  -- popc
  | 0x1D => [0, 1]  -- brev
  | 0x1E => [0, 1, 2, 3]  -- bfx
  | 0x1F => [0, 1]  -- bfi
  | 0x20 => [0, 1, 2, 3, 4, 5, 8, 9, 10, 11, 12, 13, 16, 17, 18, 19, 20, 21, 24, 25, 26, 27, 28, 29]  -- cmp
  | 0x21 => [0, 1, 2, 3, 4]  -- gop
  | 0x22 => [0, 1]  -- gmov
  | 0x40 => [0, 1, 2, 3, 4, 8, 9, 10, 11, 12]  -- fadd
  | 0x41 => [0, 1, 2, 3, 4, 8, 9, 10, 11, 12]  -- fsub
  | 0x42 => [0, 1, 2, 3, 4, 8, 9, 10, 11, 12]  -- fmul
  | 0x43 => [0, 1, 2, 3, 4, 8, 9, 10, 11, 12]  -- fma
  | 0x44 => [0, 8]  -- fmin
  | 0x45 => [0, 8]  -- fmax
  | 0x46 => [0, 1, 2, 3, 4, 5, 6, 7, 8, 9, 10, 11, 12, 13, 14, 15]  -- fcmp
  | 0x47 => [0]  -- fclass
  | 0x48 => [0, 8]  -- frcp
  | 0x49 => [0, 8]  -- frsq
  | 0x4A => [0, 1, 2, 3, 4, 8, 9, 10, 11, 12]  -- fsqrt
  | 0x4B => [0, 8]  -- fex2
  | 0x4C => [0, 8]  -- flg2
  | 0x4D => [0, 8]  -- fsin
  | 0x4E => [0, 8]  -- fcos
  | 0x50 => [0, 1, 2, 3, 4, 8, 9, 10, 11, 12]  -- cvt
  | 0x51 => [0, 1, 2, 3, 4, 8, 9, 10, 11, 12]  -- frnd
  | 0x52 => [0, 1, 2, 3, 4, 5, 6, 7, 8, 9]  -- hadd2
  | 0x53 => [0, 1, 2, 3, 4, 5, 6, 7, 8, 9]  -- hmul2
  | 0x54 => [0, 1, 2, 3, 4, 5, 6, 7, 8, 9]  -- hfma2
  | 0x55 => [0, 1, 2, 3, 4, 8, 9, 10, 11, 12]  -- fscl
  | 0x60 => [0]  -- bra
  | 0x61 => [0]  -- brx
  | 0x62 => [0]  -- call
  | 0x63 => [0]  -- callx
  | 0x64 => [0]  -- ret
  | 0x65 => [0]  -- loop
  | 0x66 => [0]  -- exit
  | 0x67 => [0]  -- trap
  | 0x68 => [0]  -- bkpt
  | 0x69 => [0]  -- mfs
  | 0x6A => [0]  -- mts
  | 0x6B => [0]  -- rfe
  | 0x6C => [0]  -- pause
  | 0x6D => [0]  -- wspill
  | 0x6E => [0]  -- wfill
  | 0x6F => [0]  -- snap
  | 0x70 => [0, 1, 2, 3, 4, 8, 9, 5]  -- ld
  | 0x71 => [0, 1, 2, 3, 4]  -- st
  | 0x72 => [0, 1, 2, 3, 4, 8, 9]  -- ldx
  | 0x73 => [0, 1, 2, 3, 4]  -- stx
  | 0x74 => [0, 1]  -- pref
  | 0x75 => [0, 1, 2, 3]  -- tileld
  | 0x76 => [0, 1, 2, 3]  -- tilest
  | 0x77 => [0, 1]  -- cinv
  | 0x78 => [0, 1]  -- cwb
  | 0x80 => [0]  -- xbar
  | 0x81 => [0]  -- xtld
  | 0x82 => [0, 1, 2, 3]  -- shfl
  | 0x83 => [0]  -- bcast
  | 0x84 => [0, 1, 2]  -- vote
  | 0x85 => [0, 1, 2, 3, 4, 5, 9, 10, 12, 13, 17, 18, 25, 26]  -- redw
  | 0x86 => [0, 3, 8, 11]  -- scanw
  | 0x87 => [0, 1, 2, 3, 4, 5, 6, 7]  -- topk
  | 0x88 => [0, 1, 2, 3, 4, 5, 6, 7, 8, 9, 10, 11, 12, 13, 14, 15]  -- sortw
  | 0x89 => [0, 1]  -- match
  | 0x8A => [0, 1]  -- smov
  | 0x8B => [0]  -- sclaim
  | 0x8C => [0]  -- srel
  | 0x8D => [0]  -- wid
  | 0x8E => [0]  -- syncw
  | 0x90 => [0, 1, 2]  -- dot4
  | 0x91 => [0, 1]  -- dot8
  | 0x92 => [0, 1, 2]  -- qscl
  | 0x93 => [0, 1, 2]  -- qpack
  | 0x94 => [0, 1, 2]  -- unpk
  | 0x95 => [0, 1]  -- spawn
  | 0x96 => [0]  -- grab
  | 0x97 => [0]  -- yield
  | 0xB0 => [0, 1, 2, 3, 4, 5, 8, 9, 10, 11, 12, 13]  -- fence
  | 0xB1 => [0]  -- fwait
  | 0xB2 => [0, 1, 2, 3, 4, 5, 6, 7, 8, 9, 10, 16, 17, 18, 19, 20, 21, 22, 23, 24, 25]  -- atom
  | 0xB3 => [0, 1, 2, 3, 4, 5, 6, 7, 9, 10, 16, 17, 18, 19, 20, 21, 22, 23, 25]  -- red
  | 0xB4 => [0, 16]  -- cas
  | 0xB5 => [0, 1, 2, 3, 4, 8, 9, 10, 11, 12]  -- pvop
  | 0xC0 => [0, 1]  -- send
  | 0xC1 => [0]  -- patset
  | 0xC2 => [0]  -- portcfg
  | 0xC3 => [0]  -- portst
  | 0xC4 => [0]  -- hret
  | 0xC8 => [0]  -- flstage
  | 0xC9 => [0]  -- tlrd
  | 0xCA => [0, 1]  -- tlwait
  | 0xD0 => [0]  -- wpost
  | 0xD1 => [0]  -- wstat
  | 0xD2 => [0]  -- wcancel
  | 0xD3 => [0]  -- accld
  | 0xD4 => [0]  -- accclr
  | 0xD5 => [0]  -- seedx
  | 0xD6 => [0]  -- seedfit
  | 0xE0 => [0]  -- savedone
  | 0xE2 => [0]  -- frec
  | 0xE3 => [0]  -- drnwait
  | _ => []

/-- The opcode is in the opcode map (R47). -/
def opListed (op : BitVec 8) : Bool := !(validSubs op).isEmpty

/-- SUB is listed for the opcode. -/
def subListed (op : BitVec 8) (sub : BitVec 6) : Bool := (validSubs op).contains sub.toNat

/-- The length field names an instruction, and the immediate fits the form (R35, R36). -/
def Fields.lenOk (f : Fields) : Bool :=
  match f.len.toNat with
  | 0 => f.imm == 0
  | 1 => f.imm.toNat < 2 ^ 32
  | 2 => true
  | _ => false

/-- A header that can issue: COUNT 1-63, SET0 and SET1 a flag or none (R21). -/
def Header.ok (h : Header) : Bool :=
  h.count != 0 && (h.set0.toNat < 12 || h.set0 == 15) && (h.set1.toNat < 12 || h.set1 == 15)

/-- Bit 3 of MOD selects the memory form of the crossbar permute (R178). -/
def Fields.memForm (f : Fields) : Bool := f.mod.getLsbD 3

/-- `xbar` and `xbar.m` share an opcode and are told apart by MOD[3] (R178). -/
def Instr.formOk : Instr → Bool
  | .xbar f => !f.memForm
  | .xbarM f => f.memForm
  | _ => true

/-- Well-formed: for a word, a length, a SUB and a form that its encoding can hold; a header that issues. Events carry no
encoding and are well-formed as they stand. -/
def Instr.WellFormed (i : Instr) : Bool :=
  match i with
  | .clauseHeader h => h.ok
  | _ =>
    match i.word? with
    | some (op, f) => f.lenOk && subListed op f.sub && i.formOk
    | none => true

end Sys2Proof
end

