-- ==== Sys2Proof/Decode.lean ====
section
/-! DEFINITION. The decoder, total on any bytes and refusing by name, and the encoder, both from the field table of R37
and the opcode map of R47 (spec/03_formats_and_opcode_map.md). -/

namespace Sys2Proof

/-- Why bytes are no instruction: too few, an unlisted opcode (R44, subcode 0), an unlisted SUB (R44, subcode 1). -/
inductive DecodeErr where
  | short
  | unlistedOpcode
  | unlistedSub
  deriving DecidableEq, Repr

/-- Bytes of a word by its LEN, whether or not its opcode is listed (R35). -/
def lenBytes (len : BitVec 2) : Nat :=
  match len.toNat with
  | 0 => 8
  | 1 => 12
  | 2 => 16
  | _ => 8

/-- The fields of word 0 (R37) and the immediate of the form (R36). -/
def fieldsOf (w : BitVec 128) : Fields where
  len  := w.extractLsb' 0 2
  g    := w.extractLsb' 10 3
  gn   := w.extractLsb' 13 1
  d    := w.extractLsb' 14 6
  a    := w.extractLsb' 20 6
  an   := w.extractLsb' 26 2
  b    := w.extractLsb' 28 6
  bn   := w.extractLsb' 34 2
  c    := w.extractLsb' 36 6
  cn   := w.extractLsb' 42 2
  edge := w.extractLsb' 44 2
  hold := w.extractLsb' 46 2
  sub  := w.extractLsb' 48 6
  mod  := w.extractLsb' 54 10
  imm  :=
    match (w.extractLsb' 0 2).toNat with
    | 1 => (w.extractLsb' 64 32).setWidth 64
    | 2 => w.extractLsb' 64 64
    | _ => 0

/-- The header of a word with LEN 0b11 (R21). -/
def headerOf (w : BitVec 128) : Header where
  wait  := w.extractLsb' 2 12
  set0  := w.extractLsb' 14 4
  set1  := w.extractLsb' 18 4
  count := w.extractLsb' 22 6

/-- The instruction of an opcode (R47); the memory form of the crossbar permute is MOD[3] (R178). -/
def instrOf (op : BitVec 8) (f : Fields) : Option Instr :=
  match op.toNat with
  | 0x00 => some (.nop f)
  | 0x01 => some (.mov f)
  | 0x02 => some (.sel f)
  | 0x03 => some (.lea f)
  | 0x04 => some (.add f)
  | 0x05 => some (.sub f)
  | 0x06 => some (.addc f)
  | 0x07 => some (.subb f)
  | 0x08 => some (.mul f)
  | 0x09 => some (.mulh f)
  | 0x0A => some (.mad f)
  | 0x0B => some (.div f)
  | 0x0C => some (.rem f)
  | 0x0D => some (.min f)
  | 0x0E => some (.max f)
  | 0x0F => some (.abs f)
  | 0x10 => some (.neg f)
  | 0x11 => some (.and f)
  | 0x12 => some (.or f)
  | 0x13 => some (.xor f)
  | 0x14 => some (.andn f)
  | 0x15 => some (.not f)
  | 0x16 => some (.shl f)
  | 0x17 => some (.shr f)
  | 0x18 => some (.sar f)
  | 0x19 => some (.rot f)
  | 0x1A => some (.fsh f)
  | 0x1B => some (.clz f)
  | 0x1C => some (.popc f)
  | 0x1D => some (.brev f)
  | 0x1E => some (.bfx f)
  | 0x1F => some (.bfi f)
  | 0x20 => some (.cmp f)
  | 0x21 => some (.gop f)
  | 0x22 => some (.gmov f)
  | 0x40 => some (.fadd f)
  | 0x41 => some (.fsub f)
  | 0x42 => some (.fmul f)
  | 0x43 => some (.fma f)
  | 0x44 => some (.fmin f)
  | 0x45 => some (.fmax f)
  | 0x46 => some (.fcmp f)
  | 0x47 => some (.fclass f)
  | 0x48 => some (.frcp f)
  | 0x49 => some (.frsq f)
  | 0x4A => some (.fsqrt f)
  | 0x4B => some (.fex2 f)
  | 0x4C => some (.flg2 f)
  | 0x4D => some (.fsin f)
  | 0x4E => some (.fcos f)
  | 0x50 => some (.cvt f)
  | 0x51 => some (.frnd f)
  | 0x52 => some (.hadd2 f)
  | 0x53 => some (.hmul2 f)
  | 0x54 => some (.hfma2 f)
  | 0x55 => some (.fscl f)
  | 0x60 => some (.bra f)
  | 0x61 => some (.brx f)
  | 0x62 => some (.call f)
  | 0x63 => some (.callx f)
  | 0x64 => some (.ret f)
  | 0x65 => some (.loop f)
  | 0x66 => some (.exit f)
  | 0x67 => some (.trap f)
  | 0x68 => some (.bkpt f)
  | 0x69 => some (.mfs f)
  | 0x6A => some (.mts f)
  | 0x6B => some (.rfe f)
  | 0x6C => some (.pause f)
  | 0x6D => some (.wspill f)
  | 0x6E => some (.wfill f)
  | 0x6F => some (.snap f)
  | 0x70 => some (.ld f)
  | 0x71 => some (.st f)
  | 0x72 => some (.ldx f)
  | 0x73 => some (.stx f)
  | 0x74 => some (.pref f)
  | 0x75 => some (.tileld f)
  | 0x76 => some (.tilest f)
  | 0x77 => some (.cinv f)
  | 0x78 => some (.cwb f)
  | 0x80 => some (if f.memForm then .xbarM f else .xbar f)
  | 0x81 => some (.xtld f)
  | 0x82 => some (.shfl f)
  | 0x83 => some (.bcast f)
  | 0x84 => some (.vote f)
  | 0x85 => some (.redw f)
  | 0x86 => some (.scanw f)
  | 0x87 => some (.topk f)
  | 0x88 => some (.sortw f)
  | 0x89 => some (.matchw f)
  | 0x8A => some (.smov f)
  | 0x8B => some (.sclaim f)
  | 0x8C => some (.srel f)
  | 0x8D => some (.wid f)
  | 0x8E => some (.syncw f)
  | 0x90 => some (.dot4 f)
  | 0x91 => some (.dot8 f)
  | 0x92 => some (.qscl f)
  | 0x93 => some (.qpack f)
  | 0x94 => some (.unpk f)
  | 0x95 => some (.spawn f)
  | 0x96 => some (.grab f)
  | 0x97 => some (.yield f)
  | 0xB0 => some (.fence f)
  | 0xB1 => some (.fwait f)
  | 0xB2 => some (.atom f)
  | 0xB3 => some (.red f)
  | 0xB4 => some (.cas f)
  | 0xB5 => some (.pvop f)
  | 0xC0 => some (.send f)
  | 0xC1 => some (.patset f)
  | 0xC2 => some (.portcfg f)
  | 0xC3 => some (.portst f)
  | 0xC4 => some (.hret f)
  | 0xC8 => some (.flstage f)
  | 0xC9 => some (.tlrd f)
  | 0xCA => some (.tlwait f)
  | 0xD0 => some (.wpost f)
  | 0xD1 => some (.wstat f)
  | 0xD2 => some (.wcancel f)
  | 0xD3 => some (.accld f)
  | 0xD4 => some (.accclr f)
  | 0xD5 => some (.seedx f)
  | 0xD6 => some (.seedfit f)
  | 0xE0 => some (.savedone f)
  | 0xE2 => some (.frec f)
  | 0xE3 => some (.drnwait f)
  | _ => none

/-- Decode one word of up to 128 bits, bit 0 the least significant bit of the byte at the PC (R35). A word with LEN 0b11
is a header, malformed or not: a malformed one faults when it issues (R21, R103). -/
def decode (w : BitVec 128) : Except DecodeErr Instr :=
  if w.extractLsb' 0 2 = 3 then .ok (.clauseHeader (headerOf w))
  else
    match instrOf (w.extractLsb' 2 8) (fieldsOf w) with
    | none => .error .unlistedOpcode
    | some i => if subListed (w.extractLsb' 2 8) ((fieldsOf w).sub) then .ok i else .error .unlistedSub

/-- Decode the instruction at the front of a list of bytes; the rest of the list with it. -/
def decodeBytes (bs : List Byte) : Except DecodeErr (Instr × List Byte) :=
  let n := lenBytes ((bs.headD 0).extractLsb' 0 2)
  if bs.length < n then .error .short
  else
    match decode (BitVec.ofNat 128 (natOfBytes (bs.take n))) with
    | .error e => .error e
    | .ok i => .ok (i, bs.drop n)

/-- The instruction the decoder reads from an instruction whose bits are `w`, the bits above `nbits` zero. -/
def decodeTableWord (nbits w : Nat) : Option Instr :=
  match decodeBytes (bytesOfNat 16 (w % 2 ^ nbits)) with
  | .ok (i, _) => some i
  | .error _ => none

/-- The word of a set of fields under an opcode (R37). -/
def encodeFields (op : BitVec 8) (f : Fields) : BitVec 128 :=
  f.imm ++ f.mod ++ f.sub ++ f.hold ++ f.edge ++ f.cn ++ f.c ++ f.bn ++ f.b ++ f.an ++ f.a ++ f.d ++ f.gn ++ f.g ++ op ++ f.len

/-- The word of a header, its reserved bits zero (R21). -/
def encodeHeader (h : Header) : BitVec 128 :=
  (0 : BitVec 100) ++ h.count ++ h.set1 ++ h.set0 ++ h.wait ++ (3 : BitVec 2)

/-- The word of an instruction; events have none. -/
def encode (i : Instr) : Option (BitVec 128) :=
  match i with
  | .clauseHeader h => some (encodeHeader h)
  | _ => i.word?.map fun p => encodeFields p.1 p.2

/-- The bytes of an instruction in memory, lowest address first (R35). -/
def encodeBytes (i : Instr) : List Byte :=
  match encode i with
  | none => []
  | some w => bytesOfNat (lenBytes (w.extractLsb' 0 2)) w.toNat

end Sys2Proof
end

