-- ==== Sys2Proof/Config.lean ====
section
/-! DEFINITION. What an implementation fixes or the spec leaves open: constants of the part, and free values with no
body, so that no proof can rest on one. Each free value is named in notes/assumptions. -/

namespace Sys2Proof.Config

/-- Cycles that pass at the n-th step; the spec binds no instruction to a cycle count (R75, R178). FREE (DESIGN CHOICE, log 2). -/
opaque elapsed : Nat → Nat
/-- How many cycles after the count of cycles began a core comes out of its own reset, by the core's number; the front-end cores follow the
others. Clocks of two cores are not comparable (R20). FREE (DESIGN CHOICE, log 2). -/
opaque clockLag : Nat → Nat
/-- A choice the spec leaves to the device: the n-th free word. FREE (DESIGN CHOICE, log 1). -/
opaque freeWord : Nat → BitVec 64
/-- What a 16-byte block of a line written under one key reads as under another: AES-256-XTS decryption with the wrong key, byte `i` of
the block, by (block, writing key generation, reading key generation, byte index, the block's bytes) (R223). FREE (DESIGN CHOICE, log 48). -/
opaque wrongKey : Nat → Nat → Nat → Nat → List (BitVec 8) → BitVec 8
/-- Where the firmware starts an event's run on a front-end core: the image is the host's (R401, R409). FREE (DESIGN CHOICE, log 4). -/
opaque feEntry : Nat → BitVec 64
/-- The boot ROM's verdict on an image: 0 verified, 1 signature, 2 format, 3 size (R394, R409). FREE (DESIGN CHOICE, log 48). -/
opaque fwVerdict : List (BitVec 8) → Nat
/-- SHAKE256-256 of bytes, an external standard (R409, R413, R414). UNINTERPRETED (DESIGN CHOICE, log 48). -/
opaque shake256 : List (BitVec 8) → BitVec 256
/-- The XMSS or XMSS^MT signature of bytes by key generation and leaf index (R410, R411). UNINTERPRETED (DESIGN CHOICE, log 48). -/
opaque signature : Nat → Nat → List (BitVec 8) → List (BitVec 8)
/-- The body of the SPDM response to a request code, an external standard (R407). UNINTERPRETED (PRESUMED, log 20). -/
opaque spdmBody : Nat → List (BitVec 8) → List (BitVec 8)
/-- The algorithms that the device offers (R407). -/
inductive SpdmAlg where
  | shake256 | xmss | xmssMt | mlKem1024
  deriving DecidableEq, Repr
/-- Of a VERSION response, by the versions offered as (major, minor), and of an ALGORITHMS response, by the algorithms offered, the last three
in vendor-defined fields (R407): how the standard lays them out. UNINTERPRETED (PRESUMED, log 20). -/
opaque spdmVersions : List (Nat × Nat) → List (BitVec 8)
opaque spdmAlgorithms : List SpdmAlg → List (BitVec 8) → List (BitVec 8)
/-- ML-KEM-1024 session key material (R411). FREE (DESIGN CHOICE, log 48). -/
opaque sessionKey : Nat → BitVec 256
/-- What the spec leaves open of a flit's CRC-64 (R388): its first value, whether bits are taken least significant first, and what is
added at the end. FREE (DESIGN CHOICE, log 48). -/
opaque crcInit : BitVec 64
opaque crcReflect : Bool
opaque crcFinal : BitVec 64
/-- Whether the device exports a physical address of its own memory to the device link (R386). FREE (DESIGN CHOICE, log 41). -/
opaque exports : Nat → Bool
/-- Whether a sender, by node and partition, is admitted to the inboxes of a partition (R386). FREE (DESIGN CHOICE, log 41). -/
opaque admits : Nat → Nat → Nat → Bool
/-- The key-ID under which an access from the device link reads and writes a line (R223 gives none). FREE (DESIGN CHOICE, log 41). -/
opaque linkKid : Nat → Nat
/-- How the list of scrubbed physical ranges is written for its hash (R413 gives no layout). UNINTERPRETED (DESIGN CHOICE, log 43). -/
opaque rangeList : List (Nat × Nat) → List (BitVec 8)
/-- What stands in a receipt's signature when no attestation key can sign (R411, R413), by a free word and its length. FREE (DESIGN CHOICE, log 43). -/
opaque noSignature : Nat → Nat → List (BitVec 8)
/-- The measurement of the boot ROM (R409). FREE (DESIGN CHOICE, log 48). -/
opaque romImage : List (BitVec 8)
/-- The identity counter a part leaves the factory with (R410). FREE (DESIGN CHOICE, log 48). -/
opaque identityStart : Nat

/-- Compute dies, clusters per die, cores per cluster, front-end cores, link ports (R8). -/
def nDies : Nat := 4
def clustersPerDie : Nat := 13
def coresPerCluster : Nat := 8
def nCores : Nat := 416
def nFeCores : Nat := 12
def nLinkPorts : Nat := 18
def nQueues : Nat := 1024
def nParts : Nat := 8
/-- Entries of the hardware event queue (R401). -/
def eventQueue : Nat := 4096
/-- Scratchpad of a core in KiB (R203), registers per lane of a pipe (R148), wheels per pipe, wheels and mills per core
(R147), walk queue entries per core (16 intro). -/
def scratchKiB : Nat := 1536
def regsPerLane : Nat := 512
def wheelsPerPipe : Nat := 4
def pipesPerCore : Nat := 8
def millsPerCore : Nat := 8
def wheelsPerCore : Nat := 32
def walkQueue : Nat := 8
/-- The save limit (R362) and the default budget (R356). -/
def saveLimit : Nat := 262144
def defaultBudget : Nat := 800000
/-- Windows a front-end core's pool holds (R33). -/
def feWindows : Nat := 21

end Sys2Proof.Config
end

