-- ==== Sys2Proof/Machine/State.lean ====
section
/-! DEFINITION. The state of the package: every piece of state the spec names, as plain data (INVENTORY.md lists them with
their rules), and State.reset, the package after power-up, awaiting its firmware image (R394, R418). -/

namespace Sys2Proof.Machine

/-- A sparse map over Nat keys: keys strictly rising, no entry equal to the default. -/
abbrev Sparse (α : Type) := List (Nat × α)

/-- Memory: the listed bytes; an unlisted byte is 0 (R418 step 5, R225; DEDUCED, log 5). -/
abbrev Memory := List Host.Cell

/-! ### Threads -/

/-- An entry of the operand latch (R26): `age` counts the instructions issued since it was captured. -/
structure LatchEntry where
  val   : Word
  age   : Nat
  valid : Bool
  deriving DecidableEq, Repr

/-- The clause a thread is in (R21, R30): its header's address, the index of the next instruction, the fields that a
resumed clause keeps, and whether a `yield` waits for its end (R201). -/
structure Clause where
  hdr   : DWord
  idx   : Nat
  count : Nat
  set0  : BitVec 4
  set1  : BitVec 4
  yld   : Bool
  deriving DecidableEq, Repr

/-- Where a long-latency result lands: a stack position (R106), a guard (R122) or a uniform register (R162). -/
inductive Dst where
  | pos (n : Nat)
  | guard (k : Nat)
  | uni (n : Nat)
  deriving DecidableEq, Repr

/-- What an instruction in flight is to read at one moment between its issue and its completion. -/
inductive Look where
  /-- The state of port n (R279); with `.clr` the instruction's number, since its lanes clear a port in increasing order. -/
  | port (n : Nat) (clr : Option Nat)
  /-- The state of pattern n (R279). -/
  | pattern (n : Nat)
  /-- The counter of context c (R297). -/
  | counter (c : Nat)
  /-- A value of the walk on context c (R326). -/
  | walk (c sel : Nat)
  deriving DecidableEq, Repr

/-- A long-latency instruction in flight (R22-R24): the flag it is bound to, what it will write, the fstat flags it will
set, and the link transaction whose response it waits for, if any (R386), with the size code by which the response becomes
registers. `parts` are the memory accesses it is made of, by the id of their posted access, with the bytes each has read once
it has performed (R121, R250). `look` is what it is still to read (R279, R297, R326). -/
structure LongOp where
  id     : Nat
  flag   : Option Nat
  writes : List (Dst × Word)
  touch  : List Dst
  flags  : BitVec 5
  wait   : Option Nat
  ext    : Nat
  parts  : List (Nat × Option (List Byte))
  look   : Option Look
  deriving DecidableEq, Repr

/-- A fault record (R350, R351). -/
structure FaultRec where
  cls    : BitVec 8
  sub    : BitVec 8
  flags  : BitVec 16
  wheel  : BitVec 8
  mill   : BitVec 8
  core   : BitVec 16
  pc     : DWord
  va     : DWord
  lanesF : BitVec 32
  lanesD : BitVec 32
  access : BitVec 32
  ctx    : BitVec 32
  seq    : DWord
  info0  : DWord
  info1  : DWord
  deriving DecidableEq, Repr

/-- The record that does not exist reads as zero (R373). -/
def FaultRec.zero : FaultRec := ⟨0, 0, 0, 0, 0, 0, 0, 0, 0, 0, 0, 0, 0, 0, 0⟩

/-- A restart mask of a trap depth (R349): the instruction's PC, the lanes done, and while it waits the lanes it has refused already: lane,
class, subcode, INFO (R275, R276). -/
structure Restart where
  depth : Nat
  pc    : DWord
  done  : BitVec 32
  lost  : List (Nat × Nat × Nat × DWord × DWord)
  deriving DecidableEq, Repr

/-- A posted fault waiting for a clause header (R353): its record as it will be written. -/
structure PostedFault where
  fr      : FaultRec
  written : Bool
  deriving DecidableEq, Repr

/-- The system registers a thread keeps itself (R18, R19, R34). -/
structure SysRegs where
  tvec   : DWord
  tpc    : DWord
  tcause : DWord
  frp    : DWord
  wsp    : DWord
  wlim   : DWord
  fmode  : DWord
  fstat  : DWord
  xroot  : DWord
  xkey   : DWord
  deriving DecidableEq, Repr

/-- All system registers zero. -/
def SysRegs.zero : SysRegs := ⟨0, 0, 0, 0, 0, 0, 0, 0, 0, 0⟩

/-- A trap whose entry waits: the record of its fault, the PC of its instruction, the restart mask it will keep (R349), and whether its
record still has to be written (R28). -/
structure DueTrap where
  fr    : FaultRec
  pc    : DWord
  mask  : Option (BitVec 32)
  write : Bool
  deriving DecidableEq, Repr

/-- One thread: a lane of a wheel, or the thread of a front-end core (R11-R31). `low` is the lowest resident depth (R15),
`winPending` the pending window of R433, `armed` the restart mask in force (R349), `refused` the pages whose resolution was
refused (R221), `syncAt` the `syncw` it waits at with its clause (R193, R361), `blocked` that it waits at one of the stopping points of R361, `entryDue` that it has issued nothing yet,
`haltDue` that it stops at its next clause header, `resumed` the PC at which a debugger let it go on
(R369), `saveDepth` the depth of its save vector in a pending save, 0 once it has left it (R372), `restAt` the depth of its restore vector until the `rfe` from it (R353, R368), `jumped` how long the record of changed words
was at its last control transfer (R258), `due` a trap that its fault has decided and whose entry has had to wait (R28), `yields` the trap depths whose interrupted clause holds a `yield`, with the PC (R201),
`uniPoison` the error marks of a front-end core's own uniform registers (R420). -/
structure Thread where
  pc         : DWord
  clause     : Option Clause
  stack      : Sparse Word
  depth      : Nat
  low        : Nat
  winPending : Bool
  guards     : BitVec 8
  latch      : List LatchEntry
  long       : List LongOp
  sys        : SysRegs
  uni        : Sparse Word
  hpat       : Nat
  exited     : Bool
  waiting    : Bool
  syncAt     : Option (DWord × Clause)
  bufMode    : Bool
  loopBuf    : List (DWord × DWord)
  halted     : Bool
  haltDue    : Bool
  stopped    : Bool
  saveDepth  : Option Nat
  saveDone   : Bool
  posted     : List PostedFault
  lastRec    : FaultRec
  recCount   : Nat
  masks      : List Restart
  yields     : List (Nat × DWord)
  armed      : Option Restart
  refused    : List Nat
  regPoison  : List Nat
  uniPoison  : List Nat
  blocked    : Bool
  entryDue   : Bool
  resumed    : Option DWord
  restAt     : Option Nat
  jumped     : Nat
  due        : Option DueTrap
  deriving DecidableEq, Repr

/-- A thread whose registers read zero, at a PC, with a header due (R149). `exited` true is a core with no run. -/
def Thread.start (pc : DWord) (exited : Bool) : Thread where
  pc := pc
  clause := none
  stack := []
  depth := 0
  low := 0
  winPending := false
  guards := 1
  latch := [⟨0, 0, false⟩, ⟨0, 0, false⟩, ⟨0, 0, false⟩]
  long := []
  sys := SysRegs.zero
  uni := []
  hpat := 0
  exited := exited
  waiting := false
  syncAt := none
  bufMode := false
  loopBuf := []
  halted := false
  haltDue := false
  stopped := false
  saveDepth := none
  saveDone := false
  posted := []
  lastRec := FaultRec.zero
  recCount := 0
  masks := []
  yields := []
  armed := none
  refused := []
  regPoison := []
  uniPoison := []
  blocked := false
  entryDue := true
  resumed := none
  restAt := none
  jumped := 0
  due := none

/-! ### Wheels, mills -/

/-- A held fence slot (R245, R246): what it waits for, the lanes that issued it, and whether S holds EN (R236). -/
structure FenceSlot where
  gen   : Nat
  scope : Scope
  sc    : Bool
  recs  : List Nat
  lanes : List Nat
  en    : Bool
  deriving DecidableEq, Repr

/-- A handler instance (R269-R271): its pattern, the stamps it waits for (posted access and scope), and whether it has
begun to issue. -/
structure Instance where
  pat    : Nat
  stamps : List (Nat × Scope)
  begun  : Bool
  deriving DecidableEq, Repr

/-- The fence state that a wheel, or a front-end core, owns (R246); `stall` is the agent whose `fence` or `fwait` stalls the whole wheel
(R235, R247). -/
structure Fences where
  slots : List (Option FenceSlot)
  gen   : Nat
  stall : Option Agent
  deriving DecidableEq, Repr

/-- Four free slots, the count at 1 (R235, R246). -/
def Fences.start : Fences := ⟨[none, none, none, none], 1, none⟩

/-- A problem record as the engine uses it (R301). -/
structure WalkRec where
  m     : Nat
  n     : Nat
  k     : Nat
  flags : BitVec 32
  tm    : Nat
  tn    : Nat
  order : Nat
  afmt  : Nat
  bfmt  : Nat
  look  : Nat
  aslot : DWord
  bslot : DWord
  cslot : DWord
  asn   : Nat
  bsn   : Nat
  csn   : Nat
  pa    : Nat
  pb    : Nat
  pc    : Nat
  tlist : DWord
  tln   : Nat
  deriving DecidableEq, Repr

/-- A wheel (R146): its 32 threads and what it holds as one; `bufPc` is the PC whose turn it is among its buffer-mode lanes (R159),
`posting` the record that a `wpost` waiting for room has read, with its PC (R301, R325). -/
structure Wheel where
  threads  : List Thread
  handler  : Bool
  pipe     : Nat
  fences   : Fences
  paused   : Nat
  inst     : Option Instance
  saveFrom : Option Nat
  bufPc    : Option DWord
  posting  : Option (DWord × WalkRec)
  deriving DecidableEq, Repr

/-- A message in a port or at a walk input, with its stamps (R240, R262). -/
structure Msg where
  val    : DWord
  stamps : List (Nat × Scope)
  deriving DecidableEq, Repr

/-- A port (R260). `depth` is the capacity, 1-16. -/
structure Port where
  fifo   : List Msg
  depth  : Nat
  count  : Bool
  gang   : Bool
  drops  : BitVec 32
  sticky : Bool
  deriving DecidableEq, Repr

/-- The default configuration: depth 8, FAULT, mill scope (R261). -/
def Port.default : Port := ⟨[], 8, false, false, 0, false⟩

/-- A pattern: its 16-byte entry, live instances and age count (R265, R268). -/
structure Pattern where
  entry : BitVec 128
  live  : Nat
  age   : Nat
  deriving DecidableEq, Repr

/-- A flume entry (R282). -/
structure FlEntry where
  kind   : Nat
  esz    : Nat
  note   : BitVec 8
  nslot  : Nat
  rep    : Nat
  stage  : Nat
  sstep  : Nat
  src    : DWord
  dst    : DWord
  n0     : Nat
  n1     : Nat
  src1   : Int
  dst1   : Int
  rsrc   : Int
  rdst   : Int
  aux    : Nat
  deriving DecidableEq, Repr

/-- A flume operation in flight (R286): its number, entry and repeat, the elements done, whether its notice is out, and
whether it has failed (R293). What it has read for its elements once and for all (R287, R288): the index of a row, the mask's bits from
the first on, the first half read of a 16-byte element; each with whether a marked word was met. -/
structure FlOp where
  num      : Nat
  entry    : Nat
  rep      : Nat
  done     : List Nat
  noticed  : Bool
  failed   : Bool
  rows     : List (Nat × Nat × Bool)
  mask     : List (Bool × Bool)
  halves   : List (Nat × List Byte × Bool)
  deriving DecidableEq, Repr

/-- A flume context (R285-R294): the stage counter, the number of the next operation to issue, those in flight, those complete
beyond the counter, the counter, the lowest failed operation with its entry, the pages whose resolution was refused, each with the operation
that it was refused to (0: the engine records), and the last operation of the remainder that a save has left (R366). -/
structure Flume where
  stage    : BitVec 32
  next     : Nat
  ops      : List FlOp
  doneOps  : List Nat
  timeline : Nat
  halt     : Option (Nat × Nat)
  refused  : List (Nat × Nat)
  resume   : Nat
  deriving DecidableEq, Repr

/-- A flume context when its mill is placed (R285, R286). -/
def Flume.start : Flume := ⟨0, 1, [], [], 0, none, [], 0⟩

/-- States of an operand slot (R311). -/
inductive SlotState where
  | free | needed | ready | inuse
  deriving DecidableEq, Repr

/-- An operand slot: its state and the operand it holds (tile row or column, k-step). -/
structure OpSlot where
  st  : SlotState
  idx : Nat
  k   : Nat
  deriving DecidableEq, Repr

/-- States of an accumulator slot (R313). -/
inductive AccState where
  | free | accumulating | full | done
  deriving DecidableEq, Repr

/-- An accumulator slot: its state, its tile's place in walk order, and the sums of the tile while it accumulates (R316, R317). -/
structure AccSlot where
  st   : AccState
  tile : Nat
  vals : List Byte
  deriving DecidableEq, Repr

/-- Where a walk stands (R326). -/
inductive WalkState where
  | queued | running | cancelling | ended | halted
  deriving DecidableEq, Repr

/-- A walk of a mill on a context (R305-R326). `next` is the index of the next pair to begin in the step sequence, `busy`
says whether the pair before it is in the array, `list` holds the entries read so far from a tile list, `post` orders the
queue of the core, `again` is the state in which a restored walk resumes (R365), `acks` counts accepted ACCFREEs. -/
structure Walk where
  rc       : WalkRec
  ctx      : Nat
  num      : Nat
  base     : Nat
  post     : Nat
  st       : WalkState
  again    : Option WalkState
  list     : List (Nat × Nat)
  next     : Nat
  busy     : Bool
  aslots   : List OpSlot
  bslots   : List OpSlot
  cslots   : List AccSlot
  nextDone : Nat
  freed    : List Nat
  acks     : Nat
  waitA    : Nat
  waitB    : Nat
  waitC    : Nat
  waitTok  : Nat
  postPc   : DWord
  deriving DecidableEq, Repr

/-- What a mill keeps of a walk context (R306): walks posted, tiles posted, completed tile operations beyond the counter as
ranges, the counter, the walks, the context's input not yet accepted, the halt that left the counter short, and the WALKENDs
that wait for room with their ports. -/
structure WalkCtx where
  posted   : Nat
  tiles    : Nat
  doneOps  : List (Nat × Nat)
  timeline : Nat
  walks    : List Walk
  input    : List Msg
  halted   : Bool
  wends    : List (Nat × DWord)
  deriving DecidableEq, Repr

/-- A context's state when its mill is placed (R306). -/
def WalkCtx.start : WalkCtx := ⟨0, 0, [], 0, [], [], false, []⟩

/-- A wheel that still reads an older value of a uniform register (R163): the value it reads, and the later ones with the cycle at
which each was written. -/
structure Behind where
  whl  : Nat
  reg  : Nat
  old  : Word
  next : List (Word × Nat)
  deriving DecidableEq, Repr

/-- Life of a mill (R173, R174, R354, R355). -/
inductive MillState where
  | running | evicted | draining | freed
  deriving DecidableEq, Repr

/-- A mill (R146). `core` is where it is placed; scratchpad bytes lie in State.mem under its uid. `rowMarks` are the poisoned accumulator
rows, by offset and bytes (R318), `lateRecs` the engine records whose page at `frp` the front end is still to resolve (R323), `area`
the context save area it holds: address and bytes (R364). -/
structure Mill where
  uid      : Nat
  gang     : Nat
  f2       : Nat
  core     : Nat
  st       : MillState
  aborted  : Bool
  wheels   : List Wheel
  sregs    : Sparse Word
  claims   : Sparse Nat
  uniPoison : List Nat
  behind   : List Behind
  tables   : List (List Byte)
  ports    : List Port
  pats     : List Pattern
  flume    : Flume
  ctxs     : List WalkCtx
  bud      : Nat
  closed   : Bool
  lastEng  : FaultRec
  engCount : Nat
  scratch  : Nat
  acc      : Nat
  claimed  : Bool
  frozen   : Bool
  err      : Option FaultRec
  rowMarks : List (Nat × Nat)
  lateRecs : List FaultRec
  area     : Option (Nat × Nat)
  deriving DecidableEq, Repr

/-! ### Grids, gangs, commands -/

/-- A launch record as the device reads it (R150). -/
structure Launch where
  entry    : DWord
  wid      : DWord
  ext      : List Nat
  wheels   : Nat
  hres     : Nat
  gang     : Nat
  minwin   : Nat
  scratch  : Nat
  acc      : Nat
  param    : DWord
  tvec     : DWord
  sched    : DWord
  schedn   : Nat
  pats     : DWord
  pcfg     : DWord
  deadline : Nat
  budget   : Nat
  eng      : Nat
  rtotal   : Nat
  rmin     : Nat
  rdiv     : Nat
  spill    : DWord
  spillsz  : Nat
  frp      : DWord
  deriving DecidableEq, Repr

/-- A grid (R146): its record and the images read at enqueue, its range cursor (R168), what is left of it, and how many of its gangs have been
placed. -/
structure Grid where
  uid      : Nat
  part     : Nat
  queue    : Nat
  cmd      : Nat
  seed     : Bool
  lr       : Launch
  params   : List Word
  patImg   : List (BitVec 128)
  portImg  : List (BitVec 32)
  sched    : List FlEntry
  cursor   : Nat
  left     : Nat
  placed   : Nat
  dead     : Bool
  deriving DecidableEq, Repr

/-- Life of a gang. -/
inductive GangState where
  | unplaced | resident | evicted | retired
  deriving DecidableEq, Repr

/-- A pre-emption in progress (R360-R363): its class and subcode, and the steps passed. -/
structure SaveReq where
  cls    : BitVec 8
  sub    : BitVec 8
  frozen : Bool
  deriving DecidableEq, Repr

/-- A gang (R146, R170, R357): of the gangs of a grid that have never been placed the first is listed, the later ones stand
behind it with the same key and starvation count. `order` places equal keys: enqueue order, later for a gang that rejoins (R358). -/
structure Gang where
  uid    : Nat
  grid   : Nat
  num    : Nat
  st     : GangState
  order  : Nat
  age    : Nat
  starve : Nat
  yield  : Bool
  save   : Option SaveReq
  restoring : Bool
  mills  : List Nat
  deriving DecidableEq, Repr

/-- A command that has started (R167, R399). `tree` is the spawn-tree counter of a LAUNCH, `phase` how far a command of several
steps has come, `old` that its queue has been restarted since and `names` the command that ARG2 of a SIGNAL names (R399), `body` the receipt or
image it is to write (R404, R413). -/
structure Cmd where
  uid    : Nat
  queue  : Nat
  opcode : Nat
  flags  : BitVec 8
  seq    : BitVec 32
  args   : List DWord
  tree   : Nat
  done   : Bool
  err    : Option FaultRec
  phase  : Nat
  old    : Bool
  names  : Option Nat
  body   : List Byte
  deriving DecidableEq, Repr

/-! ### Memory side -/

/-- The fence sets of R229. -/
inductive AccSet where
  | ld | st | at | en | ho
  deriving DecidableEq, Repr

/-- A memory-side operation (R250-R252): its number, its width in bits, its operand, and the compare value of a `cas` or the
second address of a `.add2`. -/
structure MemOp where
  op : Nat
  w  : Nat
  c  : DWord
  b  : DWord
  deriving DecidableEq, Repr

/-- An access that has issued and not yet performed (R123, R228): a store's bytes, a memory-side operation, or a load of `rd`
bytes, at a memory key, with the scope at which it has performed so far. `settled` is its place in settled order once its
home has performed it (R383), `place` its place in the coherence order of its die, which it takes as it first performs at a scope (R230),
`bad` the cause of its failure after translation (R353), `tag` its link transaction, `held` the `frp`
and record count of its thread when that thread's handler instance has retired, `access` the ACCESS word of its record (R351, R353).
`grp` names the instruction or element it belongs to, `whole` the bytes that the write it is a part of covers (R420, R421). `readers` are
the threads whose accesses of a set have read this write, or that have learned of it by a handoff or a timeline (no set) (R234). `fenced`
are the threads one of whose completed fences with EN in S covers it, `engines` the mills whose engines see it from then on, whatever the
byte (R236, R241, R243, R245). -/
structure Posted where
  id      : Nat
  owner   : Agent
  lane    : Nat
  mill    : Option Nat
  gang    : Option Nat
  die     : Option Nat
  pc      : DWord
  va      : DWord
  key     : Nat
  bytes   : List Byte
  red     : Option MemOp
  rd      : Nat
  set     : AccSet
  kid     : Nat
  sc      : Bool
  reach   : Option Scope
  settled : Option Nat
  bad     : Option Nat
  tag     : Option Nat
  held    : Option (DWord × Nat)
  access  : BitVec 32
  place   : Option Nat
  grp     : Nat
  whole   : Nat × Nat
  readers : List (Agent × Nat × Option AccSet)
  fenced  : List (Agent × Nat)
  engines : List Nat
  deriving DecidableEq, Repr

/-- Cross-die messages (R380, R382): a remote write names its posted access, a push carries bytes, the key-ID they were written under and
their settled place, a fetch response a line as it reads under a key-ID (R212); `answer` and `reply` are fetch responses that no copy keeps,
for a load in flight and for a read that waits as a transaction (R212, R238). -/
inductive XKind where
  | write (posted : Nat)
  | push (key kid : Nat) (bytes : List Byte) (settled : Nat) (posted : Option Nat)
  | fetch (line kid : Nat) (bytes : List Byte)
  | answer (posted : Nat) (bytes : List Byte)
  | reply (tag : Nat) (bytes : List Byte)
  | beacon
  deriving DecidableEq, Repr

/-- What instruction fetch may still see of memory that has changed (R258): a word's value before a write performed at a die (4 for the
base die), by key-ID and key, with the write where it comes from another die; the lines that a `cinv.l1` has covered on a core; and that a
write from another die has performed at package scope. -/
inductive CodeEvt where
  | wrote (die kid key : Nat) (old : Word) (src : Option Nat)
  | cinv (core : Nat) (lines : List Nat)
  | done (id : Nat)
  deriving DecidableEq, Repr

/-- A cross-die message with its sequence number and clock (R381). -/
structure XMsg where
  src  : Nat
  dst  : Nat
  num  : Nat
  clk  : List Nat
  kind : XKind
  deriving DecidableEq, Repr

/-- A compute die (R206, R381, R415, R417): SEQ, KN, its L2 copies of remote-homed lines, each under the line and the key-ID it was read
under (R212), split and power, the words of its L2's lines that are marked
poisoned, by copy and word, and of the L1s of its cores, by core, copy and word (R420). -/
structure Die where
  seq     : Nat
  kn      : List Nat
  copies  : Sparse (List Byte)
  sentTo  : List Nat
  pond16  : Nat
  tokens  : Nat
  throttled : Bool
  marks   : List (Nat × Nat)
  l1Marks : List (Nat × Nat × Nat)
  deriving DecidableEq, Repr

/-- A page-table leaf as translation uses it (R215). -/
structure Leaf where
  frame : Nat
  size  : Nat
  kid   : Nat
  node  : Nat
  mov   : Bool
  cmp   : Bool
  tier  : Nat
  sc    : Bool
  x     : Bool
  w     : Bool
  r     : Bool
  deriving DecidableEq, Repr

/-- A TLB entry of a core, or of a cluster by its number (R218): the address space's root, the page base, and the leaf. -/
structure TlbEntry where
  core : Nat
  root : Nat
  base : Nat
  leaf : Leaf
  deriving DecidableEq, Repr

/-- An outstanding fault request (R221): one per page per mill, with the threads that wait and the record each fault would have. -/
structure FaultReq where
  id      : Nat
  root    : Nat
  page    : Nat
  mill    : Option Nat
  threads : List (Agent × Nat × FaultRec)
  deriving DecidableEq, Repr

/-- A page being moved (R224): where its leaf lies and the leaf it will hold; for a page of another device, how far its copy has come, and the
transactions that make it: 0 not begun, 1 being read, 2 being written. -/
structure PageMove where
  root  : Nat
  va    : Nat
  entry : Nat
  size  : Nat
  src   : Nat
  lo    : DWord
  hi    : DWord
  stage : Nat
  tags  : List Nat
  deriving DecidableEq, Repr

/-! ### Front end, host, trust, link -/

/-- The events of the hardware event queue (R401). A fault request carries the lock of the queue that it concerns. -/
inductive FeEvent where
  | doorbell (q : Nat)
  | faultReq (id : Nat) (lock : Option Nat)
  | gridDone (cmd : Nat)
  | cmdDone (cmd : Nat)
  | escalated (q : Nat) (seq : BitVec 32) (rec : FaultRec)
  | link (port : Nat)
  | spdm (code : Nat)
  | tdisp (part : Nat)
  | partWrite (part : Nat)
  deriving DecidableEq, Repr

/-- A front-end core (R33, R401): its thread, its fences, the event it runs, and the queue whose lock that event's run holds. -/
structure FeCore where
  thread : Thread
  fences : Fences
  paused : Nat
  run    : Option FeEvent
  lock   : Option Nat
  deriving DecidableEq, Repr

/-- A host queue (R395, R396). `refused` are pages whose resolution was refused to the command at its head (R436). -/
structure Queue where
  base    : DWord
  logsz   : Nat
  ctrl    : BitVec 8
  root    : DWord
  status  : DWord
  tail    : Nat
  seen    : Nat
  head    : Nat
  doneseq : BitVec 32
  state   : Nat
  errseq  : BitVec 32
  error   : FaultRec
  refused : List Nat
  deriving DecidableEq, Repr

/-- A queue no register of which has been written. -/
def Queue.zero : Queue := ⟨0, 0, 0, 0, 0, 0, 0, 0, 0, 2, 0, FaultRec.zero, []⟩

/-- The TDISP states (R408). -/
inductive Tdisp where
  | unlocked | locked | run | error
  deriving DecidableEq, Repr

/-- An open engagement (R412-R414): its key-IDs, the generation of their keys, the pond granules its agents wrote, the
spill areas (root, address, size), save areas (address, bytes), register pools and scratchpads used, and the head of its access-log chain. -/
structure Engagement where
  num      : Nat
  kids     : List Nat
  granules : List Nat
  spills   : List (Nat × Nat × Nat)
  saves    : List (Nat × Nat)
  pools    : List Nat
  pads     : List Nat
  logHead  : BitVec 256
  deriving DecidableEq, Repr

/-- A range monitor (R414): its range and, per key-ID, reads and writes. -/
structure Monitor where
  base   : DWord
  limit  : DWord
  counts : Sparse (Nat × Nat)
  deriving DecidableEq, Repr

/-- An access-log entry (R414). -/
structure LogEntry where
  monitor : Nat
  cause   : Nat
  kid     : Nat
  index   : Nat
  reads   : Nat
  writes  : Nat
  prev    : BitVec 256
  deriving DecidableEq, Repr

/-- An event ring (R402, R403). -/
structure Ring where
  evbase  : DWord
  evlog   : Nat
  evhead  : BitVec 32
  evtail  : BitVec 32
  lost    : BitVec 32
  summary : Bool
  seqs    : Sparse Nat
  msix    : Nat
  deriving DecidableEq, Repr

/-- A reserved cluster (R171): the gang it is kept for. -/
structure Reservation where
  gang    : Nat
  cluster : Nat
  deriving DecidableEq, Repr

/-- A partition entry (R393, R394) with what runs in it. -/
structure Partition where
  valid    : Bool
  refused  : Bool
  clusters : BitVec 64
  hbmBase  : DWord
  hbmSize  : DWord
  t1Base   : DWord
  t1Size   : DWord
  pond     : List (Nat × Nat)
  split    : List Nat
  keyFirst : Nat
  keyCount : Nat
  saveBase : DWord
  saveSize : DWord
  node     : BitVec 16
  qFirst   : Nat
  qCount   : Nat
  tdisp    : Tdisp
  ring     : Ring
  bar0     : DWord
  monitors : List Monitor
  log      : List LogEntry
  logNext  : Nat
  logDrops : Nat
  engs     : List Engagement
  resv     : Option Reservation
  deriving DecidableEq, Repr

/-- A partition entry that has never been written: SPLIT stands at its default, 128 MiB (R206; DEDUCED, log 45). -/
def Partition.zero : Partition where
  valid := false
  refused := false
  clusters := 0
  hbmBase := 0
  hbmSize := 0
  t1Base := 0
  t1Size := 0
  pond := [(0, 0), (0, 0), (0, 0), (0, 0)]
  split := [8, 8, 8, 8]
  keyFirst := 0
  keyCount := 0
  saveBase := 0
  saveSize := 0
  node := 0
  qFirst := 0
  qCount := 0
  tdisp := .unlocked
  ring := ⟨0, 4, 0, 0, 0, false, [], 0⟩
  bar0 := 0
  monitors := []
  log := []
  logNext := 1
  logDrops := 0
  engs := []
  resv := none

/-- A link port (R388-R390): sequence numbers, the flits kept until acknowledged, credits per VC, and its state (0 up,
1 retraining, 2 down). -/
structure LinkPort where
  txSeq   : Nat
  rxNext  : Nat
  unacked : List Flit
  sendQ   : List Flit
  credits : List Nat
  freed   : List Nat
  replays : Nat
  st      : Nat
  deriving DecidableEq, Repr

/-- A port after the link counters are zeroed and the port has trained (R418). -/
def LinkPort.start : LinkPort := ⟨0, 1, [], [], [15, 15, 15, 15], [0, 0, 0, 0], 0, 0⟩

/-- A remote transaction (R386-R389): its TAG, the thread or flume operation it serves, and its response when it is back (STATUS and
bytes). -/
structure Txn where
  tag    : Nat
  owner  : Option (Agent × Nat)
  mill   : Option Nat
  pc     : DWord
  va     : DWord
  size   : Nat
  posted : Option Nat
  resp   : Option (Nat × List Byte)
  deriving DecidableEq, Repr

/-- A write that the link has delivered into an inbox and that has not performed (R391, R392): the mill by grid and rank, the
runs of bytes by their offset in its allocation, and the sender's node and TAG. -/
structure InWrite where
  id   : Nat
  grid : Nat
  rank : Nat
  runs : List (Nat × List Byte)
  node : Nat
  tag  : Nat
  deriving DecidableEq, Repr

/-- What a snapshot latches (R404, R405): one entry per block, (block, kind, lag, values). -/
structure SnapEntry where
  block : Nat
  kind  : Nat
  lag   : Nat
  vals  : List DWord
  deriving DecidableEq, Repr

/-- An SPDM or TDISP response sent over DOE (R407): its code and its bytes. -/
structure SpdmMsg where
  code : Nat
  body : List Byte
  deriving DecidableEq, Repr

/-- The trust state of the base die (R409-R411). -/
structure Trust where
  identity : Nat
  attGen   : Nat
  attIndex : Nat
  attCert  : Nat
  attLive  : Bool
  measure  : List (BitVec 256)
  sessions : List (Nat × BitVec 256)
  idePf    : Bool
  ideVf    : List Nat
  out      : List SpdmMsg
  keyGens  : Nat
  deriving DecidableEq, Repr

/-- Bring-up and power registers of function 0 (R394, R415-R418). `power` says that the part is powered, `up` that it has passed
step 6; `gating` that the host has asked for power gating, `gated` that the part is gated, `waking` that its wake sequence runs;
`vacated` are the cores that take no placement (R360). -/
structure Board where
  fwAddr  : DWord
  fwSize  : BitVec 32
  fwStat  : BitVec 32
  nodeId  : BitVec 32
  cap     : Nat
  tokens  : Nat
  therm   : BitVec 32
  up      : Bool
  gated   : Bool
  gating  : Bool
  power   : Bool
  waking  : Bool
  vacated : List Nat
  deriving DecidableEq, Repr

/-- What happens next, as plain data: an event, one issue of an agent, or the choice that the next steps make where a rule gives two
outcomes (DESIGN CHOICE, log 1). An event whose conditions do not hold does nothing (DESIGN CHOICE, log 51). -/
inductive Act where
  | ev (i : Instr)
  | turn (a : Agent)
  | pick (l : List (Nat × Nat))
  deriving DecidableEq, Repr

/-- The package. `places` counts the places of coherence order given out (R230), `tlb2` are the clusters' TLBs (R218), `feLog` the front
end's log of faults that were resolved and replayed (R221). `snapAt` is the cycle of the first latch of the last snapshot, `snapDue` the
blocks that are still to latch: block, kind, lag (R404). `served` holds, per core, 1 plus the walk context that the array served last (R307),
`holders` the clusters that hold a power token (R415). `fixed` holds, per page frame, the times of the last day's corrections (R422),
`sramErrs` counts those of on-die SRAM (R420). -/
structure State where
  mem      : Memory
  lineKeys : Sparse Nat
  kidGens  : Sparse Nat
  poison   : List Nat
  fixed    : Sparse (List Nat)
  sramErrs : Nat
  posted   : List Posted
  settle   : Nat
  places   : Nat
  dies     : List Die
  xmsgs    : List XMsg
  tlb      : List TlbEntry
  tlb2     : List TlbEntry
  reqs     : List FaultReq
  feLog    : List FaultRec
  moves    : List PageMove
  code     : List CodeEvt
  clk      : Nat
  feClk    : Nat
  grids    : List Grid
  gangs    : List Gang
  mills    : List Mill
  cmds     : List Cmd
  fe       : List FeCore
  evq      : List FeEvent
  parts    : List Partition
  queues   : Sparse Queue
  wake     : List Nat
  board    : Board
  trust    : Trust
  ports    : List LinkPort
  txns     : List Txn
  inbox    : List InWrite
  snap     : List SnapEntry
  snapAt   : Option Nat
  snapDue  : List (Nat × Nat × Nat)
  served   : Sparse Nat
  holders  : List Nat
  watch    : List (Nat × DWord)
  debugOut : List DWord
  waitTl   : List (Nat × DWord × DWord)
  devSeq   : Nat
  agenda   : List Act
  picks    : Sparse Nat
  cur      : Agent
  steps    : Nat
  fresh    : Nat
  free     : Nat
  deriving DecidableEq, Repr

/-- A fault of the model itself: the machine has no such agent to issue. -/
inductive Fault where
  /-- Raised by a step whose agent does not exist in the state (a mill, wheel or core that is not there): no run reaches
  it from a placed agent. Safe: the model stops where nothing could issue. -/
  | noAgent
  deriving DecidableEq, Repr

/-- A refusal. -/
inductive Refusal where
  /-- Raised by an arm of exec whose instruction has no meaning yet. Safe: nothing can be proved of it. -/
  | notModelled (mnemonic : String)
  deriving DecidableEq, Repr

/-- What a meaning answers. -/
abbrev Out := Host.Outcome State Fault Refusal

/-- A die after power-up: counters zero (R381), the default 128 MiB pond (R206), 9 tokens for a 3,000 W cap (R415). -/
def Die.start : Die := ⟨0, [0, 0, 0, 0], [], [0, 0, 0, 0], 8, 9, false, [], []⟩

/-- A front-end core with no run (R401). -/
def FeCore.idle : FeCore := ⟨Thread.start 0 true, Fences.start, 0, none, none⟩

/-- The package after power-up, awaiting its firmware image: FWSTAT 0 (R394), the wake latch clear, every counter zero,
CAP 3,000 and TOKENS 0 (R415, R418) (DESIGN CHOICE, log 3). -/
def State.reset : State where
  mem := []
  lineKeys := []
  kidGens := []
  poison := []
  fixed := []
  sramErrs := 0
  posted := []
  settle := 0
  places := 0
  dies := [Die.start, Die.start, Die.start, Die.start]
  xmsgs := []
  tlb := []
  tlb2 := []
  reqs := []
  feLog := []
  moves := []
  code := []
  clk := 0
  feClk := 0
  grids := []
  gangs := []
  mills := []
  cmds := []
  fe := List.replicate 12 FeCore.idle
  evq := []
  parts := List.replicate 8 Partition.zero
  queues := []
  wake := []
  board := ⟨0, 0, 0, 0, 3000, 0, 0, false, false, false, true, false, []⟩
  trust := ⟨Config.identityStart, 0, 0, 0, false, List.replicate 10 0, [], false, [], [], 0⟩
  ports := List.replicate 18 LinkPort.start
  txns := []
  inbox := []
  snap := []
  snapAt := none
  snapDue := []
  served := []
  holders := []
  watch := []
  debugOut := []
  waitTl := []
  devSeq := 0
  agenda := []
  picks := []
  cur := .fe 0
  steps := 0
  fresh := 1
  free := 0

end Sys2Proof.Machine
end

