-- ==== Sys2Proof/Machine/Sparse.lean ====
section
/-! DEFINITION. Sparse maps over Nat keys in one canonical form: keys strictly rising, no entry equal to what an unlisted
key reads as. Memory, register stacks and the larger tables are such maps. -/

namespace Sys2Proof.Machine

/-- What a key reads as: its entry, else the default. -/
def sget {α : Type} (d : α) : Sparse α → Nat → α
  | [], _ => d
  | (k, v) :: m, x => if k = x then v else sget d m x

/-- Put an entry in its place. -/
def sinsert {α : Type} : Sparse α → Nat → α → Sparse α
  | [], x, v => [(x, v)]
  | (k, w) :: m, x, v =>
    if x < k then (x, v) :: (k, w) :: m
    else if x = k then (x, v) :: m
    else (k, w) :: sinsert m x v
/-- Write one key, keeping the canonical form: writing the default removes the entry. -/
def sput {α : Type} [DecidableEq α] (d : α) (m : Sparse α) (x : Nat) (v : α) : Sparse α :=
  if v = d then m.filter (fun p => p.1 != x) else sinsert m x v

/-- Drop every entry whose key is in [lo, hi): those keys read the default. -/
def sclear {α : Type} (m : Sparse α) (lo hi : Nat) : Sparse α :=
  m.filter fun p => p.1 < lo || hi ≤ p.1

/-- Every key in `m` is above `lo` and rises, and no entry is the default. -/
def swfFrom {α : Type} [DecidableEq α] (d : α) (lo : Nat) : Sparse α → Bool
  | [] => true
  | (k, v) :: m => lo ≤ k && v != d && swfFrom d (k + 1) m

/-- The canonical form. -/
def swf {α : Type} [DecidableEq α] (d : α) (m : Sparse α) : Bool := swfFrom d 0 m

/-- The memory's canonical form: addresses strictly rising, no listed byte equal to 0. -/
def Memory.wf (m : Memory) : Bool := swf (0 : Byte) m

/-- Insert into a sorted list of Nat without repeats. -/
def insertNat (x : Nat) : List Nat → List Nat
  | [] => [x]
  | y :: ys => if x < y then x :: y :: ys else if x = y then y :: ys else y :: insertNat x ys

/-- Replace the n-th element of a list; unchanged where there is none. -/
def setAt {α : Type} : List α → Nat → α → List α
  | [], _, _ => []
  | _ :: xs, 0, v => v :: xs
  | x :: xs, n + 1, v => x :: setAt xs n v

/-- Change the n-th element of a list; unchanged where there is none. -/
def modAt {α : Type} : List α → Nat → (α → α) → List α
  | [], _, _ => []
  | x :: xs, 0, f => f x :: xs
  | x :: xs, n + 1, f => x :: modAt xs n f

end Sys2Proof.Machine
end

