-- ==== Sys2Proof/Machine/Num.lean ====
section
/-! DEFINITION. Number formats, exact values, rounding, flags and sums (spec/04_number_formats.md R54-R71). A finite value
is an exact dyadic number; every operation is exact until its one rounding. -/

namespace Sys2Proof.Machine

/-- What a code of a floating-point format means: a NaN (signalling or quiet, R58), an infinity, or the finite value
(-1)^neg * m * 2^e (R55). -/
inductive FV where
  | nan (sig : Bool)
  | inf (neg : Bool)
  | fin (neg : Bool) (m : Nat) (e : Int)
  deriving DecidableEq, Repr

/-- The rounding modes of R65. -/
inductive RMode where
  | rne | rtz | rup | rdn
  deriving DecidableEq, Repr

/-- Which codes with an all-ones exponent are special (R55): as FP32; E4M3's one NaN; none. -/
inductive FKind where
  | ieee | e4m3 | e2m1
  deriving DecidableEq, Repr

/-- A floating-point format (R55): widths of exponent and mantissa, bias, special codes, largest finite code and canonical
NaN (R58; E2M1 has none, 0 stands for it under R68). -/
structure Fmt where
  ebits : Nat
  mbits : Nat
  bias  : Nat
  kind  : FKind
  maxC  : Nat
  nanC  : Nat
  deriving DecidableEq, Repr

def fp32 : Fmt := ⟨8, 23, 127, .ieee, 0x7F7FFFFF, 0x7FC00000⟩
def fp16 : Fmt := ⟨5, 10, 15, .ieee, 0x7BFF, 0x7E00⟩
def bf16 : Fmt := ⟨8, 7, 127, .ieee, 0x7F7F, 0x7FC0⟩
def e5m2 : Fmt := ⟨5, 2, 15, .ieee, 0x7B, 0x7E⟩
def e4m3 : Fmt := ⟨4, 3, 7, .e4m3, 0x7E, 0x7F⟩
def e2m1 : Fmt := ⟨2, 1, 1, .e2m1, 0x7, 0x0⟩

/-- The exponent of the smallest normal value. -/
def Fmt.emin (f : Fmt) : Int := 1 - (f.bias : Int)
/-- The place of the sign bit, and the code of +infinity. -/
def Fmt.signAt (f : Fmt) : Nat := f.ebits + f.mbits
def Fmt.infC (f : Fmt) : Nat := (2 ^ f.ebits - 1) * 2 ^ f.mbits
/-- A sign and a magnitude code. -/
def Fmt.code (f : Fmt) (neg : Bool) (mag : Nat) : Nat := (if neg then 2 ^ f.signAt else 0) + mag

/-- The value of a code (R55-R58). -/
def Fmt.val (f : Fmt) (c : Nat) : FV :=
  let neg := bitAt c f.signAt
  let mag := c % 2 ^ f.signAt
  let ex := mag / 2 ^ f.mbits
  let mt := mag % 2 ^ f.mbits
  if ex = 0 then .fin neg mt (f.emin - f.mbits)
  else if ex = 2 ^ f.ebits - 1 ∧ f.kind = .ieee then
    if mt = 0 then .inf neg
    else .nan (mt < 2 ^ (f.mbits - 1) && !(f.mbits == 2))
  else if ex = 2 ^ f.ebits - 1 ∧ f.kind = .e4m3 ∧ mt = 7 then .nan false
  else .fin neg (2 ^ f.mbits + mt) (f.emin - f.mbits + (ex - 1 : Nat))

/-- A source read under flush: a code whose E field is 0 reads as zero of its sign (R67). -/
def Fmt.read (f : Fmt) (flush : Bool) (c : Nat) : FV :=
  match f.val c with
  | .fin neg m e => if flush && (c % 2 ^ f.signAt) / 2 ^ f.mbits == 0 then .fin neg 0 e else .fin neg m e
  | v => v

/-- The sticky flags of R69, as bits of fstat. -/
def fInvalid : BitVec 5 := 1
def fDivZero : BitVec 5 := 2
def fOverflow : BitVec 5 := 4
def fUnderflow : BitVec 5 := 8
def fInexact : BitVec 5 := 16

/-- A result: its code and the flags it sets. -/
structure FRes where
  code  : Nat
  flags : BitVec 5
  deriving DecidableEq, Repr

/-- Overflow(s, fmt, mode) of R66; `inf` is the `.inf` of a conversion into E5M2, and true of FP32, FP16 and BF16. -/
def overflowCode (f : Fmt) (inf : Bool) (mode : RMode) (neg : Bool) : Nat :=
  if inf then
    match mode with
    | .rne => f.code neg f.infC
    | .rtz => f.code neg f.maxC
    | .rup => f.code neg (if neg then f.maxC else f.infC)
    | .rdn => f.code neg (if neg then f.infC else f.maxC)
  else f.code neg f.maxC

/-- Formats that overflow to an infinity without being asked (R66). -/
def Fmt.overInf (f : Fmt) : Bool := f.kind == .ieee && f.mbits != 2

/-- Divide m by 2^k, rounding by the mode for a value of sign `neg`; true when the quotient is not exact (R64). -/
def shiftRound (mode : RMode) (neg : Bool) (m k : Nat) : Nat × Bool :=
  if k > Nat.log2 m + 1 then
    -- below half of the spacing
    let up := match mode with
      | .rup => !neg
      | .rdn => neg
      | _ => false
    (if up && m != 0 then 1 else 0, m != 0)
  else
    let lo := m / 2 ^ k
    let rem := m % 2 ^ k
    if rem = 0 then (lo, false)
    else
      let up := match mode with
        | .rne => if 2 * rem = 2 ^ k then lo % 2 == 1 else decide (2 * rem > 2 ^ k)
        | .rtz => false
        | .rup => !neg
        | .rdn => neg
      (if up then lo + 1 else lo, true)

/-- RoundTo(x, fmt, mode) of R64 for x = (-1)^neg * m * 2^e, with the overflow of R66 and the flags of R69; `inf` as in
`overflowCode`. A zero gives zero of its sign. -/
def roundTo (f : Fmt) (inf : Bool) (mode : RMode) (neg : Bool) (m : Nat) (e : Int) : FRes :=
  if m = 0 then ⟨f.code neg 0, 0⟩
  else
    let ex : Int := (Nat.log2 m : Int) + e
    let e' : Int := max ex f.emin
    let qe : Int := e' - f.mbits
    let r := if e ≥ qe then (m * 2 ^ (e - qe).toNat, false) else shiftRound mode neg m (qe - e).toNat
    let mag := (e' - f.emin).toNat * 2 ^ f.mbits + r.1
    if mag > f.maxC then ⟨overflowCode f inf mode neg, fOverflow ||| fInexact⟩
    else ⟨f.code neg mag, (if r.2 then fInexact else 0) ||| (if r.2 ∧ ex < f.emin then fUnderflow else 0)⟩

/-- Flush a rounded FP32 result: non-zero and below 2^-126 becomes zero of its sign, underflow and inexact set (R67). -/
def flushRes (flush : Bool) (r : FRes) : FRes :=
  let mag := r.code % 2 ^ 31
  if flush ∧ mag ≠ 0 ∧ mag < 2 ^ 23 then ⟨r.code - mag, r.flags ||| fUnderflow ||| fInexact⟩ else r

/-! ### Exact arithmetic -/

/-- The exact product, zero signed by XOR; 0 times infinity is a NaN (R91). -/
def mulV (x y : FV) : FV :=
  match x, y with
  | .nan s, .nan t => .nan (s || t)
  | .nan s, _ => .nan s
  | _, .nan t => .nan t
  | .inf a, .inf b => .inf (a != b)
  | .inf a, .fin b m _ => if m = 0 then .nan false else .inf (a != b)
  | .fin a m _, .inf b => if m = 0 then .nan false else .inf (a != b)
  | .fin a m e, .fin b n f => .fin (a != b) (m * n) (e + f)

/-- A product with no defined value (R69). -/
def mulInvalid (x y : FV) : Bool :=
  match x, y with
  | .inf _, .fin _ m _ => m == 0
  | .fin _ m _, .inf _ => m == 0
  | _, _ => false

def FV.isNan : FV → Bool
  | .nan _ => true
  | _ => false
def FV.isSig : FV → Bool
  | .nan s => s
  | _ => false
def FV.isInf (neg : Bool) : FV → Bool
  | .inf n => n == neg
  | _ => false
def FV.isNegZero : FV → Bool
  | .fin n m _ => n && m == 0
  | _ => false
/-- The value with its sign inverted. -/
def FV.negate : FV → FV
  | .nan s => .nan s
  | .inf n => .inf !n
  | .fin n m e => .fin (!n) m e
/-- The finite value as an integer in units of 2^u, for u at most its exponent; 0 for the others. -/
def FV.units (u : Int) : FV → Int
  | .fin n m e => (if n then -1 else 1) * (m * 2 ^ (e - u).toNat : Nat)
  | _ => 0
/-- The least exponent of the finite values of a list. -/
def minExp : List FV → Int → Int
  | [], u => u
  | .fin _ _ e :: l, u => minExp l (min e u)
  | _ :: l, u => minExp l u
def FV.exp0 : List FV → Int
  | [] => 0
  | .fin _ _ e :: l => minExp l e
  | _ :: l => FV.exp0 l

/-- ExactSum under R70; the Bool is the invalid flag of infinities of both signs. `mode` decides the sign of a zero sum. -/
def exactSum (mode : RMode) (l : List FV) : FV × Bool :=
  if l.any FV.isNan then (.nan false, false)
  else if l.any (FV.isInf false) && l.any (FV.isInf true) then (.nan false, true)
  else if l.any (FV.isInf false) then (.inf false, false)
  else if l.any (FV.isInf true) then (.inf true, false)
  else
    let u := FV.exp0 l
    let t := l.foldl (fun acc v => acc + v.units u) (0 : Int)
    if t = 0 then (.fin (!l.isEmpty && (l.all FV.isNegZero || mode == .rdn)) 0 u, false)
    else (.fin (decide (t < 0)) t.natAbs u, false)

/-- Round a value into a format: NaN to the canonical NaN, an infinity kept (formats that hold one), a finite value by
RoundTo, and the flush of R67 when asked. -/
def finish (f : Fmt) (mode : RMode) (flush : Bool) (v : FV) : FRes :=
  match v with
  | .nan _ => ⟨f.nanC, 0⟩
  | .inf n => ⟨f.code n f.infC, 0⟩
  | .fin n m e => flushRes flush (roundTo f f.overInf mode n m e)

/-- The case table of R91 over products and addends: signalling NaNs first, then 0 x infinity, quiet NaNs, opposed
infinities, infinities, zeros, and one rounding. -/
def sumOp (f : Fmt) (mode : RMode) (flush : Bool) (prods : List (FV × FV)) (adds : List FV) : FRes :=
  if prods.any (fun p => p.1.isSig || p.2.isSig) || adds.any FV.isSig then ⟨f.nanC, fInvalid⟩
  else if prods.any (fun p => mulInvalid p.1 p.2) then ⟨f.nanC, fInvalid⟩
  else
    let s := exactSum mode (prods.map (fun p => mulV p.1 p.2) ++ adds)
    let r := finish f mode flush s.1
    ⟨r.code, r.flags ||| (if s.2 then fInvalid else 0)⟩

/-- One product, its zero signed by XOR (R91). -/
def mulOp (f : Fmt) (mode : RMode) (flush : Bool) (x y : FV) : FRes :=
  if x.isSig || y.isSig || mulInvalid x y then ⟨f.nanC, fInvalid⟩
  else finish f mode flush (mulV x y)

/-- The integer that an exact value rounds to by the mode, and whether it changed (R68). -/
def roundInt (mode : RMode) (neg : Bool) (m : Nat) (e : Int) : Int × Bool :=
  let r := if e ≥ 0 then (m * 2 ^ e.toNat, false) else shiftRound mode neg m (-e).toNat
  ((if neg then -1 else 1) * (r.1 : Int), r.2)

/-- The exact value is past 2^64 in magnitude: no integer format holds it. -/
def hugeInt (m : Nat) (e : Int) : Bool := m != 0 && decide ((Nat.log2 m : Int) + e > 64)

/-- Floating to integer (R68, R99): into [lo, hi], with its flags. -/
def toIntOp (mode : RMode) (lo hi : Int) (v : FV) : Int × BitVec 5 :=
  match v with
  | .nan _ => (0, fInvalid)
  | .inf n => (if n then lo else hi, fInvalid)
  | .fin n m e =>
    if hugeInt m e then (if n then lo else hi, fInvalid)
    else
      let r := roundInt mode n m e
      if r.1 < lo then (lo, fInvalid)
      else if r.1 > hi then (hi, fInvalid)
      else (r.1, if r.2 then fInexact else 0)

/-- Floating to floating (R68, R99): `inf` is the `.inf` modifier, or true of a format that overflows to infinity. -/
def cvtOp (dst : Fmt) (inf : Bool) (mode : RMode) (flush : Bool) (v : FV) : FRes :=
  match v with
  | .nan s =>
    if dst.kind = .e2m1 then ⟨0, fInvalid⟩ else ⟨dst.nanC, if s then fInvalid else 0⟩
  | .inf n =>
    if inf || dst.overInf then ⟨dst.code n dst.infC, 0⟩ else ⟨dst.code n dst.maxC, fInvalid⟩
  | .fin n m e => flushRes flush (roundTo dst (inf || dst.overInf) mode n m e)

/-- The value of a block scale: none is the NaN scale (R59). -/
def scaleExp (c : Nat) : Option Int := if c = 255 then none else some ((c : Int) - 127)

/-- A scaled element (R63). -/
def scaleV (c : Nat) (v : FV) : FV :=
  match scaleExp c, v with
  | none, _ => .nan false
  | some s, .fin n m e => .fin n m (e + s)
  | some _, v => v

/-- Order of two FP32 codes neither of which is a NaN; -0 below +0 (R93). -/
def orderKey (c : Nat) : Int :=
  if bitAt c 31 then -((c % 2 ^ 31 : Nat) : Int) - 1 else ((c % 2 ^ 31 : Nat) : Int)

/-- Order with -0 equal to +0 (R94). -/
def cmpKey (c : Nat) : Int :=
  if bitAt c 31 then -((c % 2 ^ 31 : Nat) : Int) else ((c % 2 ^ 31 : Nat) : Int)

/-- The code of an FP32 source after flush (R67): a subnormal under flush is the zero of its sign. -/
def flushCode (flush : Bool) (c : Nat) : Nat :=
  if flush && (c % 2 ^ 31) / 2 ^ 23 == 0 then c - c % 2 ^ 31 else c

/-- `fmin` (R93) of two source codes, `fmax` with `larger`; x on equality. -/
def minMaxOp (larger flush : Bool) (x y : Nat) : FRes :=
  let x := flushCode flush x
  let y := flushCode flush y
  let vx := fp32.val x
  let vy := fp32.val y
  let fl : BitVec 5 := if vx.isSig || vy.isSig then fInvalid else 0
  if vx.isNan && vy.isNan then ⟨fp32.nanC, fl⟩
  else if vx.isNan then ⟨y, fl⟩
  else if vy.isNan then ⟨x, fl⟩
  else if larger then ⟨if orderKey y > orderKey x then y else x, fl⟩
  else ⟨if orderKey y < orderKey x then y else x, fl⟩

/-- The fixed tree of R71 over a list of leaves, `none` an empty leaf: one level combines neighbours, the lower group left. -/
def treeLevel {α : Type} (comb : α → α → α) : List (Option α) → List (Option α)
  | a :: b :: l =>
    (match a, b with
      | some x, some y => some (comb x y)
      | some x, none => some x
      | none, y => y) :: treeLevel comb l
  | l => l

/-- Five levels: the result of 32 leaves (R71). -/
def tree5 {α : Type} (comb : α → α → α) (l : List (Option α)) : Option α :=
  ((treeLevel comb (treeLevel comb (treeLevel comb (treeLevel comb (treeLevel comb l))))).head?).join

end Sys2Proof.Machine
end

