-- ==== Sys2Proof/Machine/Mem.lean ====
section
/-! DEFINITION. Memory: where each space lies under one key, what an agent reads (own stores forwarded, postings visible at
the scope they have reached, a die's own copies), poison marks, key-IDs, and how a posted access performs
(spec/10_memory_levels.md, 11_memory_model.md, 23_dies_and_devices.md, 25_power_and_reliability.md). -/

namespace Sys2Proof

/-- The wheel-like part of an agent: the mill it belongs to and the wheel's index. -/
def Agent.mill : Agent → Option Nat
  | .fe _ => none
  | .wheel m _ => some m
  | .buf m _ => some m
def Agent.wheelIdx : Agent → Nat
  | .fe _ => 0
  | .wheel _ w => w
  | .buf _ w => w
/-- The broadcast stream and the buffer-mode lanes of a wheel are one wheel. -/
def Agent.same (a b : Agent) : Bool := a.mill == b.mill && (match a, b with
  | .fe n, .fe k => n == k
  | .fe _, _ => false
  | _, .fe _ => false
  | _, _ => a.wheelIdx == b.wheelIdx)

/-- The engine of a mill's flume: no wheel has this index, and its lanes are its operations. -/
def Agent.engine : Agent → Bool
  | .wheel _ 255 => true
  | _ => false

/-- The scope's place in the nest of R227. -/
def Scope.rank : Scope → Nat
  | .wheel => 0
  | .mill => 1
  | .gang => 2
  | .die => 3
  | .pkg => 4
  | .sys => 5
end Sys2Proof

namespace Sys2Proof.Machine

/-! ### Keys of the spaces -/

/-- Host memory by bus address (R210), pond by die and offset in the die's pond part (R207), scratchpad by the mill's uid
and the offset in its allocation (R203). A physical address of the local map is its own key (R209). -/
def hostKey (addr : Nat) : Nat := 2 ^ 52 + addr
def pondKey (die off : Nat) : Nat := 2 ^ 53 + die * 2 ^ 28 + off
def padKey (uid off : Nat) : Nat := 2 ^ 56 + uid * 2 ^ 24 + off

/-- The ranges of the local physical map (R209). -/
def inHbm (pa : Nat) : Bool := pa < 0xC000000000
def inTier1 (pa : Nat) : Bool := 0x10000000000 ≤ pa && pa < 0x30000000000

/-- The home die of a key (R209, R379); none for host memory and for scratchpad, which only its own die reaches. -/
def homeOf (key : Nat) : Option Nat :=
  if inHbm key then some (key / 0x3000000000)
  else if inTier1 key then some (key / 4096 % 4)
  else if 2 ^ 53 ≤ key ∧ key < 2 ^ 53 + 2 ^ 30 then some ((key - 2 ^ 53) / 2 ^ 28)
  else none

/-- The die of a core: 13 clusters of 8 cores each (R8). -/
def dieOfCore (core : Nat) : Nat := core / 104
def clusterOfCore (core : Nat) : Nat := core / 8

/-- The bytes of a mill's allocation (R150, R203). -/
def Mill.padBytes (m : Mill) : Nat := (m.scratch + m.acc) * 1024

/-! ### Finding things -/

def State.mill? (s : State) (uid : Nat) : Option Mill := s.mills.find? (·.uid == uid)
def State.gang? (s : State) (uid : Nat) : Option Gang := s.gangs.find? (·.uid == uid)
def State.grid? (s : State) (uid : Nat) : Option Grid := s.grids.find? (·.uid == uid)
def State.cmd? (s : State) (uid : Nat) : Option Cmd := s.cmds.find? (·.uid == uid)
def State.posted? (s : State) (id : Nat) : Option Posted := s.posted.find? (·.id == id)

def State.modMill (s : State) (uid : Nat) (f : Mill → Mill) : State :=
  { s with mills := s.mills.map fun m => if m.uid = uid then f m else m }
def State.modGang (s : State) (uid : Nat) (f : Gang → Gang) : State :=
  { s with gangs := s.gangs.map fun g => if g.uid = uid then f g else g }
def State.modGrid (s : State) (uid : Nat) (f : Grid → Grid) : State :=
  { s with grids := s.grids.map fun g => if g.uid = uid then f g else g }
def State.modCmd (s : State) (uid : Nat) (f : Cmd → Cmd) : State :=
  { s with cmds := s.cmds.map fun c => if c.uid = uid then f c else c }
def State.modPosted (s : State) (id : Nat) (f : Posted → Posted) : State :=
  { s with posted := s.posted.map fun p => if p.id = id then f p else p }
def State.modDie (s : State) (d : Nat) (f : Die → Die) : State := { s with dies := modAt s.dies d f }
def State.modPart (s : State) (p : Nat) (f : Partition → Partition) : State := { s with parts := modAt s.parts p f }
def State.part (s : State) (p : Nat) : Partition := s.parts.getD p Partition.zero
def State.die (s : State) (d : Nat) : Die := s.dies.getD d Die.start
def State.queue (s : State) (q : Nat) : Queue := sget Queue.zero s.queues q
def State.modQueue (s : State) (q : Nat) (f : Queue → Queue) : State :=
  { s with queues := sput Queue.zero s.queues q (f (s.queue q)) }

/-- The choice in force where a rule gives two outcomes; 0 where none has been made. Kinds: 0 a fetched word, 1 a translation, 2 a
neighbour's register, 3 the half of an engine's 16-byte element that is read first, 4 and 5 a uniform register as another wheel sees it,
6 and 7 a read and a write that a cache keeps from the memory side, 8 a failure that the front end resolves, 9 a byte of a thread's store
that an engine does not see yet, 10 a line that an L1 has dropped (DESIGN CHOICE, log 1). -/
def State.pick (s : State) (kind key : Nat) : Nat := sget 0 s.picks (16 * key + kind)

def State.wheel? (s : State) (a : Agent) : Option Wheel := do
  let uid ← a.mill
  let m ← s.mill? uid
  m.wheels[a.wheelIdx]?
def State.modWheel (s : State) (a : Agent) (f : Wheel → Wheel) : State :=
  match a.mill with
  | none => s
  | some uid => s.modMill uid fun m => { m with wheels := modAt m.wheels a.wheelIdx f }
def State.modFe (s : State) (n : Nat) (f : FeCore → FeCore) : State := { s with fe := modAt s.fe n f }

/-- The threads of an agent, by lane: 32 of a wheel, one of a front-end core. -/
def State.threads (s : State) (a : Agent) : List Thread :=
  match a with
  | .fe n => match s.fe[n]? with
    | some c => [c.thread]
    | none => []
  | _ => match s.wheel? a with
    | some w => w.threads
    | none => []
def State.thread? (s : State) (a : Agent) (lane : Nat) : Option Thread := (s.threads a)[lane]?
def State.thread (s : State) (a : Agent) (lane : Nat) : Thread := (s.threads a).getD lane (Thread.start 0 true)
def State.modThread (s : State) (a : Agent) (lane : Nat) (f : Thread → Thread) : State :=
  match a with
  | .fe n => if lane = 0 then s.modFe n fun c => { c with thread := f c.thread } else s
  | _ => s.modWheel a fun w => { w with threads := modAt w.threads lane f }

def State.fences (s : State) (a : Agent) : Fences :=
  match a with
  | .fe n => match s.fe[n]? with
    | some c => c.fences
    | none => Fences.start
  | _ => match s.wheel? a with
    | some w => w.fences
    | none => Fences.start
def State.setFences (s : State) (a : Agent) (f : Fences) : State :=
  match a with
  | .fe n => s.modFe n fun c => { c with fences := f }
  | _ => s.modWheel a fun w => { w with fences := f }

def State.modFences (s : State) (a : Agent) (g : Fences → Fences) : State :=
  match a with
  | .fe n => s.modFe n fun c => { c with fences := g c.fences }
  | _ => s.modWheel a fun w => { w with fences := g w.fences }

/-- The core, die, gang and grid an agent runs in; none on a front-end core. -/
def State.coreOf (s : State) (a : Agent) : Option Nat := do
  let uid ← a.mill
  let m ← s.mill? uid
  pure m.core
def State.dieOf (s : State) (a : Agent) : Option Nat := (s.coreOf a).map dieOfCore
def State.gangOf (s : State) (a : Agent) : Option Nat := do
  let uid ← a.mill
  let m ← s.mill? uid
  pure m.gang
def State.gridOfMill (s : State) (uid : Nat) : Option Grid := do
  let m ← s.mill? uid
  let g ← s.gang? m.gang
  s.grid? g.grid

/-! ### Keys and poison -/

/-- The current generation of a key-ID's key (R223, R412): every key-ID has a key of its own, that of key-ID 0 the firmware's (R34), and
an engagement gives the key-IDs it takes new ones. Generation 0 is no key: memory that is not encrypted. -/
def State.kidGen (s : State) (kid : Nat) : Nat :=
  match sget 0 s.kidGens kid with
  | 0 => 2 ^ 48 + kid
  | n => n
/-- Memory that carries key-IDs: HBM and the second tier (R223). -/
def keyed (key : Nat) : Bool := key < 2 ^ 52


/-- The unit a key's error code covers: a 64-byte line of HBM or the second tier (R421), a 64-bit word of SRAM (R420). -/
def unitOf (key : Nat) : Nat := if keyed key then 2 ^ 60 + key / 64 else key / 8
def unitSize (key : Nat) : Nat := if keyed key then 64 else 8
def unitBase (key : Nat) : Nat := key - key % unitSize key
/-- The units that [key, key + n) meets. -/
def unitsOf (key n : Nat) : List Nat := ((List.range n).map fun i => unitOf (key + i)).dedup
/-- A read of [key, key + n) meets an uncorrectable-error mark (R318). -/
def State.poisoned (s : State) (key n : Nat) : Bool :=
  !s.poison.isEmpty && (List.range n).any fun i => s.poison.contains (unitOf (key + i))
/-- The unit of `k` lies wholly in [key, key + n). -/
def covers (key n k : Nat) : Bool := key ≤ unitBase k && unitBase k + unitSize k ≤ key + n
/-- A part [key, key + n) of a write of the bytes `whole` meets a marked unit that the write covers only in part, so it does not perform
(R420, R421). -/
def State.partBlocked (s : State) (whole : Nat × Nat) (key n : Nat) : Bool :=
  !s.poison.isEmpty &&
    (List.range n).any fun i => s.poison.contains (unitOf (key + i)) && !covers whole.1 whole.2 (key + i)
def State.writeBlocked (s : State) (key n : Nat) : Bool := s.partBlocked (key, n) key n
/-- Clear the marks a write covers whole. -/
def State.clearMarks (s : State) (key n : Nat) : State :=
  { s with poison := s.poison.filter fun u => !(((List.range n).filter fun i => covers key n (key + i)).any fun i => unitOf (key + i) == u) }
def State.setMark (s : State) (key : Nat) : State := { s with poison := insertNat (unitOf key) s.poison }

/-! ### Stored bytes -/

def memGet (m : Memory) (k : Nat) : Byte := sget 0 m k
def memPut (m : Memory) (k : Nat) (b : Byte) : Memory := sput 0 m k b
/-- Write consecutive bytes. -/
def memPutList (m : Memory) (k : Nat) : List Byte → Memory
  | [] => m
  | b :: bs => memPutList (memPut m k b) (k + 1) bs
/-- Read consecutive bytes. -/
def memGetList (m : Memory) (k n : Nat) : List Byte := (List.range n).map fun i => memGet m (k + i)
/-- Clear a range to the value an unlisted byte reads as. -/
def memClear (m : Memory) (lo hi : Nat) : Memory := sclear m lo hi

/-- A byte of memory as it reads under a key generation (R223): AES-256-XTS works on blocks of 16 bytes, and one written under another key
reads as its decryption under the reading key, a free value. A block never written reads 0. -/
def State.plain (s : State) (gen key : Nat) : Byte :=
  let tag := sget 0 s.lineKeys (key / 16)
  if !keyed key || tag == 0 || tag == gen then memGet s.mem key
  else Config.wrongKey (key / 16) tag gen (key % 16) (memGetList s.mem (key / 16 * 16) 16)
/-- Before bytes are written to a block under another key generation, the rest of the block becomes what it reads as under the writing key: it
is decrypted, merged and encrypted again. The line's other blocks come out of this as they went in (R223). -/
def State.rekeyBlock (s : State) (gen blk : Nat) : State :=
  let tag := sget 0 s.lineKeys blk
  if tag = gen then s
  else
    { s with
      mem := if tag = 0 then s.mem else memPutList s.mem (blk * 16) ((List.range 16).map fun i => s.plain gen (blk * 16 + i))
      lineKeys := sput 0 s.lineKeys blk gen }

/-- Store bytes at a key under a key generation, whole units clearing their marks. -/
def State.storeBytes (s : State) (gen key : Nat) (bs : List Byte) : State :=
  let s := if keyed key then ((List.range bs.length).map fun i => (key + i) / 16).dedup.foldl
      (fun s blk => s.rekeyBlock gen blk) s else s
  { s with mem := memPutList s.mem key bs }.clearMarks key bs.length

/-- Storage becomes zero, with no marks and no keys (R225). -/
def State.zeroRange (s : State) (lo n : Nat) : State :=
  { s with
    mem := memClear s.mem lo (lo + n)
    lineKeys := if keyed lo then sclear s.lineKeys (lo / 16) ((lo + n) / 16) else s.lineKeys
    poison := s.poison.filter fun u =>
      if keyed lo then !(2 ^ 60 + lo / 64 ≤ u && u < 2 ^ 60 + (lo + n) / 64) else !(lo / 8 ≤ u && u < (lo + n) / 8) }

/-! ### Memory-side operations -/

/-- new(old, c) of R250 by SUB bits 3:0, on w bits. -/
def atomNew (op w : Nat) (old c : Nat) : Nat :=
  let sg := fun (x : Nat) => if bitAt x (w - 1) then (x : Int) - 2 ^ w else (x : Int)
  match op with
  | 0 => (old + c) % 2 ^ w
  | 1 => if sg c < sg old then c else old
  | 2 => if sg c > sg old then c else old
  | 3 => if c < old then c else old
  | 4 => if c > old then c else old
  | 5 => old &&& c
  | 6 => old ||| c
  | 7 => old ^^^ c
  | 8 => c
  | 9 => if old ≥ c then 0 else old + 1
  | 10 => (sumOp fp32 .rne false [] [fp32.val old, fp32.val c]).code
  | _ => old

/-- The element operation of `pvop` (R252): 16 + SUB bits 2:0 for INT32, 24 + them for FP32; c is the scalar or Y[i]. -/
def pvopNew (op : Nat) (x c : Nat) : Nat :=
  match op with
  | 16 => c
  | 24 => c
  | 17 => (x + c) % 2 ^ 32
  | 18 => (x * c) % 2 ^ 32
  | 19 => atomNew 2 32 x c
  | 20 => (x + c) % 2 ^ 32
  | 25 => (sumOp fp32 .rne false [] [fp32.val x, fp32.val c]).code
  | 26 => (mulOp fp32 .rne false (fp32.val x) (fp32.val c)).code
  | 27 => (minMaxOp true false x c).code
  | 28 => (sumOp fp32 .rne false [] [fp32.val x, fp32.val c]).code
  | _ => x

/-- A memory-side operation by number: an atomic's below 16 (11 is `cas`, R251), a pond element's from 16 on; `.add2` reads its
second range as it performs. -/
def MemOp.new (o : MemOp) (rd : Nat → Byte) (old : Nat) : Nat :=
  let word := fun (k : Nat) => natOfBytes ((List.range 4).map fun i => rd (k + i))
  if o.op = 11 then (if old = o.b.toNat % 2 ^ o.w then o.c.toNat % 2 ^ o.w else old)
  else if o.op = 20 ∨ o.op = 28 then pvopNew o.op old (word o.b.toNat)
  else if o.op < 16 then atomNew o.op o.w old (o.c.toNat % 2 ^ o.w)
  else pvopNew o.op old (o.c.toNat % 2 ^ 32)
/-- A failed comparison writes nothing (R251). -/
def MemOp.quiet (o : MemOp) (old : Nat) : Bool := o.op == 11 && old != o.b.toNat % 2 ^ o.w

/-! ### Postings -/

/-- Bytes of the location. -/
def Posted.size (p : Posted) : Nat :=
  match p.red with
  | some o => o.w / 8
  | none => if p.rd = 0 then p.bytes.length else p.rd
def Posted.overlaps (p : Posted) (key n : Nat) : Bool := p.key < key + n && key < p.key + p.size
/-- The second element that a `.add2` reads as it performs (R252). -/
def Posted.second (p : Posted) : Option Nat :=
  match p.red with
  | some o => if o.op = 20 ∨ o.op = 28 then some o.b.toNat else none
  | none => none
/-- The two accesses meet in some byte that one reads or writes. -/
def Posted.conflicts (p q : Posted) : Bool :=
  q.overlaps p.key p.size ||
  (match p.second with
   | some k => q.overlaps k 4
   | none => false) ||
  (match q.second with
   | some k => p.overlaps k 4
   | none => false)

/-- The bytes a memory-side operation leaves, given what its location holds before. -/
def MemOp.bytes (o : MemOp) (rd : Nat → Byte) (key : Nat) : List Byte :=
  bytesOfNat (o.w / 8) (o.new rd (natOfBytes ((List.range (o.w / 8)).map fun i => rd (key + i))))

/-- A store seen on top of what lies below it. -/
def Posted.over (p : Posted) (rd : Nat → Byte) : Nat → Byte := fun k =>
  if p.key ≤ k ∧ k < p.key + p.bytes.length then p.bytes.getD (k - p.key) 0 else rd k

/-- A posting has performed at least at a scope. -/
def Posted.reached (p : Posted) (sc : Scope) : Bool :=
  match p.reach with
  | none => false
  | some r => sc.rank ≤ r.rank

/-- Who reads: a thread, or an engine of a mill (no thread of its own). -/
structure Reader where
  agent : Option (Agent × Nat)
  mill  : Option Nat
  gang  : Option Nat
  die   : Option Nat
  deriving DecidableEq, Repr

def State.readerOf (s : State) (a : Agent) (lane : Nat) : Reader := ⟨some (a, lane), a.mill, s.gangOf a, s.dieOf a⟩
/-- The scratchpad a key lies in. -/
def padOf (key : Nat) : Option Nat := if key < 2 ^ 56 then none else some ((key - 2 ^ 56) / 2 ^ 24)
def State.engineOf (s : State) (uid : Nat) : Reader :=
  match s.mill? uid with
  | some m => ⟨none, some uid, some m.gang, some (dieOfCore m.core)⟩
  | none => ⟨none, some uid, none, none⟩

/-- A posted access that this reader sees (R124, R227, R228): a thread's own always; another's, and an engine's own (R292), from the
narrowest scope that holds both. A front-end core sees at package scope. -/
def Posted.seenBy (p : Posted) (r : Reader) : Bool :=
  (match r.agent with
   | some (a, lane) => !a.engine && p.owner.same a && p.lane == lane
   | none => false) ||
  p.reached .pkg ||
  (p.reached .die && r.die.isSome && p.die == r.die) ||
  (p.reached .gang && r.gang.isSome && p.gang == r.gang) ||
  (p.reached .mill && r.mill.isSome && p.mill == r.mill) ||
  (p.reached .wheel && (match r.agent with
    | some (a, _) => p.owner.same a
    | none => false))

/-- The mill of an inbox write, once it has been placed (R391). -/
def State.inboxMill (s : State) (e : InWrite) : Option Mill :=
  match s.grid? e.grid with
  | none => none
  | some g => s.mills.find? fun m => match s.gang? m.gang with
    | some x => x.grid == e.grid && x.num * g.lr.gang + m.f2 == e.rank
    | none => false
/-- The drain counter of a mill (R290, R363, R392): writes into its scratchpad that others have issued and that have not
performed there, and the inbound writes that have arrived for it. -/
def State.drainOf (s : State) (uid : Nat) : Nat :=
  (s.posted.filter fun p => p.mill != some uid && padOf p.key == some uid && p.bad.isNone && !p.reached .gang).length +
    (s.inbox.filter fun e => match s.inboxMill e with
      | some m => m.uid == uid
      | none => false).length

/-- A line of 128 bytes (R212), and a die's copy of one as read under a key-ID (R212, R380). -/
def lineOf (key : Nat) : Nat := key / 128
def copyKey (line kid : Nat) : Nat := line * 1024 + kid % 1024
def State.copyOf (s : State) (d line kid : Nat) : Option (List Byte) :=
  match sget [] (s.die d).copies (copyKey line kid) with
  | [] => none
  | bs => some bs
/-- The key-IDs under which a die holds copies of a line. -/
def State.copyKids (s : State) (d line : Nat) : List Nat :=
  (s.die d).copies.filterMap fun e => if e.1 / 1024 = line then some (e.1 % 1024) else none

/-- The home's byte under a key-ID (R223). -/
def State.homeByte (s : State) (kid key : Nat) : Byte := s.plain (s.kidGen kid) key
/-- Memory below the postings as a die reads it: its copy of a remote-homed line, else the home's bytes. -/
def State.baseByte (s : State) (die : Option Nat) (kid key : Nat) : Byte :=
  match die, homeOf key with
  | some d, some h =>
    if d = h then s.homeByte kid key
    else match s.copyOf d (lineOf key) kid with
      | some bs => bs.getD (key % 128) 0
      | none => s.homeByte kid key
  | _, _ => s.homeByte kid key

/-- A line cached by the dies: global memory homed on some die. Scratchpad, pond and host memory are never cached (R212). -/
def cachedLine (key : Nat) : Bool := inHbm key || inTier1 key

/-- A read by this die under a key-ID must first fetch the line from its home (R212, R380). -/
def State.needsFetch (s : State) (die : Option Nat) (kid key : Nat) : Bool :=
  match die, homeOf key with
  | some d, some h => cachedLine key && d != h && (s.copyOf d (lineOf key) kid).isNone
  | _, _ => false

/-- A push of this posted access to a die is still in flight (R384). -/
def State.pushingTo (s : State) (id die : Nat) : Bool :=
  s.xmsgs.any fun m => m.dst == die && (match m.kind with
    | .push _ _ _ _ (some p) => p == id
    | _ => false)

/-- Of two stores, this one is earlier in what their die has seen: by their places, those that have one before those that have none (R230). -/
def Posted.earlier (p q : Posted) : Bool :=
  match p.place, q.place with
  | some x, some y => x < y
  | some _, none => true
  | none, some _ => false
  | none, none => p.id < q.id
def insertPosted (p : Posted) : List Posted → List Posted
  | [] => [p]
  | q :: l => if p.earlier q then p :: q :: l else q :: insertPosted p l
/-- The location's home is another die than the one the access comes from (R380). -/
def Posted.remoteHome (p : Posted) : Bool :=
  match p.die, homeOf p.key with
  | some d, some h => d != h
  | _, _ => false
/-- The stores that lie over memory for a reader, the earliest first: not failed, seen by it, and not yet in what its die reads. A write that
no one saw before its home performed it comes to its own die with its push alone. `upto` cuts off the reader's own younger stores. -/
def State.overlay (s : State) (r : Reader) (upto : Nat) : List Posted :=
  (s.posted.filter fun p =>
    p.bad.isNone && p.rd == 0 && p.red.isNone && p.seenBy r &&
    (match p.settled, r.die with
     | none, _ => true
     | some _, some d => p.place.isSome && s.pushingTo p.id d
     | some _, none => false) &&
    (match r.agent with
     | some (a, lane) => a.engine || !(p.owner.same a && p.lane == lane) || p.id < upto
     | none => true)).foldl (fun l p => insertPosted p l) []
def Posted.holds (p : Posted) (k : Nat) : Bool := p.key ≤ k && k < p.key + p.bytes.length
/-- A byte of a store as it reads under a key-ID: under another one, what its block reads as once the store is in it (R223). -/
def State.storedByte (s : State) (kid : Nat) (p : Posted) (k : Nat) : Byte :=
  if keyed k && p.kid != kid then
    Config.wrongKey (k / 16) (s.kidGen p.kid) (s.kidGen kid) (k % 16) ((List.range 16).map fun i =>
      if p.holds (k / 16 * 16 + i) then p.bytes.getD (k / 16 * 16 + i - p.key) 0 else s.homeByte p.kid (k / 16 * 16 + i))
  else p.bytes.getD (k - p.key) 0
/-- The reader is an engine of a mill. -/
def Reader.engine (r : Reader) : Bool :=
  match r.agent with
  | some (a, _) => a.engine
  | none => r.mill.isSome
/-- A byte of a thread's store that an engine reads past, by choice: only a fence with EN in S, or a READY, makes an engine see what its mill
sees already (R236, R241, R243). -/
def State.passedBy (s : State) (r : Reader) (p : Posted) (k : Nat) : Bool :=
  r.engine && !p.owner.engine && s.pick 9 k != 0 && !(match r.mill with
    | some uid => p.engines.contains uid
    | none => false)

/-- What a reader reads at a key under a key-ID. -/
def State.viewByteTo (s : State) (r : Reader) (upto kid : Nat) : Nat → Byte :=
  (s.overlay r upto).foldl (fun rd p k => if p.holds k && !s.passedBy r p k then s.storedByte kid p k else rd k) (s.baseByte r.die kid)
def State.viewBytesTo (s : State) (r : Reader) (upto kid key n : Nat) : List Byte :=
  let rd := s.viewByteTo r upto kid
  (List.range n).map fun i => rd (key + i)
def State.viewBytes (s : State) (r : Reader) (kid key n : Nat) : List Byte := s.viewBytesTo r s.fresh kid key n

/-! ### Whose write a read returns (R234) -/

/-- Of two settled writes, the later. -/
def laterSettled (x : Option Posted) (p : Posted) : Option Posted :=
  match x with
  | some q => if p.settled.getD 0 < q.settled.getD 0 then some q else some p
  | none => some p
/-- The write, of those that have not performed everywhere, whose byte a reader reads at a key: the last that lies over memory, else the
last settled one that what its die reads holds. -/
def State.sourceOf (s : State) (r : Reader) (upto key : Nat) : Option Nat :=
  match ((s.overlay r upto).filter fun p => p.holds key && !s.passedBy r p key).getLast? with
  | some p => some p.id
  | none => ((s.posted.filter fun p => p.settled.isSome && p.holds key && (match r.die with
      | some d => !s.pushingTo p.id d
      | none => true)).foldl laterSettled none).map (·.id)
/-- The writes that a read of [key, key + n) returns. -/
def State.sourcesOf (s : State) (r : Reader) (upto key n : Nat) : List Nat :=
  if s.posted.all (fun p => p.rd != 0) then [] else ((List.range n).filterMap fun i => s.sourceOf r upto (key + i)).dedup
/-- Who has read or learned of the writes named. -/
def State.readBy (s : State) (ws : List Nat) (who : Agent × Nat × Option AccSet) : State :=
  if ws.isEmpty then s
  else { s with posted := s.posted.map fun q =>
    if ws.contains q.id && !q.readers.contains who then { q with readers := q.readers ++ [who] } else q }
def addIds (l ws : List Nat) : List Nat := l ++ ws.filter fun w => !l.contains w
/-- A fence that has recorded an access waits for the writes it reads too (R234). -/
def FenceSlot.learn (x : FenceSlot) (id : Nat) (ws : List Nat) : FenceSlot :=
  if x.recs.contains id then { x with recs := addIds x.recs ws } else x
def Fences.learn (f : Fences) (id : Nat) (ws : List Nat) : Fences :=
  { f with slots := f.slots.map fun x => x.map fun y => y.learn id ws }
/-- A message stamped with an access is stamped with the writes it reads (R240). -/
def learnStamps (id : Nat) (ws : List Nat) (l : List (Nat × Scope)) : List (Nat × Scope) :=
  match l.find? (·.1 == id) with
  | some (_, sc) => l ++ (ws.filter fun w => !l.contains (w, sc)).map fun w => (w, sc)
  | none => l
def Msg.learn (m : Msg) (id : Nat) (ws : List Nat) : Msg := { m with stamps := learnStamps id ws m.stamps }
def Mill.learn (m : Mill) (id : Nat) (ws : List Nat) : Mill :=
  { m with
    wheels := m.wheels.map fun w => { w with
      fences := w.fences.learn id ws
      inst := w.inst.map fun i => { i with stamps := learnStamps id ws i.stamps } }
    ports := m.ports.map fun p => { p with fifo := p.fifo.map fun x => x.learn id ws }
    ctxs := m.ctxs.map fun c => { c with input := c.input.map fun x => x.learn id ws } }
/-- An access reads writes: its thread has read them, and what has recorded the access waits for them as well (R234, R240). -/
def State.learn (s : State) (p : Posted) (ws : List Nat) : State :=
  if ws.isEmpty then s
  else { s.readBy ws (p.owner, p.lane, some p.set) with
    mills := s.mills.map fun m => m.learn p.id ws
    fe := s.fe.map fun c => { c with fences := c.fences.learn p.id ws } }

/-! ### Sending and settling -/

/-- Send a cross-die message (R381): SEQ of the sender rises by one, and the message carries the sender's clock. -/
def State.sendX (s : State) (src dst : Nat) (k : XKind) : State :=
  let d := s.die src
  let n := (d.seq + 1) % 2 ^ 48
  { s.modDie src fun d => { d with seq := n, kn := setAt d.kn src n, sentTo := setAt d.sentTo dst n } with
    xmsgs := s.xmsgs ++ [⟨src, dst, n, setAt d.kn src n, k⟩] }

/-- A fetch response for a line is on its way to a die. -/
def State.fetching (s : State) (d line : Nat) (kid : Option Nat) : Bool :=
  s.xmsgs.any fun m => m.dst == d && (match m.kind with
    | .fetch l k _ => l == line && (kid == none || kid == some k)
    | _ => false)
/-- The dies, other than the home, that hold a copy of a line, or are about to. -/
def State.copyHolders (s : State) (home line : Nat) : List Nat :=
  (List.range 4).filter fun d => d != home && (!(s.copyKids d line).isEmpty || s.fetching d line none)

/-- Send the pushes of bytes just settled at their home (R380). -/
def State.sendPushes (s : State) (home key kid : Nat) (bs : List Byte) (settled : Nat) (posted : Option Nat) : State :=
  if cachedLine key then
    (s.copyHolders home (lineOf key)).foldl (fun s d => s.sendX home d (.push key kid bs settled posted)) s
  else s
/-- A die may send n more messages: it never has more than 2^20 outstanding (R381). -/
def State.roomX (s : State) (d n : Nat) : Bool := (s.xmsgs.filter (·.src == d)).length + n ≤ 2 ^ 20

/-- A monitor of a partition counts a line access that reaches the memory side, and logs a first count and every further
2^20 (R414). -/
def logHash (e : LogEntry) : BitVec 256 :=
  Config.shake256 ([BitVec.ofNat 8 e.monitor, BitVec.ofNat 8 e.cause] ++ bytesOfNat 2 e.kid ++ bytesOfNat 4 0 ++
    bytesOfNat 8 e.index ++ bytesOfNat 8 e.reads ++ bytesOfNat 8 e.writes ++ bytesOfNat 32 e.prev.toNat)
/-- Append an entry: it names the hash of the one before it; the log keeps the newest 4,096 (R414). -/
def Partition.appendLog (p : Partition) (monitor cause kid reads writes : Nat) : Partition :=
  let prev := match p.log.getLast? with
    | some e => logHash e
    | none => 0
  let full := p.log.length ≥ 4096
  let e : LogEntry := ⟨monitor, cause, kid, p.logNext, reads, writes, prev⟩
  { p with
    log := (if full then p.log.drop 1 else p.log) ++ [e]
    engs := p.engs.map fun g => if g.kids.contains kid then { g with logHead := logHash e } else g
    logNext := p.logNext + 1
    logDrops := if full then p.logDrops + 1 else p.logDrops }
/-- One counted line access under a key-ID. -/
def Partition.countLine (p : Partition) (key kid : Nat) (write : Bool) : Partition :=
  (List.range p.monitors.length).foldl (fun p i =>
    match p.monitors[i]? with
    | none => p
    | some m =>
      if m.base.toNat ≤ key ∧ key < m.limit.toNat then
        let c := sget (0, 0) m.counts kid
        let c' := if write then (c.1, c.2 + 1) else (c.1 + 1, c.2)
        let p := { p with monitors := setAt p.monitors i { m with counts := sput (0, 0) m.counts kid c' } }
        let n := if write then c'.2 else c'.1
        if n = 1 then p.appendLog i 1 kid c'.1 c'.2
        else if n % 2 ^ 20 = 0 then p.appendLog i 2 kid c'.1 c'.2 else p
      else p) p
/-- Count a memory-side line access in every partition's monitors. -/
def State.monitor (s : State) (key kid : Nat) (write : Bool) : State :=
  if keyed key then { s with parts := s.parts.map fun p => p.countLine key kid write } else s

/-- The word at a key as a die reads it; 4 is the base die. -/
def State.wordAt (s : State) (die kid key : Nat) : Word :=
  BitVec.ofNat 32 (natOfBytes (s.viewBytes ⟨none, none, none, if die < 4 then some die else none⟩ kid key 4))
/-- The write that a change of bytes comes from, with the die it was made on. -/
def State.writeOf (s : State) (id : Nat) : Nat × Option Nat := (id, (s.posted? id).bind (·.die))
/-- `t` follows `s` after bytes have changed: each word that a die now reads otherwise is recorded with its old value, and with the write
where it comes from elsewhere (R258). -/
def State.logCode (s t : State) (kid key n : Nat) (src : Option (Nat × Option Nat)) : State :=
  if 2 ^ 53 ≤ key then t
  else
    { t with code := t.code ++ (List.range ((key % 4 + n + 3) / 4)).flatMap fun i => (List.range 5).filterMap fun d =>
        let w := key - key % 4 + 4 * i
        if s.wordAt d kid w = t.wordAt d kid w then none
        else some (.wrote d kid w (s.wordAt d kid w) (src.bind fun x => if x.2 = some d then none else some x.1)) }
/-- The older values that a fetch may return for a word: those since the last `cinv.l1` on its core that came before the thread's last
control transfer; a write from another die counts from where it has performed at package scope (R258). -/
def State.oldWords (s : State) (core die jumped kid key : Nat) : List Word :=
  let kept := s.code.zipIdx.foldl (fun (r : List (Word × Option Nat) × List Nat) e => match e.1 with
    | .wrote d g k old src => if d = die ∧ g = kid ∧ k = key then (r.1 ++ [(old, src)], r.2) else r
    | .done id => (r.1, id :: r.2)
    | .cinv c lines =>
      if c = core ∧ e.2 < jumped ∧ lines.contains (lineOf key) then
        (r.1.filter fun o => o.2.any fun id => !r.2.contains id, r.2)
      else r) ([], [])
  kept.1.map Prod.fst

/-- The newer values that a fetch may return for a word: with each store, in the order posted, whose bytes the die has not
had yet (R258). -/
def State.newWords (s : State) (die kid key : Nat) : List Word :=
  (s.posted.filter fun p => p.bad.isNone && (p.settled.isNone || s.pushingTo p.id die) && p.rd == 0 && p.red.isNone && p.overlaps key 4).map fun p =>
    let now := bytesOfNat 4 (s.wordAt die kid key).toNat
    BitVec.ofNat 32 (natOfBytes ((List.range 4).map fun i => if p.holds (key + i) then s.storedByte kid p (key + i) else now.getD i 0))

/-- A plain store that the cache gathers with others into one write-back, by choice, so that it does not count alone (R414). -/
def State.gathered (s : State) (key : Nat) (posted : Option Nat) : Bool :=
  s.pick 7 (key / 64) != 0 && match posted.bind s.posted? with
    | some p => p.red.isNone
    | none => false
/-- The lines of a range count. -/
def State.monitorAll (s : State) (key n kid : Nat) (write : Bool) : State :=
  if s.parts.all fun p => p.monitors.isEmpty then s
  else ((List.range n).map fun i => (key + i) / 64).dedup.foldl (fun s ln => s.monitor (ln * 64) kid write) s
/-- The marked words, by address, that its home's L2 holds of [key, key + n) (R212, R420). -/
def State.homeMarks (s : State) (key n : Nat) : List Nat :=
  match homeOf key with
  | some h => if cachedLine key then (s.die h).marks.filterMap fun e =>
      let b := e.1 / 1024 * 128 + 8 * e.2
      if key < b + 8 ∧ b < key + n then some b else none
    else []
  | none => []
/-- A read at the home meets an error mark, in memory or in the L2. -/
def State.markedAtHome (s : State) (key n : Nat) : Bool := s.poisoned key n || !(s.homeMarks key n).isEmpty
/-- A write at the home would cover a marked unit in part. -/
def State.blocked (s : State) (key n : Nat) : Bool :=
  s.writeBlocked key n || (s.homeMarks key n).any fun b => !(key ≤ b && b + 8 ≤ key + n)
/-- A write of whole words clears their marks in its home's L2 and in the L1s (R420). -/
def State.clearCopies (s : State) (key n : Nat) : State :=
  if s.dies.all fun d => d.marks.isEmpty && d.l1Marks.isEmpty then s
  else
    let whole := fun (copy word : Nat) => decide (key ≤ copy / 1024 * 128 + 8 * word ∧ copy / 1024 * 128 + 8 * word + 8 ≤ key + n)
    { s with dies := (List.range s.dies.length).map fun d =>
      let x := s.die d
      { x with
        marks := if homeOf key = some d then x.marks.filter fun e => !whole e.1 e.2 else x.marks
        l1Marks := x.l1Marks.filter fun e => !whole e.2.1 e.2.2 } }
/-- Settle bytes at their home under a key generation: store them, give them their place in settled order, push them to the copies (R379,
R383). -/
def State.settleUnder (s : State) (gen kid key : Nat) (bs : List Byte) (posted : Option Nat) : State :=
  let t := (s.storeBytes gen key bs).clearCopies key bs.length
  let n := t.settle + 1
  let t := { t with settle := n }
  s.logCode (match homeOf key with
    | some h => t.sendPushes h key kid bs n posted
    | none => t) kid key bs.length (posted.map s.writeOf)

/-- The same under a key-ID. -/
def State.settleBytes (s : State) (kid key : Nat) (bs : List Byte) (posted : Option Nat) : State := s.settleUnder (s.kidGen kid) kid key bs posted

/-- Drop postings that have nothing left to do. -/
def State.dropPosted (s : State) (id : Nat) : State := { s with posted := s.posted.filter (·.id != id) }
/-- A write has performed at package scope: nothing of it is left, and a `cinv.l1` from here on makes fetch see it (R258, R384). -/
def State.endPosted (s : State) (id : Nat) : State :=
  let t := s.dropPosted id
  if s.code.any fun e => match e with
    | .wrote _ _ _ _ src => src == some id
    | _ => false then { t with code := t.code ++ [.done id] } else t

/-- A push of this posted access is still in flight (R384). -/
def State.pushing (s : State) (id : Nat) : Bool := (List.range 4).any fun d => s.pushingTo id d

/-- The writer of what comes from the device link or the front end: no thread, engine or command has it. -/
def outsider : Agent := .fe 65535
/-- Settle bytes that no thread has written. While pushes of them are out they are a write like others, which readers learn of (R234, R384). -/
def State.settleFree (s : State) (gen kid key : Nat) (bs : List Byte) : State :=
  let id := s.fresh
  let t := { s with fresh := s.fresh + 1 }.settleUnder gen kid key bs (some id)
  if !t.pushing id then t.endPosted id
  else { t with posted := t.posted ++ [{
    id := id
    owner := outsider
    lane := 0
    mill := none
    gang := none
    die := none
    pc := 0
    va := 0
    key := key
    bytes := bs
    red := none
    rd := 0
    set := .st
    kid := kid
    sc := false
    reach := none
    settled := some t.settle
    bad := none
    tag := none
    held := none
    access := 0
    place := none
    grp := id
    whole := (key, bs.length)
    readers := []
    fenced := []
    engines := [] }] }

/-- What its die has still to have of an access that its home has performed and that no one had seen before: the pushes up to it (R230). -/
def State.arriving (s : State) (q : Posted) : Bool :=
  match q.settled, q.die with
  | some n, some d => q.place.isNone && q.remoteHome && s.xmsgs.any fun m => m.dst == d && (match m.kind with
    | .push key _ bs k _ => decide (k ≤ n) && q.overlaps key bs.length
    | _ => false)
  | _, _ => false
/-- Such an access goes once it has nothing left to wait for. -/
def State.sweep (s : State) : State :=
  { s with posted := s.posted.filter fun q => !(q.settled.isSome && q.red.isSome) || s.arriving q }

/-- An access has performed for every agent of a scope of a thread, or never will (R228, R235): for the thread's own die as far as its writer's
scopes reach or its pushes have come, at package and system scope when nothing of it is left (R384). On a front-end core the scopes below
die hold the thread alone and die scope is package scope (R227). -/
def State.doneFor (s : State) (p : Posted) (a : Agent) (sc : Scope) : Bool :=
  p.bad.isSome ||
  match a.mill with
  | none => decide (sc.rank < 3)
  | some uid =>
    decide (sc.rank ≤ 3) && p.rd == 0 &&
    (match p.settled, s.dieOf a with
     | some _, some d => !s.pushingTo p.id d && !s.arriving p || p.die == some d && p.reached .die
     | some _, none => true
     | none, d => p.red.isNone && d.isSome && p.die == d &&
        p.reached (if 3 ≤ sc.rank then sc
          else if p.owner.same a then sc
          else if p.mill == some uid then (if 1 ≤ sc.rank then sc else .mill)
          else if p.gang == s.gangOf a then .gang else .die))

/-! ### Performing -/

/-- Bytes that an access of a long-latency instruction has read. -/
def Thread.fillPart (t : Thread) (id : Nat) (bs : List Byte) : Thread :=
  { t with long := t.long.map fun o => { o with parts := o.parts.map fun q => if q.1 = id then (id, some bs) else q } }

/-- Another part of the same write that meets a unit has not performed. -/
def State.morePart (s : State) (p : Posted) (u : Nat) : Bool :=
  s.posted.any fun q => q.id != p.id && q.owner == p.owner && q.lane == p.lane && q.grp == p.grp && q.whole == p.whole &&
    q.settled.isNone && q.bad.isNone && (List.range q.size).any fun i => unitOf (q.key + i) == u
/-- The marks that a write covers whole go with its last part (R420, R421). -/
def State.clearWhole (s : State) (p : Posted) : State :=
  if s.poison.isEmpty then s
  else { s with poison := s.poison.filter fun u =>
    !((List.range p.size).any fun i => unitOf (p.key + i) == u && covers p.whole.1 p.whole.2 (p.key + i)) || s.morePart p u }
/-- A returning operation, or one whose operand is in memory, that a mark stops (R318, R353, R420). -/
def State.markStops (s : State) (p : Posted) : Bool :=
  s.partBlocked p.whole p.key p.size || (p.red.isSome && s.poisoned p.key p.size) ||
  ((s.homeMarks p.key p.size).any fun b => p.red.isSome || !(p.whole.1 ≤ b && b + 8 ≤ p.whole.1 + p.whole.2)) || (match p.second with
    | some k => s.poisoned k 4
    | none => false)
/-- The home's messages have room for what a write makes it send (R381). -/
def State.roomHome (s : State) (p : Posted) : Bool :=
  match homeOf p.key with
  | some h => s.roomX h 3
  | none => true
/-- Perform a store or memory-side operation at its home. One that would cover part of a marked word, or read one, fails and
stays as a failed access (R318, R353, R420). Its home's messages wait for room (R381). A comparison that fails writes nothing, but its
die must have what it has read before its thread reads there again (R230). -/
def State.settlePosted (s : State) (p : Posted) : State :=
  if p.bad.isSome || p.settled.isSome || !s.roomHome p then s
  else if s.markStops p then
    (s.modPosted p.id fun q => { q with bad := some 0 }).modThread p.owner p.lane fun t =>
      t.fillPart p.id (List.replicate p.size 0)
  else
    let rd := fun k => s.homeByte p.kid k
    let old := (List.range p.size).map fun i => rd (p.key + i)
    let s := if p.red.isSome then (s.learn p (s.sourcesOf ⟨none, none, none, none⟩ 0 p.key p.size)).modThread p.owner p.lane
      fun t => t.fillPart p.id old else s
    let quiet := match p.red with
      | some o => o.quiet (natOfBytes old)
      | none => false
    if quiet then (s.monitorAll p.key p.size p.kid false).modPosted p.id (fun q => { q with settled := some s.settle, sc := false }) |>.sweep
    else
      let bs := match p.red with
        | some o => o.bytes rd p.key
        | none => p.bytes
      let s := s.clearWhole p
      let s := if s.gathered p.key (some p.id) then s else s.monitorAll p.key p.size p.kid true
      let s := s.settleBytes p.kid p.key bs (some p.id)
      let s := s.modPosted p.id fun q =>
        { q with red := none, bytes := bs, settled := some s.settle, reach := if p.remoteHome then q.reach else some .die }
      if s.pushing p.id then s else s.endPosted p.id

/-- Ask the home of a line for it: the line is read at the home and its response is on the way; from then on the home pushes
what it settles (R380). -/
def State.fetchLine (s : State) (die line kid : Nat) : State :=
  match homeOf (line * 128) with
  | none => s
  | some h =>
    if s.fetching die line (some kid) || !s.roomX h 1 then s
    else (s.monitorAll (line * 128) 128 kid false).sendX h die
      (.fetch line kid ((List.range 128).map fun i => s.homeByte kid (line * 128 + i)))
/-- The home's answer to a load is on its way. -/
def State.answering (s : State) (id : Nat) : Bool :=
  s.xmsgs.any fun m => match m.kind with
    | .answer k _ => k == id
    | _ => false
/-- A load's value is fixed (R228): its own older stores forwarded, younger ones not seen (R124). A load of an SC page reads
at the home (R238), as does one of another die's pond, which no cache holds (R212): there the answer travels as a fetch response (R380). A
line that the die has no copy of is fetched first. The writes it returns are known to its thread from here on (R234). -/
def State.performLoad (s : State) (p : Posted) : State :=
  let r : Reader := if p.sc then ⟨none, none, none, none⟩ else s.readerOf p.owner p.lane
  let bs := s.viewBytesTo r p.id p.kid p.key p.rd
  let known := s.learn p (s.sourcesOf r p.id p.key p.rd)
  match p.remoteHome && (p.sc || !cachedLine p.key), homeOf p.key, p.die with
  | true, some h, some d => if s.answering p.id || !s.roomX h 1 then s else known.sendX h d (.answer p.id bs)
  | _, _, _ =>
    match p.die, (if p.sc then none else [p.key, p.key + (p.rd - 1)].find? fun k => s.needsFetch p.die p.kid k) with
    | some d, some k => s.fetchLine d (lineOf k) p.kid
    | _, _ => (known.modThread p.owner p.lane fun t => t.fillPart p.id bs).dropPosted p.id

/-- The remote write of an access has been sent. -/
def State.sentWrite (s : State) (p : Posted) : Bool :=
  s.xmsgs.any fun m => match m.kind with
    | .write id => id == p.id
    | _ => false
/-- A store takes its place in what its die has seen, as it first performs at a scope. -/
def Posted.seenAt (p : Posted) (r : Option Scope) (place : Nat) : Posted :=
  { p with reach := r, place := some (p.place.getD place) }
/-- Send the remote write. Where the die's L2 holds a copy of the line, it takes the bytes with it, and the store has then performed at die
scope for its own die (R380); without one its bytes are seen from the home. A store to an SC page is seen from its home alone (R238). -/
def State.sendWrite (s : State) (p : Posted) : State :=
  match p.die, homeOf p.key with
  | some d, some h =>
    if s.sentWrite p || p.settled.isSome || p.bad.isSome || !s.roomX d 1 then s
    else (if p.red.isSome || p.sc || (s.copyOf d (lineOf p.key) p.kid).isNone then s
      else s.logCode { s.modPosted p.id fun q => q.seenAt (some .die) (s.places + 1) with places := s.places + 1 } p.kid p.key
        p.size (some (s.writeOf p.id))).sendX d h (.write p.id)
  | _, _ => s

/-- An `atom`, `red` or `cas`, and a pond element's operation. -/
def Posted.atomic (p : Posted) : Bool :=
  match p.red with
  | some o => o.op < 16
  | none => false
def Posted.element (p : Posted) : Bool := p.red.isSome && !p.atomic
/-- Own thread's. -/
def Posted.sameThread (p q : Posted) : Bool := p.owner.same q.owner && p.lane == q.lane
/-- In program order of one thread; the elements of one pond operation (R253), and those of the flume (R292), are in none. -/
def Posted.inOrder (q p : Posted) : Bool :=
  q.id < p.id && q.sameThread p && !p.owner.engine && !(q.grp == p.grp && q.element && p.element)
/-- Accesses of the same location that coherence makes perform first (R230): the thread's own older ones (a load passes its own
plain stores, which it reads by forwarding, but for one of an SC page, which reads at the home and after every store its thread has
seen), the lower lanes of one memory-side instruction (R249), and the stores that agents of the same die may have seen before. A load also
waits for what its die has still to have of its thread's own operations there. An access of an SC page waits, until nothing of them is left,
for its thread's earlier ones to any (R238). -/
def State.before (s : State) (p : Posted) : List Posted :=
  s.posted.filter fun q => q.id != p.id && q.bad.isNone &&
    (p.sc && q.sc && q.inOrder p ||
     p.conflicts q && (
       if q.settled.isSome then p.rd != 0 && q.inOrder p && s.arriving q
       else if p.rd != 0 then q.inOrder p && (q.rd != 0 || q.red.isSome || p.sc) || (p.sc && q.rd == 0 && q.seenBy (s.readerOf p.owner p.lane) && !(q.sameThread p))
       else q.inOrder p || (q.atomic && p.atomic && q.grp == p.grp && q.owner.same p.owner && q.id < p.id) ||
         (q.rd == 0 && q.place.isSome && q.die == p.die && q.earlier p)))
/-- An access that must come first is on its way to the same home, ahead of this one: messages arrive in order (R381). -/
def State.ahead (s : State) (p q : Posted) : Bool :=
  p.remoteHome && q.rd == 0 && !p.sc && s.sentWrite q && homeOf q.key == homeOf p.key

/-- One access performs as far as it can from here, once nothing must come before it: a load fixes its value, a store or operation of another
die's location is sent, any other performs at its home. Accesses on the link perform elsewhere (R386; DEDUCED, log 49). -/
def State.performOne (s : State) (p : Posted) : State :=
  if p.tag.isSome || (s.before p).any (fun q => p.rd != 0 || !s.ahead p q) then s
  else if p.rd != 0 then s.performLoad p
  else if p.remoteHome then s.sendWrite p
  else s.settlePosted p
/-- An access performs after those that must come before it, which are all older; fuel is their number. -/
def State.perform : Nat → State → Nat → State
  | 0, s, _ => s
  | n + 1, s, id =>
    match s.posted? id with
    | none => s
    | some p =>
      let s := (s.before p).foldl (fun s q => s.perform n q.id) s
      match s.posted? id with
      | some p => s.performOne p
      | none => s
def State.performId (s : State) (id : Nat) : State := s.perform (s.posted.length + 1) id

end Sys2Proof.Machine
end

