-- ==== Sys2Proof/Machine/Flags.lean ====
section
/-! DEFINITION. Rounding mode, flush and the sticky flags of `fstat` (spec/02 R19, spec/04 R65, R67, R69, spec/03 R49). -/

namespace Sys2Proof.Machine

/-- A rounding code of `fmode` bits 1:0 (R19). -/
def modeOf (n : Nat) : RMode :=
  match n with
  | 0 => .rne
  | 1 => .rtz
  | 2 => .rup
  | _ => .rdn

/-- The mode of a thread's `fmode`. -/
def Thread.fmodeMode (t : Thread) : RMode := modeOf (t.sys.fmode.toNat % 4)
/-- The flush bit of a thread's `fmode`. -/
def Thread.fmodeFlush (t : Thread) : Bool := t.sys.fmode.getLsbD 2

/-- A rounding code of SUB: 0 is `fmode`, 1-4 override it (R49). -/
def Thread.modeBy (t : Thread) (code : Nat) : RMode :=
  match code with
  | 1 => .rne
  | 2 => .rtz
  | 3 => .rup
  | 4 => .rdn
  | _ => t.fmodeMode

/-- The mode of a floating-point instruction with its code in SUB[2:0] (R49). -/
def Thread.mode (t : Thread) (f : Fields) : RMode := t.modeBy (f.sub.toNat % 8)
/-- Flush of a floating-point instruction: `.ftz` in SUB[3], or `fmode` bit 2 (R49, R67). -/
def Thread.flush (t : Thread) (f : Fields) : Bool := f.sub.getLsbD 3 || t.fmodeFlush

/-- Set sticky flags; none is cleared (R69). -/
def Thread.raise (t : Thread) (fl : BitVec 5) : Thread :=
  { t with sys := { t.sys with fstat := t.sys.fstat ||| fl.setWidth 64 } }

end Sys2Proof.Machine
end

