-- ==== Sys2Proof/Machine/Snapshot.lean ====
section
/-! DEFINITION. The snapshot latch (spec/24_front_end_and_trust.md R404, R405; spec/06 R116). The spec names what each kind of
block latches and not where it lies in the 56 bytes: the model's order is a DESIGN CHOICE (log 13). -/

namespace Sys2Proof.Machine

/-- A free choice of the device: the next free word (DESIGN CHOICE, log 1). -/
def State.choose (s : State) : BitVec 64 × State := (Config.freeWord s.free, { s with free := s.free + 1 })

def dwordOf (n : Nat) : DWord := BitVec.ofNat 64 n
/-- A core's `clk` at a cycle of the device's count: it counts from the core's own reset, so it is 0 until then (R20) (DESIGN CHOICE, log 2). -/
def coreClk (core now : Nat) : DWord := BitVec.ofNat 64 (now - Config.clockLag core)

/-! ### What the blocks latch (R405) -/

/-- The walk that runs on a context of a core, with its mill. -/
def State.runningOn (s : State) (core ctx : Nat) : Option (Mill × Walk) :=
  (s.mills.filter fun m => m.core == core && m.st != .freed).findSome? fun m =>
    match m.ctxs[ctx]? with
    | some c => (c.walks.find? fun w => w.st == .running || w.st == .cancelling).map fun w => (m, w)
    | none => none

/-- A context's cursor and timeline. -/
def State.ctxValues (s : State) (core ctx : Nat) : List DWord :=
  match s.runningOn core ctx with
  | some (m, w) => [dwordOf w.next, dwordOf (match m.ctxs[ctx]? with
    | some c => c.timeline
    | none => 0)]
  | none => [0, 0]

/-- Kind 1, a core: `clk`; per context cursor and timeline; per mill stage, flume timeline and drain counter. -/
def State.coreValues (s : State) (core now : Nat) : List DWord :=
  [coreClk core now] ++ s.ctxValues core 0 ++ s.ctxValues core 1 ++
  ((s.mills.filter fun m => m.core == core && m.st != .freed && m.st != .evicted).map fun m =>
    [m.flume.stage.setWidth 64, dwordOf m.flume.timeline, dwordOf (s.drainOf m.uid)]).flatten

/-- Kind 2, a cluster: whether it holds a power token; TLB misses outstanding, at most 256 (R218), which
end within a step of the model: a free number. -/
def State.clusterValues (s : State) (cluster : Nat) (misses : DWord) : List DWord :=
  [if s.holders.contains cluster then 1 else 0, misses]

/-- Kind 3, the front end as a partition sees it: its queues' heads, and the event queue's occupancy. -/
def State.feValues (s : State) (p : Nat) : List DWord :=
  ((List.range (s.part p).qCount).map fun i => dwordOf (s.queue ((s.part p).qFirst + i)).head) ++ [dwordOf (min s.evq.length Config.eventQueue)]

/-- Kind 4, a link port: SEQ, ACK, credits per VC. -/
def LinkPort.values (p : LinkPort) : List DWord :=
  [dwordOf p.txSeq, dwordOf ((p.rxNext + 4095) % 4096)] ++ p.credits.map dwordOf

/-- The values of one block; `now` is the cycle of its latch. -/
def State.blockValues (s : State) (block kind now : Nat) : List DWord :=
  match kind with
  | 1 => s.coreValues block now
  | 2 => s.clusterValues block (dwordOf ((Config.freeWord (s.free + block)).toNat % 257))
  | 3 => s.feValues block
  | _ => (s.ports.getD block LinkPort.start).values

/-! ### Latching (R404, R116) -/

/-- The blocks of the package, as (block, kind). -/
def State.blocks (s : State) : List (Nat × Nat) :=
  (List.range Config.nCores).map (fun i => (i, 1)) ++ (List.range 52).map (fun i => (i, 2)) ++
    ((List.range 8).filter fun p => (s.part p).valid).map (fun p => (p, 3)) ++ (List.range s.ports.length).map fun i => (i, 4)
/-- The image for a partition's command: every block, and of the front end its own queues (R405). The 64-byte entries of a block are as many
as its values need, seven to an entry. -/
def snapBytes : Nat → SnapEntry → List DWord → List (List Byte)
  | 0, _, _ => []
  | n + 1, e, vs =>
    let bs := bytesOfNat 2 e.block ++ bytesOfNat 2 e.kind ++ bytesOfNat 4 e.lag ++
      (((vs.take 7).map fun v => bytesOfNat 8 v.toNat).flatten ++ List.replicate 56 (0 : Byte)).take 56
    bs :: (if vs.length > 7 then snapBytes n e (vs.drop 7) else [])
def State.image (s : State) (p : Nat) : List Byte :=
  (((s.snap.filter fun e => e.kind != 3 || e.block == p).map fun e => (snapBytes (e.vals.length + 1) e e.vals).flatten).flatten)
/-- A SNAPSHOT command that waits for its latch holds its image from the moment every block has latched. -/
def Cmd.takeImage (c : Cmd) (s : State) : Cmd :=
  if c.opcode = 6 ∧ c.phase = 0 ∧ !c.done then
    match (List.range 8).find? fun p => (s.part p).valid && decide ((s.part p).qFirst ≤ c.queue ∧ c.queue < (s.part p).qFirst + (s.part p).qCount) with
    | some p => { c with body := s.image p, phase := 1 }
    | none => c
  else c
def State.takeImages (s : State) : State :=
  if s.snapDue.isEmpty then { s with cmds := s.cmds.map fun c => c.takeImage s } else s
/-- The blocks whose cycle has come latch, each once, with the cycles between the first latch and its own. -/
def State.latchDue (s : State) : State :=
  match s.snapAt with
  | none => s
  | some t0 =>
    let due := fun (b : Nat × Nat × Nat) => decide (b.2.2 ≤ s.clk - t0)
    let now := s.snapDue.filter due
    if now.isEmpty then s
    else { s with
      snap := s.snap ++ now.map fun (b : Nat × Nat × Nat) => SnapEntry.mk b.1 b.2.1 b.2.2 (s.blockValues b.1 b.2.1 (t0 + b.2.2))
      snapDue := s.snapDue.filter fun b => !due b
      free := s.free + 64 }.takeImages
/-- A trigger: every block is to latch within 256 cycles of the first; one that comes while a snapshot is being latched joins it. -/
def State.latch (s : State) : State :=
  if !s.snapDue.isEmpty then s
  else
    let bs := s.blocks
    let first := (Config.freeWord s.free).toNat % max 1 bs.length
    let lag := fun (i : Nat) => if i = first then 0 else (Config.freeWord (s.free + 1 + i)).toNat % 257
    { s with
      snap := []
      snapAt := some s.clk
      snapDue := bs.zipIdx.map fun (e : (Nat × Nat) × Nat) => (e.1.1, e.1.2, lag e.2)
      free := s.free + 1 + bs.length }.latchDue

end Sys2Proof.Machine
end

