-- ==== Sys2Proof/Machine/Regs.lean ====
section
/-! DEFINITION. A thread's registers: the window over its stack, guards, the operand latch, pending bits, completion flags
and the clause it is in (spec/02_sequential_machine.md R11-R31; spec/06 R106). -/

namespace Sys2Proof.Machine

/-! ### Windows -/

/-- The stack position of vN at the current depth (R11). -/
def Thread.pos (t : Thread) (n : Nat) : Nat := 24 * t.depth + n
def Thread.getPos (t : Thread) (p : Nat) : Word := sget 0 t.stack p
/-- vN (R11). -/
def Thread.getV (t : Thread) (n : Nat) : Word := t.getPos (t.pos n)
/-- Write a position; a whole write clears its register's error mark (R420). -/
def Thread.setPos (t : Thread) (p : Nat) (w : Word) : Thread :=
  { t with stack := sput 0 t.stack p w, regPoison := t.regPoison.filter (· != p) }
def Thread.setV (t : Thread) (n : Nat) (w : Word) : Thread := t.setPos (t.pos n) w

/-- The words of window k's image: positions 24k to 24k + 23 (R15). -/
def Thread.image (t : Thread) (k : Nat) : List Byte :=
  ((List.range 24).map fun i => bytesOfNat 4 (t.getPos (24 * k + i)).toNat).flatten
/-- Write an image back into window k's positions. -/
def Thread.unimage (t : Thread) (k : Nat) (bs : List Byte) : Thread :=
  (List.range 24).foldl (fun t i => t.setPos (24 * k + i) (BitVec.ofNat 32 (natOfBytes ((bs.drop (4 * i)).take 4)))) t
/-- A window that is not resident holds nothing on chip: its positions are dropped. -/
def Thread.dropWin (t : Thread) (k : Nat) : Thread := { t with stack := sclear t.stack (24 * k) (24 * k + 24) }

/-- One window deeper: v8-v31 of the new window read zero (R12). -/
def Thread.enter (t : Thread) : Thread :=
  { t with
    depth := t.depth + 1
    stack := sclear t.stack (24 * (t.depth + 1) + 8) (24 * (t.depth + 1) + 32)
    regPoison := t.regPoison.filter fun p => p < 24 * (t.depth + 1) + 8 || 24 * (t.depth + 1) + 32 ≤ p }

/-! ### Guards -/

/-- g0 reads true (R13). -/
def Thread.guard (t : Thread) (k : Nat) : Bool := k == 0 || t.guards.getLsbD k
/-- A write to g0 is discarded (R13). -/
def Thread.setGuard (t : Thread) (k : Nat) (b : Bool) : Thread :=
  if k = 0 then t
  else { t with guards := if b then t.guards ||| BitVec.ofNat 8 (2 ^ k) else t.guards &&& ~~~BitVec.ofNat 8 (2 ^ k) }

/-! ### Pending bits and flags -/

/-- A destination has a pending bit (R24, R122, R162). -/
def Thread.pending (t : Thread) (d : Dst) : Bool := t.long.any fun o => o.touch.contains d
/-- Some position of [lo, hi) has a pending bit (R106). -/
def Thread.pendingIn (t : Thread) (lo hi : Nat) : Bool :=
  t.long.any fun o => o.touch.any fun d => match d with
    | .pos p => lo ≤ p && p < hi
    | _ => false
/-- The completion flag is busy: an instruction bound to it is in flight (R22). -/
def Thread.busy (t : Thread) (cf : Nat) : Bool := t.long.any fun o => o.flag == some cf
/-- Some flag of a WAIT mask is busy. -/
def Thread.waits (t : Thread) (mask : BitVec 12) : Bool := (List.range 12).any fun i => mask.getLsbD i && t.busy i

/-- A long-latency result's part in its thread: positions and guards written, flags set, the entry removed (R24). A thread
that has exited discards the results (R108). Uniform registers are written by the caller. -/
def Thread.finishLong (t : Thread) (o : LongOp) : Thread :=
  let t' := { t with long := t.long.filter (·.id != o.id) }
  if t.exited then t'
  else (o.writes.foldl (fun t w => match w.1 with
    | .pos p => t.setPos p w.2
    | .guard k => t.setGuard k (w.2 != 0)
    | .uni _ => t) t').raise o.flags

/-! ### The operand latch -/

/-- hN is usable: valid, and captured by one of the last two instructions issued (R26). -/
def Thread.latchOk (t : Thread) (n : Nat) : Bool :=
  match t.latch[n]? with
  | some e => e.valid && e.age < 2
  | none => false
def Thread.latchVal (t : Thread) (n : Nat) : Word :=
  match t.latch[n]? with
  | some e => e.val
  | none => 0
/-- Every entry is one instruction older; ages stop at 2, past use. -/
def Thread.ageLatch (t : Thread) : Thread :=
  { t with latch := t.latch.map fun e => { e with age := if e.age < 2 then e.age + 1 else 2 } }
/-- Capture: h1 to h2, h0 to h1, the new value in h0; none marks it invalid (R26, R43). -/
def Thread.capture (t : Thread) (v : Option Word) : Thread :=
  { t with latch := ((match v with
      | some w => ⟨w, 0, true⟩
      | none => ⟨0, 0, false⟩) :: t.latch).take 3 }

/-! ### Clauses -/

/-- The next instruction: its index rises, and after the last one a header is due (R25). -/
def Thread.advance (t : Thread) (next : DWord) : Thread :=
  match t.clause with
  | none => { t with pc := next }
  | some c =>
    if c.idx + 1 ≥ c.count then { t with pc := next, clause := none }
    else { t with pc := next, clause := some { c with idx := c.idx + 1 } }
/-- The instruction at the PC is the last of its clause. -/
def Thread.atLast (t : Thread) : Bool :=
  match t.clause with
  | some c => c.idx + 1 == c.count
  | none => false
/-- The clause in force holds a `yield` and ends with the instruction at the PC (R201). -/
def Thread.yielding (t : Thread) : Bool :=
  match t.clause with
  | some c => c.yld
  | none => false

/-- tcause for a trap whose `tpc` is the thread's PC (R30): IDX 63 and HOFF 0 when a header is due. -/
def Thread.causeWord (t : Thread) (cls sub : Nat) : DWord :=
  match t.clause with
  | none => BitVec.ofNat 64 (cls + 256 * sub + 65536 * 63)
  | some c =>
    BitVec.ofNat 64 (cls + 256 * sub + 65536 * (c.idx % 64) + 16777216 * (((t.pc - c.hdr).toNat / 4) % 256))

/-- A flag that MOD[9] selects from the clause's bindings (R22): none for 15, and for a thread in no clause. -/
def Thread.boundFlag (t : Thread) (f : Fields) : Option Nat :=
  match t.clause with
  | none => none
  | some c =>
    let x := if f.mod.getLsbD 9 then c.set1.toNat else c.set0.toNat
    if x = 15 then none else some x

end Sys2Proof.Machine
end

