-- ==== Sys2Proof/Machine/Events.lean ====
section
/-! DEFINITION. Fault records, the host's event rings and status blocks, command completion, aborts, retirement and escalation
(spec/20_faults_and_preemption.md R350-R355; spec/24_front_end_and_trust.md R396-R403; spec/08 R167, R173, R174). -/

namespace Sys2Proof.Machine

/-! ### Records and rings -/

/-- The 64 bytes of a fault record (R350). -/
def FaultRec.bytes (r : FaultRec) : List Byte :=
  bytesOfNat 1 r.cls.toNat ++ bytesOfNat 1 r.sub.toNat ++ bytesOfNat 2 r.flags.toNat ++ bytesOfNat 1 r.wheel.toNat ++
  bytesOfNat 1 r.mill.toNat ++ bytesOfNat 2 r.core.toNat ++ bytesOfNat 8 r.pc.toNat ++ bytesOfNat 8 r.va.toNat ++
  bytesOfNat 4 r.lanesF.toNat ++ bytesOfNat 4 r.lanesD.toNat ++ bytesOfNat 4 r.access.toNat ++ bytesOfNat 4 r.ctx.toNat ++
  bytesOfNat 8 r.seq.toNat ++ bytesOfNat 8 r.info0.toNat ++ bytesOfNat 8 r.info1.toNat

/-- STATUS of an event record: CLASS in bits 7:0, SUB in bits 15:8 (R402). -/
def FaultRec.status (r : FaultRec) : Nat := r.cls.toNat + 256 * r.sub.toNat

/-- The device writes host memory as the front end does: at once, outside translation (R396, R402). -/
def State.hostWrite (s : State) (addr : Nat) (bs : List Byte) : State :=
  { s with mem := memPutList s.mem (hostKey addr) bs }

/-- The ring is full when EVTAIL - EVHEAD, modulo 2^32, is 2^n (R402). -/
def Ring.full (r : Ring) : Bool := (r.evtail - r.evhead).toNat == 2 ^ r.evlog

/-- One 32-byte record at EVTAIL, then MSI-X vector 0 (R402). -/
def State.ringWrite (s : State) (p source kind seq queue status : Nat) (info : List Byte) : State :=
  let r := (s.part p).ring
  let bs := bytesOfNat 2 source ++ bytesOfNat 2 kind ++ bytesOfNat 4 seq ++ bytesOfNat 2 queue ++ bytesOfNat 2 status ++
    (info ++ List.replicate 20 (0 : Byte)).take 20
  (s.hostWrite (r.evbase.toNat + 32 * (r.evtail.toNat % 2 ^ r.evlog)) bs).modPart p fun q =>
    { q with ring := { q.ring with evtail := q.ring.evtail + 1, msix := q.ring.msix + 1 } }

/-- The next SOURCE SEQ of a source is consumed (R402, R403). -/
def State.nextSeq (s : State) (p source : Nat) : Nat × State :=
  let n := sget 0 (s.part p).ring.seqs source + 1
  (n, s.modPart p fun q => { q with ring := { q.ring with seqs := sput 0 q.ring.seqs source n } })

/-- Once space has returned, the overflow record comes before any later one (R403). -/
def State.flushOverflow (s : State) (p : Nat) : State :=
  let r := (s.part p).ring
  if r.lost != 0 && !r.full then
    let (n, s) := s.nextSeq p 0x8000
    (s.ringWrite p 0x8000 3 n 0xFFFF 0 (bytesOfNat 4 r.lost.toNat)).modPart p fun q =>
      { q with ring := { q.ring with lost := 0, summary := false } }
  else s

/-- A record for the host, after a pending overflow record. A full ring loses it: its SOURCE SEQ is consumed, the lost count rises and the summary bit is
set (R403). -/
def State.hostRecord (s : State) (p source kind queue status : Nat) (info : List Byte) : State :=
  let s := s.flushOverflow p
  let (n, s) := s.nextSeq p source
  if (s.part p).ring.full then
    s.modPart p fun q => { q with ring := { q.ring with lost := q.ring.lost + 1, summary := true } }
  else s.ringWrite p source kind n queue status info

/-- A device-level record (SOURCE 0x8000) goes to the ring of every valid partition (DEDUCED, log 9). -/
def State.deviceRecord (s : State) (kind status : Nat) (info : List Byte) : State :=
  (List.range 8).foldl (fun s p =>
    if (s.part p).valid then s.hostRecord p 0x8000 kind 0xFFFF status info else s) s

/-! ### Queues -/

/-- The partition that owns a host queue (R395). -/
def State.partOfQueue (s : State) (q : Nat) : Option Nat :=
  (List.range 8).find? fun p =>
    (s.part p).valid && decide ((s.part p).qFirst ≤ q ∧ q < (s.part p).qFirst + (s.part p).qCount)

/-- A field of the queue's status block in host memory (R396). -/
def State.putStatus (s : State) (q off : Nat) (bs : List Byte) : State :=
  s.hostWrite ((s.queue q).status.toNat + off) bs

/-- The queue's error (R400): the first one is written to the registers and the status block; every one is a host event. -/
def State.queueError (s : State) (q : Nat) (seq : BitVec 32) (r : FaultRec) : State :=
  let s1 :=
    if (s.queue q).state = 1 then s
    else
      let s := s.modQueue q fun x => { x with state := 1, errseq := seq, error := r }
      ((s.putStatus q 0x08 (bytesOfNat 4 1)).putStatus q 0x0C (bytesOfNat 4 seq.toNat)).putStatus q 0x40 r.bytes
  match s1.partOfQueue q with
  | some p => s1.hostRecord p q 2 q r.status (bytesOfNat 4 seq.toNat ++ r.bytes.take 16)
  | none => s1

/-- A record that names only a class and a subcode. -/
def FaultRec.simple (cls sub : Nat) : FaultRec := { FaultRec.zero with cls := BitVec.ofNat 8 cls, sub := BitVec.ofNat 8 sub }

/-- A command completes (R396, R399): DONESEQ is written, and a completion record where FLAGS bit 0 asks for one, with the
first record as its status (R354). -/
def State.completeCmd (s : State) (uid : Nat) : State :=
  match s.cmd? uid with
  | none => s
  | some c =>
    let s := s.modCmd uid fun c => { c with done := true }
    let s := s.modQueue c.queue fun x => { x with doneseq := c.seq }
    let s := s.putStatus c.queue 0x04 (bytesOfNat 4 c.seq.toNat)
    let st := match c.err with
      | some r => r.status
      | none => 0
    match c.flags.getLsbD 0, s.partOfQueue c.queue with
    | true, some p => s.hostRecord p c.queue 1 c.queue st (bytesOfNat 4 c.seq.toNat)
    | _, _ => s

/-! ### Retirement -/

/-- A grid of a command retires: the spawn-tree counter falls, and the front end has its completion as an event (R401); at 0 the command
completes with it (R167). -/
def State.treeDown (s : State) (cmd : Nat) : State :=
  match s.cmd? cmd with
  | none => s
  | some _ =>
    let s := s.modCmd cmd fun c => { c with tree := c.tree - 1 }
    { s with evq := s.evq ++ [.gridDone cmd] }

/-- Some gangs of the grid are gone; with the last the grid retires (R167). -/
def State.gridDown (s : State) (grid n : Nat) : State :=
  match s.grid? grid with
  | none => s
  | some g =>
    if g.left ≤ n then
      ({ s with grids := s.grids.filter (·.uid != grid) }).treeDown g.cmd
    else s.modGrid grid fun g => { g with left := g.left - n }

/-- Gangs of a grid (R154). -/
def Launch.gangs (r : Launch) : Nat := r.ext.getD 3 1 * r.ext.getD 4 1 * r.ext.getD 5 1

/-- A gang all of whose mills are freed retires with them. -/
def State.retireGang (s : State) (gang : Nat) : State :=
  match s.gang? gang with
  | none => s
  | some g =>
    if s.mills.any fun m => m.gang == gang && m.st != .freed then s
    else
      let s := { s with
        gangs := s.gangs.filter (·.uid != gang)
        mills := s.mills.filter (·.gang != gang) }
      s.gridDown g.grid 1

/-! ### Aborts and escalation -/

/-- A thread stops at once: blocked instructions are abandoned and outstanding results discarded (R355). -/
def Thread.abort (t : Thread) : Thread :=
  { t with exited := true, long := [], halted := false, haltDue := false, stopped := false, waiting := false, blocked := false, posted := [], due := none }

/-- R355: threads stop, nothing fires, walks end as if halted, the flume and sends stop. A resident mill then drains, as does an evicted
one, which holds no core. -/
def Mill.abort (m : Mill) : Mill :=
  { m with
    aborted := true
    st := match m.st with
      | .running => .draining
      | x => x
    wheels := m.wheels.map fun w => { w with threads := w.threads.map Thread.abort, inst := none, fences := Fences.start, posting := none }
    ctxs := m.ctxs.map fun c =>
      { c with walks := [], input := [], wends := [], halted := c.halted || c.walks.any fun w => w.st != .ended && w.st != .halted }
    flume := { m.flume with ops := [] } }

/-- A mill's resources are zeroed and freed: its scratchpad with its error marks, and a context save area that it still holds (R174, R225,
R378); a gang all of whose mills are freed retires. -/
def State.freeMill (s : State) (uid : Nat) : State :=
  match s.mill? uid with
  | none => s
  | some m =>
    let lo := padKey uid 0
    let s := (s.modMill uid fun m => { m with st := .freed, area := none }).zeroRange lo m.padBytes
    let s := match m.area with
      | some a => s.zeroRange a.1 a.2
      | none => s
    ({ s with
       posted := s.posted.filter fun p => !(p.rd != 0 && p.mill == some uid)
       txns := s.txns.filter fun t => t.mill != some uid || t.posted.isSome }).retireGang m.gang
/-- Abort one mill. -/
def State.abortMill (s : State) (uid : Nat) : State :=
  match s.mill? uid with
  | none => s
  | some _ =>
    { s.modMill uid Mill.abort with posted := s.posted.filter fun p => !(p.rd != 0 && p.mill == some uid) }

/-- Abort every mill of a grid and discard its unplaced gangs, which leave the grid's count (R354): the state lists the first of them. -/
def State.abortGrid (s : State) (grid : Nat) : State :=
  let s := s.modGrid grid fun g => { g with dead := true }
  (s.gangs.filter (·.grid == grid)).foldl (fun s g =>
    let s := s.modGang g.uid fun g =>
      { g with save := none, restoring := false, yield := false, st := if g.st = .evicted then .retired else g.st }
    if g.st = .unplaced then
      let n := match s.grid? grid with
        | some x => x.lr.gangs - g.num
        | none => 1
      ({ s with gangs := s.gangs.filter (·.uid != g.uid) }).gridDown grid n
    else g.mills.foldl (fun s uid => s.abortMill uid) s) s

/-- Abort every grid of a command (R354). -/
def State.abortCmd (s : State) (cmd : Nat) : State :=
  (s.grids.filter (·.cmd == cmd)).foldl (fun s g => s.abortGrid g.uid) s

/-- Mill error and every later step of R354: the mill, its grid and its command are aborted, the command keeps the first
record, and the fault goes to the front end, which puts the queue in error and writes the host event (DEDUCED, log 28). A fatal error
triggers a snapshot (R404). -/
def State.millError (s : State) (uid : Nat) (r : FaultRec) : State :=
  match s.gridOfMill uid with
  | none => s.abortMill uid
  | some g =>
    let s := s.modMill uid fun m => { m with err := match m.err with
      | some e => some e
      | none => some r }
    let s := s.abortMill uid
    let s := s.modCmd g.cmd fun c => { c with err := match c.err with
      | some e => some e
      | none => some r }
    let s := (s.abortCmd g.cmd).latch
    let seq := match s.cmd? g.cmd with
      | some c => c.seq
      | none => 0
    { s with evq := s.evq ++ [.escalated g.queue seq r] }

/-- A fault with no handler, or a double fault (R354): the thread stops. On a front-end core the run ends, and the error
path writes a device-level event (R401). -/
def State.escalate (s : State) (a : Agent) (lane : Nat) (r : FaultRec) (double : Bool) : State :=
  let r := { r with flags := r.flags ||| 0x10 ||| (if double then 0x20 else 0) }
  let s := s.modThread a lane fun t => { t with stopped := true }
  match a with
  | .fe n =>
    (({ s with posted := s.posted.filter fun p => !(p.rd != 0 && p.owner == a) }.modFe n fun c =>
      { c with thread := { c.thread with exited := true, stopped := false, long := [] }, run := none }).deviceRecord
      2 r.status (bytesOfNat 4 0 ++ r.bytes.take 16)).latch
  | .wheel uid _ => s.millError uid r
  | .buf uid _ => s.millError uid r

end Sys2Proof.Machine
end

