-- ==== Sys2Proof/Machine/Translate.lean ====
section
/-! DEFINITION. Address spaces, the page-table walk, range and permission checks, and the resolution of an access to the
pieces of memory it touches (spec/10_memory_levels.md R202-R224; spec/06 R118, R120; spec/02 R34). -/

namespace Sys2Proof.Machine

/-- What an access is, with the codes of the record's ACCESS field (R351). -/
inductive AccKind where
  | load | store | atomic | fetch | spill | fill | touch | engRead | engWrite
  deriving DecidableEq, Repr

def AccKind.code : AccKind → Nat
  | .load => 1
  | .store => 2
  | .atomic => 3
  | .fetch => 4
  | .spill => 5
  | .fill => 6
  | .touch => 7
  | .engRead => 8
  | .engWrite => 9
/-- The page bits an access needs (R215, R220). -/
def AccKind.needs (k : AccKind) (l : Leaf) : Bool :=
  match k with
  | .load => l.r
  | .fill => l.r
  | .touch => l.r
  | .engRead => l.r
  | .store => l.w
  | .spill => l.w
  | .engWrite => l.w
  | .atomic => l.r && l.w
  | .fetch => l.x
def AccKind.writes : AccKind → Bool
  | .store => true
  | .spill => true
  | .engWrite => true
  | .atomic => true
  | _ => false

/-- The spaces of R118. -/
inductive Space where
  | glob | sp | pd
  deriving DecidableEq, Repr
def Space.code : Space → Nat
  | .glob => 0
  | .sp => 1
  | .pd => 2

/-- What a fault will say in its record: class and subcode, the address and access, the lanes of a collective, INFO, and
whether `tpc` is the next instruction (`trap` and `bkpt`, R28). -/
structure FaultInfo where
  cls    : Nat
  sub    : Nat
  va     : DWord := 0
  access : BitVec 32 := 0
  lanes  : Option (BitVec 32 × BitVec 32) := none
  info0  : DWord := 0
  info1  : DWord := 0
  after  : Bool := false
  deriving DecidableEq, Repr

/-- The ACCESS field (R351). -/
def accessField (k : AccKind) (spc : Space) (size : Nat) : BitVec 32 :=
  BitVec.ofNat 32 (k.code + 16 * Nat.log2 size + 256 * spc.code)

/-- A fault with an address. -/
def accFault (cls sub : Nat) (va : DWord) (k : AccKind) (spc : Space) (size : Nat) : FaultInfo :=
  { cls := cls, sub := sub, va := va, access := accessField k spc size }

/-- Why an access cannot be made now: a fault; a page not present that goes to the front end (root, page address, and the
fault it becomes on refusal); or a wait (a page on the move, a line to fetch,
a read of another device, a read that its home must answer). -/
inductive AErr where
  | fault (fi : FaultInfo)
  | absent (root page : Nat) (fi : FaultInfo)
  | stall
  | fetchLine (line kid : Nat)
  | remote (va size node pa : Nat)
  | atHome (va size key kid : Nat) (sc : Bool)
  deriving DecidableEq, Repr

/-! ### Page tables -/

/-- An entry's 128 bits, read from memory at the node's home, without decryption: of a line that was written under a key it reads the
encrypted bytes, which are free (R217) (DEDUCED, log 52). -/
def State.tableEntry (s : State) (addr : Nat) : Nat :=
  natOfBytes ((List.range 16).map fun i => s.plain 0 (addr + i))
def entV (e : Nat) : Bool := bitAt e 0
def entLeaf (e : Nat) : Bool := bitAt e 1
def entSize (e : Nat) : Nat := bitsOf e 66 64

/-- A leaf of an entry (R215). -/
def leafOf (e : Nat) : Leaf where
  frame := bitsOf e 51 12
  size := entSize e
  kid := bitsOf e 61 52
  node := bitsOf e 79 68
  mov := bitAt e 9
  cmp := bitAt e 8
  tier := bitsOf e 7 6
  sc := bitAt e 5
  x := bitAt e 4
  w := bitAt e 3
  r := bitAt e 2

/-- Bytes of a page by its SIZE code (R215). -/
def pageBytes (size : Nat) : Nat :=
  match size with
  | 0 => 2 ^ 12
  | 1 => 2 ^ 16
  | 2 => 2 ^ 21
  | 3 => 2 ^ 28
  | _ => 2 ^ 32

/-- The malformed leaves of R220 that do not depend on the level: alignment, tier range, CMP. -/
def Leaf.wellFormed (l : Leaf) : Bool :=
  (l.frame * 4096) % pageBytes l.size == 0 &&
  (l.tier != 0 || inHbm (l.frame * 4096)) &&
  (l.tier != 1 || inTier1 (l.frame * 4096)) &&
  (!l.cmp || l.tier == 1)

/-- A walk's end: a leaf with the address of its entry, a translation subcode (R220), or a marked line that the walker was to read (R421). -/
inductive WalkEnd where
  | leaf (l : Leaf) (entry : Nat)
  | fail (sub : Nat)
  | poison
  deriving DecidableEq, Repr

/-- The larger leaf of a level: its SIZE code and the entries its group spans (R216). -/
def bigSize (level : Nat) : Nat := match level with
  | 0 => 1
  | 1 => 3
  | _ => 4
def groupLen (level : Nat) : Nat := match level with
  | 0 => 16
  | 1 => 128
  | _ => 4
/-- The leaf of a level's natural span: 4 KiB at level 0, 2 MiB at level 1, none above (R214). -/
def ownSize (level : Nat) : Option Nat := match level with
  | 0 => some 0
  | 1 => some 2
  | _ => none

/-- The walk from a node at a level (R214-R216). A marked line is delivered as a poisoned word (R421). -/
def walkGo (s : State) (va : Nat) : Nat → Nat → WalkEnd
  | level, node =>
    let idx := (va / 2 ^ (12 + 9 * level)) % 512
    let first := idx - idx % groupLen level
    let e1 := s.tableEntry (node + 16 * first)
    if level ≤ 2 && s.poisoned (node + 16 * first) 16 then .poison
    else if level ≤ 2 ∧ entV e1 ∧ entLeaf e1 ∧ entSize e1 = bigSize level then
      if (leafOf e1).wellFormed then .leaf (leafOf e1) (node + 16 * first) else .fail 1
    else if s.poisoned (node + 16 * idx) 16 then .poison
    else
      let e := s.tableEntry (node + 16 * idx)
      if !entV e then .fail 0
      else if entLeaf e then
        if ownSize level = some (entSize e) ∧ (leafOf e).wellFormed then .leaf (leafOf e) (node + 16 * idx) else .fail 1
      else
        match level with
        | 0 => .fail 1
        | l + 1 => walkGo s va l (bitsOf e 51 13 * 8192)

/-- The address space an access is made in: its root, the key-IDs it may use (none: no key-ID check), the partition whose
share frames must lie in, direct fault delivery, and the core whose TLB it uses. -/
structure AddrSpace where
  root   : Nat
  kids   : Option (List Nat)
  part   : Option Nat
  direct : Bool
  core   : Option Nat
  deriving DecidableEq, Repr

/-- The frame lies in the partition's share of its tier (R220). -/
def Partition.owns (p : Partition) (l : Leaf) : Bool :=
  let lo := l.frame * 4096
  let hi := lo + pageBytes l.size
  if l.tier = 0 then decide (p.hbmBase.toNat ≤ lo ∧ hi ≤ p.hbmBase.toNat + p.hbmSize.toNat)
  else decide (p.t1Base.toNat ≤ lo ∧ hi ≤ p.t1Base.toNat + p.t1Size.toNat)

/-- A TLB hit of the core (R218). -/
def State.tlbHit (s : State) (sp : AddrSpace) (va : Nat) : Option Leaf :=
  match sp.core with
  | none => none
  | some c => (s.tlb.find? fun t => t.core == c && t.root == sp.root && t.base ≤ va && va < t.base + pageBytes t.leaf.size).map (·.leaf)
/-- The cluster's TLB holds the leaf (R218). -/
def TlbEntry.hits (t : TlbEntry) (root va : Nat) : Bool := t.root == root && t.base ≤ va && va < t.base + pageBytes t.leaf.size
def State.tlb2Hit (s : State) (sp : AddrSpace) (va : Nat) : Option Leaf :=
  match sp.core with
  | none => none
  | some c => (s.tlb2.find? fun t => t.core == clusterOfCore c && t.hits sp.root va).map (·.leaf)
/-- The leaves that the TLBs of the core's cluster hold for an address (R218). -/
def State.clusterHits (s : State) (sp : AddrSpace) (va : Nat) : List Leaf :=
  match sp.core with
  | none => []
  | some c => ((s.tlb.filter fun t => clusterOfCore t.core == clusterOfCore c && t.hits sp.root va) ++
      s.tlb2.filter fun t => t.core == clusterOfCore c && t.hits sp.root va).map (·.leaf)
/-- How an access translates: by the core's TLB, its cluster's, or a walk, and until a FLUSH, by choice, by the tables as they stand or by another TLB of
the cluster (R219). -/
def State.walkEnd (s : State) (sp : AddrSpace) (va : Nat) : WalkEnd :=
  let walk := walkGo s (va % 2 ^ 57) 4 sp.root
  match s.pick 1 va with
  | 0 => match s.tlbHit sp va with
    | some l => .leaf l 0
    | none => match s.tlb2Hit sp va with
      | some l => .leaf l 0
      | none => walk
  | n + 1 => match (s.clusterHits sp va)[n]? with
    | some l => .leaf l 0
    | none => walk

/-- Translation of one address (R5 Translate): the leaf and physical address, in the check order of R220. -/
inductive XlateEnd where
  | ok (l : Leaf) (pa : Nat)
  | fail (cls sub : Nat)
  deriving DecidableEq, Repr

def State.translate (s : State) (sp : AddrSpace) (k : AccKind) (va : Nat) : XlateEnd :=
  match s.walkEnd sp va with
  | .fail sub => .fail 8 sub
  -- the access is the consumer of the word that the walker reads for it (R421) (DEDUCED, log 53)
  | .poison => .fail 0x0C 1
  | .leaf l _ =>
    if !k.needs l then .fail 9 0
    else if decide (l.tier ≤ 1) && (match sp.kids with
        | some ks => !ks.contains l.kid
        | none => false) then .fail 9 4
    else if decide (l.tier ≤ 1) && (match sp.part with
        | some p => !(s.part p).owns l
        | none => false) then .fail 9 4
    else .ok l (l.frame * 4096 + va % pageBytes l.size)

/-! ### Who accesses where -/

/-- The engagement of a grid in its partition. -/
def State.engOf (s : State) (part num : Nat) : Option Engagement := (s.part part).engs.find? (·.num == num)

/-- The address space of a grid's accesses: its queue's root, its engagement's key-IDs, its partition's share (R214, R220,
R395). -/
def State.gridSpace (s : State) (g : Grid) (core : Option Nat) : AddrSpace where
  root := (s.queue g.queue).root.toNat
  kids := some (match s.engOf g.part g.lr.eng with
    | some e => e.kids
    | none => [])
  part := some g.part
  direct := (s.queue g.queue).ctrl.getLsbD 1
  core := core

/-- The address space of a command's addresses: any key-ID of the partition (R436). -/
def State.cmdSpace (s : State) (part q : Nat) : AddrSpace where
  root := (s.queue q).root.toNat
  kids := some ((List.range (s.part part).keyCount).map fun i => (s.part part).keyFirst + i)
  part := some part
  direct := (s.queue q).ctrl.getLsbD 1
  core := none

/-- A piece of memory an access touches: its key, length and offset in the access; the key generation it is read and
written under; page attributes; and for a remote piece the device and physical address (R210, R385). -/
structure Piece where
  key  : Nat
  len  : Nat
  off  : Nat
  kid  : Nat
  sc   : Bool
  tier : Nat
  node : Nat
  pa   : Nat
  tlb  : Option TlbEntry
  deriving DecidableEq, Repr

/-- Split [va, va + n) at the 4 KiB boundaries: (address, offset, length), by fuel (R120). -/
def splitPages : Nat → Nat → Nat → Nat → List (Nat × Nat × Nat)
  | 0, _, _, _ => []
  | fuel + 1, va, off, n =>
    if n = 0 then []
    else
      let m := min n (4096 - va % 4096)
      (va, off, m) :: splitPages fuel (va + m) (off + m) (n - m)

/-- One page's part of a global access under an address space. `refused` lists the pages whose resolution was refused: the access that
waited takes its fault, whatever the entry holds by then (R221). -/
def State.globalPiece (s : State) (sp : AddrSpace) (k : AccKind) (refused : List Nat) (size va off len : Nat) :
    Except AErr Piece :=
  let fi := fun c sub => accFault c sub (BitVec.ofNat 64 va) k .glob size
  if refused.contains (va / 4096) then .error (.fault (fi 8 0))
  else match s.translate sp k va with
  | .fail 8 0 =>
    if sp.direct then .error (.fault (fi 8 0))
    else .error (.absent sp.root (va / 4096) (fi 8 0))
  | .fail c sub => .error (.fault (fi c sub))
  | .ok l pa =>
    if l.mov && k.writes then .error .stall
    else
      .ok { key := if l.tier = 2 then hostKey pa else pa
            len := len
            off := off
            kid := if l.tier ≤ 1 then l.kid else 0
            sc := l.sc && l.tier ≤ 1
            tier := l.tier
            node := l.node
            pa := pa
            tlb := sp.core.map fun c => ⟨c, sp.root, va - va % pageBytes l.size, l⟩ }

/-- All pages of a global access, in increasing address order: the first failure is the access's (R120). -/
def State.globalPieces (s : State) (sp : AddrSpace) (k : AccKind) (refused : List Nat) (va size : Nat) :
    Except AErr (List Piece) :=
  (splitPages (size / 4096 + 2) va 0 size).mapM fun t => s.globalPiece sp k refused size t.1 t.2.1 t.2.2

/-- The range rule of a global virtual address: bits 63:57 equal bit 56 (R118). -/
def vaOk (va : DWord) : Bool := va.toNat / 2 ^ 56 == 0 || va.toNat / 2 ^ 56 == 255
/-- The lowest address of an access in the first of its pages that the rule shuts out (R118, R120). -/
def vaBad (va : DWord) (size : Nat) : Option DWord :=
  if !vaOk va then some va
  else
    let next := va + BitVec.ofNat 64 (4096 - va.toNat % 4096)
    if va.toNat % 4096 + size > 4096 && !vaOk next then some next else none

/-- Pond range: bits 63:30 zero and inside the partition's share on the die named (R118, R207). -/
def State.pondOk (s : State) (part : Nat) (addr size : Nat) : Bool :=
  let sh := (s.part part).pond.getD (addr / 2 ^ 28 % 4) (0, 0)
  addr < 2 ^ 30 && addr % 2 ^ 28 + size ≤ sh.2 * 2 ^ 20
/-- Where a pond address of a partition lies (R207). -/
def State.pondAt (s : State) (part addr : Nat) : Nat :=
  pondKey (addr / 2 ^ 28 % 4) (((s.part part).pond.getD (addr / 2 ^ 28 % 4) (0, 0)).1 * 2 ^ 20 + addr % 2 ^ 28)

/-- A piece of scratchpad or pond: unkeyed, uncached, never translated (R205, R208). -/
def plainPiece (key len : Nat) : Piece := ⟨key, len, 0, 0, false, 0, 0, 0, none⟩

/-- Range check and place of a mill's access in a space (R118), then translation (R120). -/
def State.millPieces (s : State) (uid : Nat) (k : AccKind) (refused : List Nat) (spc : Space) (addr : DWord) (size : Nat) :
    Except AErr (List Piece) :=
  match s.mill? uid, s.gridOfMill uid with
  | some m, some g =>
    match spc with
    | .sp =>
      if addr.toNat + size > m.padBytes then .error (.fault (accFault 9 2 addr k spc size))
      else .ok [plainPiece (padKey uid addr.toNat) size]
    | .pd =>
      if !s.pondOk g.part addr.toNat size then .error (.fault (accFault 9 3 addr k spc size))
      else .ok [plainPiece (s.pondAt g.part addr.toNat) size]
    | .glob =>
      match vaBad addr size with
      | some va => .error (.fault (accFault 9 1 va k spc size))
      | none => s.globalPieces (s.gridSpace g (some m.core)) k refused addr.toNat size
  | _, _ => .error .stall

/-- A front-end core's access (R34): under `xroot`, or untranslated. A physical address outside the local map takes the
range fault (DEDUCED, log 6). -/
def State.fePieces (s : State) (sys : SysRegs) (k : AccKind) (refused : List Nat) (addr : DWord) (size : Nat) :
    Except AErr (List Piece) :=
  if sys.xroot != 0 then
    match vaBad addr size with
    | some va => .error (.fault (accFault 9 1 va k .glob size))
    | none => s.globalPieces ⟨sys.xroot.toNat, none, none, true, none⟩ k refused addr.toNat size
  else
    let x := addr.toNat
    let pa := x % 2 ^ 52
    if x / 2 ^ 53 != 0 then .error (.fault (accFault 9 1 addr k .glob size))
    else if bitAt x 52 then .ok [⟨hostKey pa, size, 0, 0, false, 2, 0, pa, none⟩]
    else if inHbm pa || inTier1 pa then
      .ok [⟨pa, size, 0, sys.xkey.toNat % 1024, false, (if inHbm pa then 0 else 1), 0, pa, none⟩]
    else .error (.fault (accFault 9 1 addr k .glob size))

/-- Range, translation and permission of a thread's access (R118, R120 steps 2 and 3). -/
def State.pieces (s : State) (a : Agent) (lane : Nat) (k : AccKind) (spc : Space) (addr : DWord) (size : Nat) :
    Except AErr (List Piece) :=
  let t := s.thread a lane
  match a.mill with
  | none => s.fePieces t.sys k t.refused addr size
  | some uid => s.millPieces uid k t.refused spc addr size

/-- Alignment first (R120 step 1). -/
def State.checked (s : State) (a : Agent) (lane : Nat) (k : AccKind) (spc : Space) (addr : DWord) (size align : Nat) :
    Except AErr (List Piece) :=
  if addr.toNat % align != 0 then .error (.fault (accFault 0x0A 0 addr k spc size))
  else s.pieces a lane k spc addr size

/-- A TLB of `cap` entries keeps one more; the oldest leaves first (R218). -/
def keepEntry (l : List TlbEntry) (cap : Nat) (t : TlbEntry) : List TlbEntry :=
  if l.contains t then l
  else
    let mine := l.filter fun u => u.core == t.core
    (if mine.length ≥ cap then (match mine with
      | old :: _ => l.erase old
      | [] => l) else l) ++ [t]
/-- Keep what a translation found in the core's TLB of 1,024 entries and its cluster's of 32,768 (R218). -/
def State.fillTlb (s : State) (ps : List Piece) : State :=
  ps.foldl (fun s p =>
    match p.tlb with
    | none => s
    | some t =>
      { s with
        tlb := keepEntry s.tlb 1024 t
        tlb2 := keepEntry s.tlb2 32768 { t with core := clusterOfCore t.core } }) s

end Sys2Proof.Machine
end

