-- ==== Sys2Proof/Machine/Slots.lean ====
section
/-! DEFINITION. The geometry of walk slots and the refusal of writes into bound slots (spec/16_walk_engine.md R301-R303, R319). -/

namespace Sys2Proof.Machine

/-- Tile rows or columns of their code (R301). -/
def tileDim (code : Nat) : Nat :=
  match code with
  | 0 => 32
  | 1 => 64
  | _ => 128

def WalkRec.tmRows (r : WalkRec) : Nat := tileDim r.tm
def WalkRec.tnCols (r : WalkRec) : Nat := tileDim r.tn
/-- Elements of a k-step: 64 for E2M1, else 32 (R302). -/
def WalkRec.tk (r : WalkRec) : Nat := if r.afmt = 3 then 64 else 32
def WalkRec.ti (r : WalkRec) : Nat := ceilDiv r.m r.tmRows
def WalkRec.tj (r : WalkRec) : Nat := ceilDiv r.n r.tnCols
def WalkRec.ks (r : WalkRec) : Nat := ceilDiv r.k r.tk
/-- The tiles of the walk. -/
def WalkRec.tiles (r : WalkRec) : Nat := if r.order = 4 then r.tln else r.ti * r.tj

def roundUp64 (n : Nat) : Nat := (n + 63) / 64 * 64
/-- Bytes of an operand slot before rounding, by format and rows (R303). -/
def operandBytes (fmt rows : Nat) : Nat :=
  match fmt with
  | 0 => 64 * rows
  | 1 => 33 * rows
  | 2 => 33 * rows
  | 3 => 34 * rows
  | _ => 14 * rows
def WalkRec.aSize (r : WalkRec) : Nat := roundUp64 (operandBytes r.afmt r.tmRows)
def WalkRec.bSize (r : WalkRec) : Nat := roundUp64 (operandBytes r.bfmt r.tnCols)
def WalkRec.cSize (r : WalkRec) : Nat := roundUp64 (4 * r.tmRows * r.tnCols)
/-- The scratchpad offset of a tagged address (R202). -/
def padOffset (x : DWord) : Nat := x.toNat % 2 ^ 60

/-! ### Walk order (R308) -/

/-- Cells of [x0, x0 + n) below the limit. -/
def within (lim x0 n : Nat) : Nat := min (lim - x0) n
/-- The t-th cell of a square of side 2^b at (i0, j0) in Morton order, counting only those with i < ti and j < tj. -/
def mortonAt (ti tj : Nat) : Nat → Nat → Nat → Nat → Nat × Nat
  | 0, i0, j0, _ => (i0, j0)
  | b + 1, i0, j0, t =>
    let h := 2 ^ b
    let cnt := fun (i j : Nat) => within ti i h * within tj j h
    let c0 := cnt i0 j0
    let c1 := c0 + cnt i0 (j0 + h)
    let c2 := c1 + cnt (i0 + h) j0
    if t < c0 then mortonAt ti tj b i0 j0 t
    else if t < c1 then mortonAt ti tj b i0 (j0 + h) (t - c0)
    else if t < c2 then mortonAt ti tj b (i0 + h) j0 (t - c1)
    else mortonAt ti tj b (i0 + h) (j0 + h) (t - c2)
/-- The t-th tile (i, j) of an order that needs no list. -/
def WalkRec.tileAt (r : WalkRec) (t : Nat) : Nat × Nat :=
  match r.order with
  | 0 => (t / r.tj, t % r.tj)
  | 1 => (t % r.ti, t / r.ti)
  | 2 => (t / r.tj, if t / r.tj % 2 = 1 then r.tj - 1 - t % r.tj else t % r.tj)
  | _ => mortonAt r.ti r.tj 17 0 0 t
/-- The tile of a walk, from its list as far as it has been read. -/
def Walk.tile? (w : Walk) (t : Nat) : Option (Nat × Nat) :=
  if w.rc.order = 4 then (w.list.find? (·.1 == t)).map fun e => (e.2 % 2 ^ 16, e.2 / 2 ^ 16) else some (w.rc.tileAt t)

/-! ### Slots -/

/-- A slot that holds an operand, or waits for it (R309). -/
def OpSlot.holds (x : OpSlot) (idx k : Nat) : Bool := x.st != .free && x.idx == idx && x.k == k
def slotOf (l : List OpSlot) (idx k : Nat) : Option Nat := (List.range l.length).find? fun n => match l[n]? with
  | some x => x.holds idx k
  | none => false
/-- Pairs of the step sequence, and the tile and k-step of one (R309). -/
def Walk.total (w : Walk) : Nat := w.rc.tiles * w.rc.ks
def Walk.pairOf (w : Walk) (n : Nat) : Nat × Nat := (n / w.rc.ks, n % w.rc.ks)
/-- An operand slot is READY or INUSE. -/
def slotReadyFor (l : List OpSlot) (idx k : Nat) : Bool := l.any fun x => x.holds idx k && x.st != .needed
/-- The accumulator slot of tile t lets its next k-step begin (R309, R313). -/
def Walk.accReady (w : Walk) (t k : Nat) : Bool :=
  match w.cslots[t % w.rc.csn]? with
  | some x => if k = 0 then x.st == .free else x.st == .accumulating && x.tile == t
  | none => false

/-- What keeps the next k-step from beginning (R326): 2 the accumulator, 0 A, 1 B, 3 nothing but the token or the array. -/
def Walk.cause (w : Walk) : Option Nat :=
  if w.st != .running || w.busy || decide (w.next ≥ w.total) then none
  else
    let (t, k) := w.pairOf w.next
    match w.tile? t with
    | none => some 0
    | some (i, j) =>
      if !w.accReady t k then some 2
      else if !slotReadyFor w.aslots i k then some 0
      else if !slotReadyFor w.bslots j k then some 1
      else some 3
/-- Cycles pass for a walk: those in which its next k-step cannot begin count, in the counter of the first cause; `free` says that its cluster holds
a power token or can take one (R326). -/
def Walk.charge (w : Walk) (n : Nat) (free : Bool) : Walk :=
  match w.cause with
  | some 0 => { w with waitA := w.waitA + n }
  | some 1 => { w with waitB := w.waitB + n }
  | some 2 => { w with waitC := w.waitC + n }
  | some _ => if free then w else { w with waitTok := w.waitTok + n }
  | none => w

/-- The cluster of a core holds a power token, or takes one of its die's that is free (R307, R415). -/
def State.tokenFree (s : State) (core : Nat) : Bool :=
  s.holders.contains (clusterOfCore core) ||
    decide ((s.holders.filter fun k => k / 13 == dieOfCore core).length < (s.die (dieOfCore core)).tokens)

/-- [x, x + n) meets [y, y + m). -/
def meets (x n y m : Nat) : Bool := x < y + m && y < x + n

/-- Some slot of a list in one of the refusing states overlaps the bytes. -/
def slotsMeet {α : Type} (busy : α → Bool) (base size : Nat) (slots : List α) (off len : Nat) : Bool :=
  (List.range slots.length).any fun i =>
    match slots[i]? with
    | some x => busy x && meets (base + i * size) size off len
    | none => false

def OpSlot.bound (x : OpSlot) : Bool := x.st == .ready || x.st == .inuse
def AccSlot.bound (x : AccSlot) : Bool := x.st == .accumulating || x.st == .full
/-- The walk holds a context; `live` also covers a restored walk that waits to resume (R365): its slots hold operands. -/
def Walk.onCtx (w : Walk) : Bool := w.st == .running || w.st == .cancelling
def Walk.live (w : Walk) : Bool := w.onCtx || w.again.isSome
/-- The walk is queued or running (R273, R278, R320). -/
def Walk.pending (w : Walk) : Bool := w.st == .queued || w.live

/-- The operand slots with those NEEDED that a READY names which the context has not yet accepted: from the `send` on, nothing written
there may reach the k-steps that use the slot (R338). -/
def readySent (input : List Msg) (isB : Bool) (l : List OpSlot) : List OpSlot :=
  l.zipIdx.map fun e => if e.1.st == .needed && input.any (fun v => v.val.toNat / 2 ^ 60 == 4 && v.val.getLsbD 58 == isB &&
    v.val.toNat / 2 ^ 16 % 256 == e.2) then { e.1 with st := .ready } else e.1
/-- A walk refuses a write of these bytes of its mill's allocation: some true for an accumulator slot (R319). -/
def Walk.refuses (w : Walk) (input : List Msg) (off len : Nat) : Option Bool :=
  if !w.live then none
  else if slotsMeet OpSlot.bound (padOffset w.rc.aslot) w.rc.aSize (readySent input false w.aslots) off len ||
      slotsMeet OpSlot.bound (padOffset w.rc.bslot) w.rc.bSize (readySent input true w.bslots) off len then some false
  else if slotsMeet AccSlot.bound (padOffset w.rc.cslot) w.rc.cSize w.cslots off len then some true
  else none

/-- The bound-slot subcode of a write into a mill's allocation: an operand slot 0 (thread) or 1 (flume), an accumulator
slot 2 (R319). -/
def State.boundSub (s : State) (uid off len : Nat) (flume : Bool) : Option Nat :=
  match s.mill? uid with
  | none => none
  | some m =>
    let l := (m.ctxs.map fun c => c.walks.filterMap fun w => w.refuses c.input off len).flatten
    if l.contains false then some (if flume then 1 else 0) else if l.contains true then some 2 else none

/-- The bound-slot subcode of a write to pieces: only scratchpad is checked. -/
def State.boundPieces (s : State) (ps : List Piece) (flume : Bool) : Option Nat :=
  (ps.filterMap fun p =>
    if p.key < 2 ^ 56 then none
    else s.boundSub ((p.key - 2 ^ 56) / 2 ^ 24) ((p.key - 2 ^ 56) % 2 ^ 24) p.len flume).head?

end Sys2Proof.Machine
end

