-- ==== Sys2Proof/Machine/LinkOut.lean ====
section
/-! DEFINITION. Sending on the device link: the choice of a port, the flits, credits and retention (spec/23 R385-R390). -/

namespace Sys2Proof.Machine

/-- A flit of zeros but for its VC and TYPE (R4, R389). -/
def flitBlank (vc typ : Nat) : Flit where
  vc := vc
  typ := typ
  seq := 0
  ack := 0
  credit := 0
  srcNode := 0
  dstNode := 0
  tag := 0
  addr := 0
  size := 0
  opc := 0
  srcPart := 0
  status := 0
  nakSeq := 0
  opnd0 := 0
  opnd1 := 0
  mask := 0
  data := List.replicate 128 0
  rsv := List.replicate 58 0
  crc := 0

/-- The ECMA-182 polynomial, one bit and one byte of the division, and a flit's CRC (R388) (DESIGN CHOICE, log 48). -/
def crcPoly : BitVec 64 := 0x42F0E1EBA9EA3693
def crcBit (c : BitVec 64) : BitVec 64 := if c.getLsbD 63 then (c <<< 1) ^^^ crcPoly else c <<< 1
def crcByte (c : BitVec 64) (b : Byte) : BitVec 64 :=
  (List.range 8).foldl (fun c _ => crcBit c) (c ^^^ ((if Config.crcReflect then b.reverse else b).setWidth 64 <<< 56))
def crc64 (bs : List Byte) : BitVec 64 :=
  let r := bs.foldl crcByte Config.crcInit
  (if Config.crcReflect then r.reverse else r) ^^^ Config.crcFinal
/-- The bytes 0x00-0xF7 of a flit, which its CRC covers, the reserved ones as they are (R388, R389). -/
def flitBody (f : Flit) : List Byte :=
  bytesOfNat 1 f.vc ++ bytesOfNat 1 f.typ ++ bytesOfNat 2 f.seq ++ bytesOfNat 2 f.ack ++ bytesOfNat 2 f.credit ++
  bytesOfNat 2 f.srcNode ++ bytesOfNat 2 f.dstNode ++ bytesOfNat 4 f.tag ++ bytesOfNat 8 f.addr ++ bytesOfNat 1 f.size ++
  bytesOfNat 1 f.opc ++ bytesOfNat 1 f.srcPart ++ bytesOfNat 1 f.status ++ bytesOfNat 2 f.nakSeq ++ (f.rsv ++ List.replicate 2 0).take 2 ++
  bytesOfNat 8 f.opnd0.toNat ++ bytesOfNat 8 f.opnd1.toNat ++ bytesOfNat 16 f.mask.toNat ++ (f.data ++ List.replicate 128 0).take 128 ++
  (f.rsv.drop 2 ++ List.replicate 56 0).take 56

/-- Four counts of freed buffers in one field (R388). -/
def packCredits (l : List Nat) : Nat :=
  (List.range 4).foldl (fun n i => n + (min (l.getD i 0) 15) * 16 ^ i) 0

/-- Put a flit on a port: the next sequence number, the ACK and CREDIT fields, and the CRC (R388); it is kept until an ACK
covers it (R390). -/
def LinkPort.transmit (p : LinkPort) (f : Flit) : LinkPort :=
  let seq := (p.txSeq + 1) % 4096
  let f := { f with seq := seq, ack := (p.rxNext + 4095) % 4096, credit := packCredits p.freed }
  let f := { f with crc := crc64 (flitBody f) }
  { p with txSeq := seq, unacked := p.unacked ++ [f], freed := [0, 0, 0, 0] }

/-- Link control waits on nothing; a flit of another VC needs a port that is up and a credit, and at most 1,024 flits are unacknowledged (R390). -/
def LinkPort.canSend (p : LinkPort) (f : Flit) : Bool :=
  p.unacked.length < 1024 && (f.vc == 3 || (p.st == 0 && p.credits.getD f.vc 0 != 0))

/-- An access of one line of one device, which goes in issue order on its port (R385). -/
def sameLine (f g : Flit) : Bool :=
  (f.vc == 0 || f.vc == 2) && (g.vc == 0 || g.vc == 2) && f.dstNode == g.dstNode && f.addr / 128 == g.addr / 128
/-- The first flit of a queue that may go now: none passes an earlier one of its VC or of its line. -/
def LinkPort.nextFlit (p : LinkPort) : List Flit → List Flit → Option Flit
  | _, [] => none
  | held, f :: l =>
    if p.canSend f && !(held.any fun g => g.vc == f.vc || sameLine f g) then some f else p.nextFlit (held ++ [f]) l
/-- Send what may be sent, each VC and each line in order, by fuel. -/
def LinkPort.pump : Nat → LinkPort → LinkPort
  | 0, p => p
  | n + 1, p =>
    match p.nextFlit [] p.sendQ with
    | none => p
    | some f =>
      let q := { p with
        sendQ := p.sendQ.erase f
        credits := if f.vc = 3 then p.credits else setAt p.credits f.vc (p.credits.getD f.vc 0 - 1) }
      LinkPort.pump n (q.transmit f)

def State.modPort (s : State) (i : Nat) (f : LinkPort → LinkPort) : State := { s with ports := modAt s.ports i f }
def State.port (s : State) (i : Nat) : LinkPort := s.ports.getD i LinkPort.start

/-- The port that carries the accesses to one line of one device: fixed by both, the next port that is not down (R385, R390);
which ports reach which device the spec does not give (DESIGN CHOICE, log 10). -/
def State.portFor (s : State) (node line : Nat) : Option Nat :=
  ((List.range 18).map fun i => (node + line + i) % 18).find? fun i => (s.port i).st != 2

/-- Queue a flit on a port and send what may go. -/
def State.sendOn (s : State) (i : Nat) (f : Flit) : State :=
  s.modPort i fun p => LinkPort.pump (p.sendQ.length + 1) { p with sendQ := p.sendQ ++ [f] }

/-- The device's node number (R385, R394). -/
def State.nodeId (s : State) : Nat := s.board.nodeId.toNat % 4096

/-- Split [pa, pa + n) at 128-byte lines: (physical address, offset, length), by fuel (R389). -/
def splitLines : Nat → Nat → Nat → Nat → List (Nat × Nat × Nat)
  | 0, _, _, _ => []
  | fuel + 1, pa, off, n =>
    if n = 0 then []
    else
      let m := min n (128 - pa % 128)
      (pa, off, m) :: splitLines fuel (pa + m) (off + m) (n - m)

/-- A transaction tag, never one in use. -/
def State.newTag (s : State) : Nat × State := (s.fresh % 2 ^ 32, { s with fresh := s.fresh + 1 })

/-- The cause of a posted fault by a transaction's outcome: a response's STATUS 1 refused, 2 uncorrectable error; 3 stands for no
answer (R353, R386, R390). -/
def causeOf (st : Nat) : Nat := if st = 3 then 2 else if st = 2 then 0 else 1
/-- A transaction fails: its access is at fault, and an instruction that waits for a response has one (R386). -/
def State.failTxn (s : State) (t : Txn) (st : Nat) (returns : Bool) : State :=
  let s := match t.posted with
    | some id => s.modPosted id fun p => { p with bad := some (causeOf st) }
    | none => s
  let rest := s.txns.filter (·.tag != t.tag)
  { s with txns := if returns then rest ++ [{ t with resp := some (st, []) }] else rest }

/-- Send one request or posted flit for a transaction. With no port left, or to the device itself, the access fails at once
with the status given (R386, R390): 1 refused, 3 no port. -/
def State.request (s : State) (t : Txn) (node line : Nat) (f : Flit) : State :=
  let f := { f with srcNode := s.nodeId, dstNode := node, tag := t.tag }
  if node = s.nodeId then s.failTxn t 1 (f.vc == 0)
  else
    match s.portFor node line with
    | none => s.failTxn t 3 (f.vc == 0)
    | some i => { s with txns := s.txns ++ [t] }.sendOn i f

/-- The partition an agent's mill runs in. -/
def State.partOf (s : State) (uid : Nat) : Nat :=
  match s.gridOfMill uid with
  | some g => g.part
  | none => 0
def State.partOfAgent (s : State) (a : Agent) : Nat :=
  match a.mill with
  | some uid => s.partOf uid
  | none => 0

/-- Ask a device for bytes of one line (R389). -/
def State.remoteRead (s : State) (owner : Option (Agent × Nat)) (posted mill : Option Nat)
    (pc va : DWord) (node pa len part : Nat) : State :=
  let (tag, s) := s.newTag
  s.request ⟨tag, owner, mill, pc, va, len, posted, none⟩ node (pa / 128)
    { flitBlank 0 1 with addr := pa, size := len - 1, srcPart := part }

/-! ### Inbound writes (R391, R392) -/

/-- Send a response to a device; one that no port can carry is lost. -/
def State.respond (s : State) (node line : Nat) (f : Flit) : State :=
  match s.portFor node line with
  | none => s
  | some i => s.sendOn i { f with srcNode := s.nodeId, dstNode := node }
/-- The acknowledgement of a WRITE or REDUCTION (R389). -/
def State.acknowledge (s : State) (node tag st : Nat) : State :=
  s.respond node tag { flitBlank 1 3 with tag := tag, status := st }
/-- An inbox write performs in its mill's scratchpad, or is refused: a bound slot (R319), a finished mill, a word with an
error mark that it would cover in part (R420). -/
def State.landOne (s : State) (e : InWrite) (m : Mill) : State :=
  let s := { s with inbox := s.inbox.filter (·.id != e.id) }
  if m.st == .draining || m.st == .freed || e.runs.any (fun r => (s.boundSub m.uid r.1 r.2.length true).isSome) then
    s.acknowledge e.node e.tag 1
  else if e.runs.any fun r => s.writeBlocked (padKey m.uid r.1) r.2.length then s.acknowledge e.node e.tag 2
  else (e.runs.foldl (fun s r => s.settleBytes 0 (padKey m.uid r.1) r.2 none) s).acknowledge e.node e.tag 0
/-- The mill is on its core and open. -/
def Mill.takesIn (m : Mill) : Bool := m.st != .evicted && !m.closed
/-- Every inbox write whose mill is open performs, in order of arrival (R367). -/
def State.landInbox (s : State) : State :=
  s.inbox.foldl (fun s e => match s.inboxMill e with
    | some m => if m.takesIn then s.landOne e m else s
    | none => s) s

end Sys2Proof.Machine
end

