-- ==== Sys2Proof/Machine/Look.lean ====
section
/-! DEFINITION. What an instruction may read of the sluice, the flume and the walks at one moment between its issue and its completion:
the state of a port or a pattern (spec/13_sluice_ports_and_patterns.md R265-R267, R279), a context's counter
(spec/14_flume_copy_engine.md R297), a value of a walk (spec/16_walk_engine.md R326). -/

namespace Sys2Proof.Machine

/-! ### Ports and patterns -/

/-- The fields of a pattern entry (R265). -/
def patPorts (e : BitVec 128) : BitVec 32 := e.extractLsb' 0 32
def patPrio (e : BitVec 128) : Nat := (e.extractLsb' 32 4).toNat
def patMaxi (e : BitVec 128) : Nat := (e.extractLsb' 36 4).toNat
def patEn (e : BitVec 128) : Bool := e.getLsbD 40
def patPc (e : BitVec 128) : DWord := e.extractLsb' 64 64
/-- Port numbers of an entry, increasing. -/
def patPortList (e : BitVec 128) : List Nat := (List.range 32).filter fun i => (patPorts e).getLsbD i
def Wheel.freeHandler (w : Wheel) : Bool := w.handler && w.inst.isNone
/-- A pattern is satisfiable (R267). -/
def Mill.satisfiable (m : Mill) (n : Nat) : Bool :=
  match m.pats[n]? with
  | none => false
  | some p =>
    patEn p.entry && (patPortList p.entry).all (fun i => match m.ports[i]? with
      | some q => !q.fifo.isEmpty
      | none => false) &&
    decide (p.live < patMaxi p.entry + 1) && m.wheels.any Wheel.freeHandler
def natOfBool (b : Bool) : Nat := if b then 1 else 0
/-- The port word of `portst` (R279). -/
def Port.word (p : Port) : Nat :=
  p.drops.toNat * 2 ^ 32 + natOfBool p.sticky * 2 ^ 11 + natOfBool p.gang * 2 ^ 10 + natOfBool p.count * 2 ^ 9 +
    (p.depth - 1) * 2 ^ 5 + p.fifo.length
/-- The pattern word of `portst.pat`. -/
def Mill.patWord (m : Mill) (n : Nat) : Nat :=
  match m.pats[n]? with
  | some p =>
    (patPorts p.entry).toNat * 2 ^ 32 + patMaxi p.entry * 2 ^ 20 + patPrio p.entry * 2 ^ 16 + p.age * 2 ^ 7 +
      natOfBool (m.satisfiable n) * 2 ^ 6 + natOfBool (patEn p.entry) * 2 ^ 5 + p.live
  | none => 0

/-! ### Counters and walks -/

/-- The counter of a context (R242). -/
def Mill.timelineOf (m : Mill) (c : Nat) : Nat :=
  if c = 0 then m.flume.timeline else match m.ctxs[c - 1]? with
    | some x => x.timeline
    | none => 0
def Mill.ctx (m : Mill) (c : Nat) : WalkCtx := m.ctxs.getD c WalkCtx.start
/-- The walk that `wstat` shows: the one on the context, else the last that ended (R326). -/
def WalkCtx.shown (x : WalkCtx) : Option Walk :=
  match x.walks.find? Walk.live with
  | some w => some w
  | none => x.walks.find? fun w => w.st == .ended || w.st == .halted
def WalkState.code : WalkState → Nat
  | .queued => 1
  | .running => 2
  | .cancelling => 3
  | .ended => 4
  | .halted => 5
/-- The value of a selector. Selector 5 without a next pair shows the last, and i = j = 0 for a tile whose list entry has not been read (DEDUCED,
log 34). -/
def Walk.stat (w : Walk) (sel : Nat) : Nat :=
  match sel with
  | 0 => w.waitA
  | 1 => w.waitB
  | 2 => w.waitC
  | 3 => w.waitTok
  | 4 => w.acks
  | 5 =>
    let (t, k) := w.pairOf (min w.next (w.total - 1))
    let (i, j) := (w.tile? t).getD (0, 0)
    i % 2 ^ 16 * 2 ^ 32 + j % 2 ^ 16 * 2 ^ 16 + k
  | _ =>
    w.num % 2 ^ 32 + w.st.code * 2 ^ 32 + min 255 ((w.aslots ++ w.bslots).filter (·.st == .needed)).length * 2 ^ 40 +
      min 255 (w.cslots.filter (·.st == .done)).length * 2 ^ 48

/-! ### Reading -/

/-- The value as it stands. -/
def State.lookVal (s : State) (a : Agent) (k : Look) : Nat :=
  match a.mill.bind s.mill?, k with
  | none, _ => 0
  | some m, .port n _ => match m.ports[n]? with
    | some p => p.word
    | none => 0
  | some m, .pattern n => m.patWord n
  | some m, .counter c => m.timelineOf c
  | some m, .walk c sel => match (m.ctx c).shown with
    | some w => w.stat sel
    | none => 0
/-- `.clr` clears the port's DROPS and STICKY as it reads (R279). -/
def State.lookClear (s : State) (a : Agent) (k : Look) : State :=
  match k, a.mill with
  | .port n (some _), some uid => s.modMill uid fun m =>
      { m with ports := modAt m.ports n fun p => { p with drops := 0, sticky := false } }
  | _, _ => s
/-- The instruction with the value in its pair. -/
def LongOp.seen (o : LongOp) (v : Nat) : LongOp :=
  { o with look := none, writes := (o.writes.map Prod.fst).zip [BitVec.ofNat 32 v, BitVec.ofNat 32 (v / 2 ^ 32)] }
/-- A lane's instruction in flight reads now what it is to read. -/
def State.lookNow (s : State) (a : Agent) (lane : Nat) (o : LongOp) (k : Look) : State :=
  (s.lookClear a k).modThread a lane fun t =>
    { t with long := t.long.map fun q => if q.id == o.id then q.seen (s.lookVal a k) else q }
/-- The lanes before this one in which the same instruction has yet to clear the same port do so first (R279). -/
def State.lookBefore (s : State) (a : Agent) (lane : Nat) (k : Look) : State :=
  (List.range lane).foldl (fun s l => match (s.thread a l).long.find? (fun q => q.look == some k) with
    | some q => s.lookNow a l q k
    | none => s) s
/-- What an instruction in flight reads before it completes. -/
def State.lookAll (s : State) (a : Agent) (lane : Nat) (o : LongOp) : State :=
  match o.look with
  | none => s
  | some (.port n (some g)) => (s.lookBefore a lane (.port n (some g))).lookNow a lane o (.port n (some g))
  | some k => s.lookNow a lane o k

end Sys2Proof.Machine
end

