-- ==== Sys2Proof/Machine/Ops.lean ====
section
/-! DEFINITION. The named operations over registers and memory that instructions share: uniform registers, reads and posted
writes, spill and fill, completion of long-latency work, taking a trap and returning from one
(spec/02 R13-R31; spec/06 R103-R115, R433; spec/20 R349-R354). -/

namespace Sys2Proof.Machine

/-! ### Uniform registers (R13, R161) -/

/-- A write by wheel `w`: its own reads see it at once, and a wheel that the choice holds back reads on what it read before (R163). -/
def Mill.putUni (m : Mill) (w n : Nat) (v : Word) (clk : Nat) (late : Nat → Bool) : Mill :=
  let held := m.behind.filterMap fun e =>
    if e.reg ≠ n then some e else if e.whl = w then none else some { e with next := e.next ++ [(v, clk)] }
  let more := (List.range m.wheels.length).filter fun u => u != w && late u && !(m.behind.any fun e => e.reg == n && e.whl == u)
  { m with
    sregs := sput 0 m.sregs n v
    uniPoison := m.uniPoison.filter (· != n)
    behind := held ++ more.map fun u => ⟨u, n, sget 0 m.sregs n, [(v, clk)]⟩ }
/-- s0-s15 of a front-end core's thread are its own; the others are its mill's, as the wheel sees them (R163). -/
def State.uniGet (s : State) (a : Agent) (lane n : Nat) : Word :=
  match a.mill with
  | none => sget 0 (s.thread a lane).uni n
  | some uid => match s.mill? uid with
    | some m => match m.behind.find? fun e => e.whl == a.wheelIdx && e.reg == n with
      | some e => e.old
      | none => sget 0 m.sregs n
    | none => 0
/-- A whole write clears the register's error mark (R420). -/
def State.uniPut (s : State) (a : Agent) (lane n : Nat) (w : Word) : State :=
  match a.mill with
  | none => s.modThread a lane fun t => { t with uni := sput 0 t.uni n w, uniPoison := t.uniPoison.filter (· != n) }
  | some uid => s.modMill uid fun m => m.putUni a.wheelIdx n w s.clk fun u => s.pick 4 (32 * n + u) != 0
/-- A uniform register carries an error mark (R420). -/
def State.uniMarked (s : State) (a : Agent) (lane n : Nat) : Bool :=
  match a.mill with
  | none => (s.thread a lane).uniPoison.contains n
  | some uid => match s.mill? uid with
    | some m => m.uniPoison.contains n
    | none => false
/-- The claim on a uniform register, the index of the wheel that holds it plus 1; 0 for none (R161). -/
def State.claimOf (s : State) (a : Agent) (n : Nat) : Nat :=
  match a.mill with
  | none => a.wheelIdx + 1
  | some uid => match s.mill? uid with
    | some m => sget 0 m.claims n
    | none => 0
def State.hasClaim (s : State) (a : Agent) (n : Nat) : Bool := s.claimOf a n == a.wheelIdx + 1
/-- A long-latency write to a uniform register is in flight in the wheel (R162). -/
def State.uniPending (s : State) (a : Agent) (n : Nat) : Bool := (s.threads a).any fun t => t.pending (.uni n)

/-! ### Cores and clocks -/

/-- The agent's core; the front-end cores follow the others. -/
def State.coreNo (s : State) (a : Agent) : Nat :=
  match a with
  | .fe n => Config.nCores + n
  | _ => match s.coreOf a with
    | some c => c
    | none => 0
/-- `clk` of the agent's core (R20). -/
def State.clockOf (s : State) (a : Agent) : DWord :=
  coreClk (s.coreNo a) (match a with
    | .fe _ => s.feClk
    | _ => s.clk)

/-! ### Reads -/

/-- Own accesses to SC pages, of those numbered below `since`, that have not performed at package scope (R238). -/
def State.scBusyTo (s : State) (a : Agent) (lane since : Nat) : Bool :=
  s.posted.any fun p => p.sc && p.owner.same a && p.lane == lane && decide (p.id < since)
def State.scBusy (s : State) (a : Agent) (lane : Nat) : Bool := s.scBusyTo a lane s.fresh

/-- The response that a read of another device waits for, if it is back: a refused one reads zeros (R386). -/
def State.remoteResp (s : State) (a : Agent) (lane : Nat) (va len : Nat) : Option (List Byte) :=
  match s.txns.find? fun t => t.owner == some (a, lane) && t.va == BitVec.ofNat 64 va && t.size == len && t.resp.isSome with
  | some t => match t.resp with
    | some (0, bs) => some bs
    | some _ => some (List.replicate len 0)
    | none => none
  | none => none

/-- An own load or memory-side operation of the piece has not performed, or the die has still to have what it left: a read now would pass
it (R230). -/
def State.ownPending (s : State) (a : Agent) (lane : Nat) (p : Piece) : Bool :=
  s.posted.any fun q => q.owner.same a && q.lane == lane && (q.rd != 0 || q.red.isSome || s.arriving q) && q.overlaps p.key p.len
/-- A piece that is read at its home, on another die (R212, R238, R380). -/
def State.readAtHome (s : State) (a : Agent) (p : Piece) : Bool :=
  match s.dieOf a, homeOf p.key with
  | some d, some h => d != h && (p.sc && !a.engine || !cachedLine p.key)
  | _, _ => false

/-- Read a piece of memory as the thread sees it now (R32, R124, R228, R238, R380). `va` is the access's address. -/
def State.readPiece (s : State) (a : Agent) (lane : Nat) (va : Nat) (p : Piece) : Except AErr (List Byte) :=
  if p.tier = 3 then
    let part := fun (t : Nat × Nat × Nat) =>
      match s.remoteResp a lane (va + p.off + t.2.1) t.2.2 with
      | some bs => (Except.ok bs : Except AErr (List Byte))
      | none => .error (.remote (va + p.off + t.2.1) t.2.2 p.node t.1)
    ((splitLines (p.len / 128 + 2) p.pa 0 p.len).mapM part).map List.flatten
  else if s.ownPending a lane p || (p.sc && !a.engine && s.scBusy a lane) then .error .stall
  else if s.readAtHome a p then
    match s.remoteResp a lane (va + p.off) p.len with
    | some bs => .ok bs
    | none => .error (.atHome (va + p.off) p.len p.key p.kid (p.sc && !a.engine))
  else if p.sc && !a.engine then
    .ok (s.viewBytes ⟨none, none, none, none⟩ p.kid p.key p.len)
  else
    let r := s.readerOf a lane
    match ([p.key, p.key + (p.len - 1)].find? fun k => s.needsFetch r.die p.kid k) with
    | some k => .error (.fetchLine (lineOf k) p.kid)
    | none => .ok (s.viewBytes r p.kid p.key p.len)
/-- The writes that a read of pieces returns now are known to its thread (R234). -/
def State.readPieces (s : State) (a : Agent) (lane : Nat) (set : AccSet) (ps : List Piece) : State :=
  ps.foldl (fun s p =>
    if p.tier = 3 then s
    else s.readBy (s.sourcesOf (if p.sc then ⟨none, none, none, none⟩ else s.readerOf a lane) s.fresh p.key p.len)
      (a, lane, some (if p.tier ≥ 2 then .ho else set))) s

/-- A marked word of a line as a die's L2 holds it lies in [key, key + n) (R420). -/
def State.copyMarked (s : State) (die : Option Nat) (kid key n : Nat) : Bool :=
  match die with
  | some d => cachedLine key && (s.die d).marks.any fun e => (List.range n).any fun i =>
      e.1 == copyKey (lineOf (key + i)) kid && e.2 == (key + i) % 128 / 8
  | none => false
/-- One of its core's L1 holds a marked word of the line (R212, R420). -/
def State.l1Marked (s : State) (a : Agent) (kid key n : Nat) : Bool :=
  match s.coreOf a with
  | some c => cachedLine key && !a.engine && s.pick 10 (lineOf key) == 0 && (s.die (dieOfCore c)).l1Marks.any fun e => e.1 == c && (List.range n).any fun i =>
      e.2.1 == copyKey (lineOf (key + i)) kid && e.2.2 == (key + i) % 128 / 8
  | none => false
/-- An uncorrectable-error mark lies in the pieces as a die reads them, or as they lie at their home (R318, R420). -/
def State.poisonedIn (s : State) (ps : List Piece) (die : Option Nat := none) : Bool :=
  ps.any fun p => p.tier != 3 && (s.poisoned p.key p.len || s.copyMarked die p.kid p.key p.len ||
    die.isNone && !(s.homeMarks p.key p.len).isEmpty)
/-- A load meets its L1's marks too. -/
def State.poisonedFor (s : State) (a : Agent) (ps : List Piece) : Bool :=
  s.poisonedIn ps (s.dieOf a) || ps.any fun p => p.tier ≤ 1 && s.l1Marked a p.kid p.key p.len

/-- Read all the pieces of an access; a marked word is the poison fault, subcode 1 (R318). -/
def State.readAll (s : State) (a : Agent) (lane : Nat) (k : AccKind) (spc : Space) (va : DWord) (size : Nat) (ps : List Piece) :
    Except AErr (List Byte) :=
  if s.poisonedFor a ps then .error (.fault (accFault 0x0C 1 va k spc size))
  else (ps.mapM fun p => s.readPiece a lane va.toNat p).map List.flatten

/-- The monitors count the lines a read brings from the memory side; a read that hits a cache, by choice, does not count, and the model
holds no L1 or L2 copy of a die's own lines (R414; DEDUCED, log 11). -/
def State.countReads (s : State) (ps : List Piece) : State :=
  if s.parts.all fun p => p.monitors.isEmpty then s
  else ps.foldl (fun s p => ((List.range p.len).map fun i => (p.key + i) / 64).dedup.foldl (fun s ln =>
    if cachedLine p.key && s.pick 6 ln != 0 then s else s.monitor (ln * 64) p.kid false) s) s
/-- The lines that the fetch of an instruction brings count too, and its translation stays in the TLBs (R218, R219). -/
def State.countFetch (s : State) (a : Agent) (lane : Nat) (pc : DWord) (n : Nat) : State :=
  match a, s.pieces a lane .fetch .glob pc n with
  | .buf _ _, _ => s
  | _, .ok ps => (s.countReads ps).fillTlb ps
  | _, .error _ => s

/-- What the fetch of a transfer's target has translated stays in the TLBs (R218, R219). -/
def State.keepFetch (s : State) (a : Agent) (lane : Nat) (pc : DWord) : State :=
  match s.pieces a lane .fetch .glob pc 4 with
  | .ok ps => s.fillTlb ps
  | .error _ => s

/-- Check, translate and read (R120, R121): the pieces and the bytes. -/
def State.load (s : State) (a : Agent) (lane : Nat) (k : AccKind) (spc : Space) (va : DWord) (size align : Nat) :
    Except AErr (List Piece × List Byte) := do
  let ps ← s.checked a lane k spc va size align
  let bs ← s.readAll a lane k spc va size ps
  pure (ps, bs)

/-! ### Posted writes (R123, R228) -/

/-- What a posted access is made with; `grp` names the instruction or element it belongs to, `whole` the bytes of the write that it is a
part of, where they are more than its own. -/
structure PostInfo where
  a     : Agent
  lane  : Nat
  pc    : DWord
  set   : AccSet
  acc   : BitVec 32
  grp   : Nat
  whole : Option (Nat × Nat)
  deriving DecidableEq, Repr
/-- The accesses of one instruction or element that starts now. -/
def State.postInfo (s : State) (a : Agent) (lane : Nat) (pc : DWord) (set : AccSet) (acc : BitVec 32) : PostInfo :=
  ⟨a, lane, pc, set, acc, s.fresh, none⟩

/-- The 64-byte pond granule of a write counts for the engagement whose agent makes it (R413). -/
def State.markGranule (s : State) (a : Agent) (p : Piece) (rd : Nat) : List Partition :=
  if rd != 0 || p.key < 2 ^ 53 || 2 ^ 53 + 2 ^ 30 ≤ p.key then s.parts
  else match a.mill.bind s.gridOfMill with
    | none => s.parts
    | some g => modAt s.parts g.part fun q => { q with engs := q.engs.map fun e =>
        if e.num = g.lr.eng then { e with granules := insertNat ((p.key - 2 ^ 53) / 64) e.granules } else e }
/-- Record one posted access: bytes, or a memory-side operation, or a load of `rd` bytes. -/
def State.post (s : State) (i : PostInfo) (va : Nat) (p : Piece) (bytes : List Byte) (red : Option MemOp) (rd : Nat)
    (tag : Option Nat) : State :=
  { s with
    parts := s.markGranule i.a p rd
    posted := s.posted ++ [{
      id := s.fresh
      owner := i.a
      lane := i.lane
      mill := i.a.mill
      gang := s.gangOf i.a
      die := s.dieOf i.a
      pc := i.pc
      va := BitVec.ofNat 64 (va + p.off)
      key := p.key
      bytes := bytes
      red := red
      rd := rd
      set := if p.tier ≥ 2 then .ho else i.set
      kid := p.kid
      sc := p.sc
      reach := none
      settled := none
      bad := none
      tag := tag
      held := none
      access := i.acc
      place := none
      grp := i.grp
      whole := i.whole.getD (p.key, p.len)
      readers := []
      fenced := []
      engines := [] }]
    fresh := s.fresh + 1 }

/-- Cut bytes into single-copy atomic parts of `g` bytes: (offset, bytes), by fuel (R124). -/
def chunks : Nat → Nat → Nat → List Byte → List (Nat × List Byte)
  | 0, _, _, _ => []
  | fuel + 1, g, off, bs => if bs.isEmpty then [] else (off, bs.take g) :: chunks fuel g (off + g) (bs.drop g)

/-- Post the bytes of one piece, in parts of `g` bytes; a remote piece also sends its WRITE flits (R385, R389). -/
def State.postPiece (s : State) (i : PostInfo) (va g : Nat) (p : Piece) (bytes : List Byte) : State :=
  let i := { i with whole := some (i.whole.getD (p.key, p.len)) }
  (chunks (p.len + 1) g 0 ((bytes.drop p.off).take p.len)).foldl (fun s c =>
    let q := { p with key := p.key + c.1, len := c.2.length, off := p.off + c.1, pa := p.pa + c.1 }
    if p.tier = 3 then
      let (tag, s) := s.newTag
      let id := s.fresh
      let s := s.post i va { q with key := 2 ^ 60 + q.node * 2 ^ 52 + q.pa } c.2 none 0 (some tag)
      let o := q.pa % 128
      s.request ⟨tag, none, i.a.mill, i.pc, BitVec.ofNat 64 (va + q.off), q.len, some id, none⟩ q.node (q.pa / 128)
        { flitBlank 2 1 with
          addr := q.pa
          srcPart := s.partOfAgent i.a
          mask := BitVec.ofNat 128 ((2 ^ q.len - 1) * 2 ^ o)
          data := List.replicate o 0 ++ c.2 ++ List.replicate (128 - o - q.len) 0 }
    else s.post i va q c.2 none 0 none) s

/-- Post the bytes of an access. -/
def State.postBytes (s : State) (i : PostInfo) (va g : Nat) (ps : List Piece) (bytes : List Byte) : State :=
  ps.foldl (fun s p => s.postPiece i va g p bytes) s

/-- A write to an SC page waits for the SC accesses of the thread's earlier instructions (R238), those numbered below `since`: the parts of one
instruction issue together and perform in their order. -/
def State.writeReady (s : State) (a : Agent) (lane : Nat) (ps : List Piece) (since : Nat) : Bool :=
  !(ps.any (·.sc) && s.scBusyTo a lane since)

/-! ### Spill and fill -/

/-- Windows the thread's pool can hold (R15, R33, R148). -/
def State.poolWindows (s : State) (a : Agent) : Nat :=
  match a.mill with
  | none => Config.feWindows
  | some uid => match s.gridOfMill uid with
    | some g => g.lr.minwin
    | none => 1

/-- The misaligned fault of a spill or fill (R115). -/
def wspMisaligned (k : AccKind) (wsp : DWord) : FaultInfo := accFault 0x0A 1 wsp k .glob 64

/-- Write one image at an address: 24 words, each single-copy atomic (R16, R115). ACCESS gives 64 bytes, the greatest power of two in the
96 (DEDUCED, log 53). The write reads the registers of the window: a marked one is the poison fault (R420). -/
def State.spillImage (s : State) (a : Agent) (lane : Nat) (pc : DWord) (k : Nat) (wsp : DWord) (since : Nat) : Except AErr State := do
  let ps ← s.pieces a lane .spill .glob wsp 96
  if (s.thread a lane).regPoison.any fun n => 24 * k ≤ n && n < 24 * k + 24 then .error (.fault { cls := 0x0C, sub := 2 })
  else if !s.writeReady a lane ps since then .error .stall
  else pure ((s.postBytes (s.postInfo a lane pc .st (accessField .spill .glob 64)) wsp.toNat 4 ps ((s.thread a lane).image k)).fillTlb ps)

/-- Read one image (R16). -/
def State.fillImage (s : State) (a : Agent) (lane : Nat) (wsp : DWord) : Except AErr (List Byte × State) := do
  let ps ← s.pieces a lane .fill .glob wsp 96
  let bs ← s.readAll a lane .fill .glob wsp 96 ps
  pure (bs, ((s.readPieces a lane .ld ps).countReads ps).fillTlb ps)

/-- The depth rises by one, with any spill (R12, R15, R17, R115, R433), in an instruction or entry whose accesses begin at `since`. -/
def State.riseDepth (s : State) (a : Agent) (lane : Nat) (pc : DWord) (since : Nat) : Except AErr State :=
  let t := s.thread a lane
  if t.winPending then
    pure (s.modThread a lane fun t =>
      { (t.dropWin t.depth).enter with
        low := t.depth + 1, winPending := false, sys := { t.sys with wsp := t.sys.wsp + 96 } })
  else if t.depth + 2 - t.low > s.poolWindows a then
    let wsp := t.sys.wsp
    if t.pendingIn (24 * t.low) (24 * t.low + 24) then .error .stall
    else if wsp.toNat % 4 != 0 then .error (.fault (wspMisaligned .spill wsp))
    else if wsp.toNat + 96 > t.sys.wlim.toNat then
      .error (.fault { cls := 0x0E, sub := 0, va := wsp, access := accessField .spill .glob 64 })
    else do
      let s ← s.spillImage a lane pc t.low wsp since
      pure (s.modThread a lane fun t =>
        { (t.dropWin t.low).enter with low := t.low + 1, sys := { t.sys with wsp := t.sys.wsp + 96 } })
  else pure (s.modThread a lane Thread.enter)

/-- The thread's depth falls by one; it leaves its save vector with the depth it was entered at (R372). -/
def Thread.leave (t : Thread) : Thread :=
  { t with depth := t.depth - 1, saveDepth := if t.saveDepth = some t.depth then some 0 else t.saveDepth }
/-- The depth falls by one, with any fill (R12, R15, R115, R433); at depth 0 the window-stack fault (R17). -/
def State.lowerDepth (s : State) (a : Agent) (lane : Nat) : Except AErr State :=
  let t := s.thread a lane
  if t.depth = 0 then .error (.fault { cls := 0x0E, sub := 1 })
  else if t.winPending || t.low == t.depth then
    let wsp := t.sys.wsp - 96
    if t.sys.wsp.toNat % 4 != 0 then .error (.fault (wspMisaligned .fill wsp))
    else if t.pendingIn (24 * (t.depth - 1)) (24 * (t.depth - 1) + 24) then .error .stall
    else do
      let (bs, s) ← s.fillImage a lane wsp
      pure (s.modThread a lane fun t =>
        let t := if t.winPending then { t with stack := sclear t.stack (24 * t.depth + 8) (24 * t.depth + 32) } else t
        { (t.unimage (t.depth - 1) bs).leave with
          low := t.depth - 1, winPending := false, sys := { t.sys with wsp := wsp } })
  else pure (s.modThread a lane Thread.leave)

/-! ### Fetch -/

def State.fetchDie (s : State) (a : Agent) : Nat :=
  match s.dieOf a with
  | some d => d
  | none => 4
/-- The bytes of a piece as a fetch returns them: each word as the die reads it now, or by choice an older value that R258 still allows, or
one with a store that has not performed. -/
def State.fetchPiece (s : State) (a : Agent) (lane : Nat) (p : Piece) : List Byte :=
  let bs := s.viewBytes ⟨none, none, none, s.dieOf a⟩ p.kid p.key p.len
  if s.code.isEmpty && s.posted.isEmpty then bs
  else ((List.range ((p.len + 3) / 4)).map fun i =>
    match s.pick 0 (p.key + 4 * i) with
    | 0 => (bs.drop (4 * i)).take 4
    | n + 1 => match (s.oldWords (s.coreNo a) (s.fetchDie a) (s.thread a lane).jumped p.kid (p.key + 4 * i) ++
        s.newWords (s.fetchDie a) p.kid (p.key + 4 * i))[n]? with
      | some w => (bytesOfNat 4 w.toNat).take (p.len - 4 * i)
      | none => (bs.drop (4 * i)).take 4).flatten
/-- Bytes as instruction fetch sees them: what has performed at the fetching die, or what it was before (R103, R258; DEDUCED, log 12). -/
def State.fetchBytes (s : State) (a : Agent) (lane : Nat) (pc : DWord) (n : Nat) : Except AErr (List Byte) := do
  let ps ← s.pieces a lane .fetch .glob pc n
  if s.poisonedIn ps (s.dieOf a) then .error (.fault (accFault 0x0C 1 pc .fetch .glob 8))
  else
    (ps.mapM fun p =>
      if p.tier = 3 then s.readPiece a lane pc.toNat p
      else
        if s.needsFetch (s.dieOf a) p.kid p.key then .error (.fetchLine (lineOf p.key) p.kid) else .ok (s.fetchPiece a lane p)).map List.flatten

/-- The fetch of a transfer's target word (R103 step 2): a header by its LEN, else the branch-target fault, subcode 0. Nothing is read past the
32-byte block: of a header that crosses it the transfer reads the first word alone, and its own fetch finds it so (R25) (DEDUCED, log 53). -/
def State.fetchHeader (s : State) (a : Agent) (lane : Nat) (target : DWord) : Except AErr Header :=
  if target.toNat % 4 != 0 then .error (.fault { cls := 4, sub := 0 })
  else do
    let low ← s.fetchBytes a lane target 4
    if (low.headD 0).extractLsb' 0 2 ≠ 3 then .error (.fault { cls := 4, sub := 0 })
    else do
      let high ← if target.toNat % 32 = 28 then pure [] else s.fetchBytes a lane (target + 4) 4
      pure (headerOf (BitVec.ofNat 128 (natOfBytes (low ++ high))))

/-! ### Long-latency completion -/

/-- The registers of a load's bytes by its SUB (R119); 22 is the rotated word of a crossbar entry (R180). -/
def loadWords (sub : Nat) (bs : List Byte) : List Word :=
  let v := natOfBytes bs
  match sub with
  | 8 => [((BitVec.ofNat 8 v).signExtend 32)]
  | 9 => [((BitVec.ofNat 16 v).signExtend 32)]
  | 5 => [if v = 0 then 0 else 1]
  | 22 => [(BitVec.ofNat 32 v).rotateLeft 16]
  | _ => (List.range ((bs.length + 3) / 4)).map fun i => BitVec.ofNat 32 (v / 2 ^ (32 * i))

/-- The transaction an instruction waits for. -/
def State.txn? (s : State) (tag : Nat) : Option Txn := s.txns.find? (·.tag == tag)

/-- The response that an instruction waits for is back, if it waits for one (R386). -/
def State.responded (s : State) (o : LongOp) : Bool :=
  match o.wait with
  | none => true
  | some tag => match s.txn? tag with
    | some t => t.resp.isSome
    | none => true

/-- The results of an instruction: the bytes its accesses have read, or its response's data, or zeros where the response refuses it
(R386). -/
def State.longResult (s : State) (o : LongOp) : LongOp :=
  let o := if o.parts.isEmpty then o
    else { o with writes := (o.writes.map Prod.fst).zip (loadWords o.ext (o.parts.map fun q => q.2.getD []).flatten) }
  match o.wait.bind s.txn? with
  | none => o
  | some t =>
    match t.resp with
    | some (0, bs) => { o with writes := (o.writes.map Prod.fst).zip (loadWords o.ext bs) }
    | some _ => { o with writes := o.writes.map fun w => (w.1, 0) }
    | none => o
/-- The instruction with its accesses performed. -/
def State.performParts (s : State) (a : Agent) (lane : Nat) (o : LongOp) : State × LongOp :=
  let s := o.parts.foldl (fun s q => if q.2.isSome then s else s.performId q.1) s
  (s, match (s.thread a lane).long.find? (·.id == o.id) with
    | some o' => o'
    | none => o)

/-- The fault record of a fault in a thread (R350, R351). On a front-end core WHEEL, MILL, CORE and CTX are 0. -/
def State.mkRec (s : State) (a : Agent) (lane : Nat) (fi : FaultInfo) (pc : DWord) (flags : Nat) : FaultRec where
  cls := BitVec.ofNat 8 fi.cls
  sub := BitVec.ofNat 8 fi.sub
  flags := BitVec.ofNat 16 (flags ||| (if fi.lanes.isSome then 8 else 0))
  wheel := BitVec.ofNat 8 a.wheelIdx
  mill := match a.mill.bind s.mill? with
    | some m => BitVec.ofNat 8 m.f2
    | none => 0
  core := match s.coreOf a with
    | some c => BitVec.ofNat 16 c
    | none => 0
  pc := pc
  va := fi.va
  lanesF := match fi.lanes with
    | some l => l.1
    | none => BitVec.ofNat 32 (2 ^ lane)
  lanesD := match fi.lanes with
    | some l => l.2
    | none => 0
  access := fi.access
  ctx := match a.mill.bind s.gridOfMill with
    | some g => BitVec.ofNat 32 ((g.lr.eng % 65536) * 65536 + g.part * 256)
    | none => 0
  seq := BitVec.ofNat 64 ((s.thread a lane).recCount + 1)
  info0 := fi.info0
  info1 := fi.info1

/-- A posted-access fault reaches its thread: it waits for the next clause header (R353). -/
def State.addPostedFault (s : State) (a : Agent) (lane : Nat) (pc va : DWord) (access : BitVec 32) (cause : Nat) : State :=
  let r := s.mkRec a lane { cls := 0x18, sub := cause, va := va, access := access, info0 := BitVec.ofNat 64 cause } pc 1
  s.modThread a lane fun t =>
    { t with posted := t.posted ++ [⟨{ r with seq := BitVec.ofNat 64 (t.recCount + t.posted.length + 1) }, false⟩] }

/-- The accesses of an instruction that have failed: its own, or the one its transaction serves. -/
def State.badOf (s : State) (o : LongOp) : List Posted :=
  let txn := (o.wait.bind s.txn?).bind Txn.posted
  s.posted.filter fun p => p.bad.isSome && (some p.id == txn || o.parts.any fun q => q.1 == p.id)
/-- One long-latency instruction completes, where its accesses can perform and its response is back: results land, pending bits and flag clear (R24), `fstat` gains its flags (R19). What it is to read of
its mill it reads now at the latest (R279, R297, R326). A failed access leaves its fault with the thread, for its next clause header
(R353, R386). -/
def State.completeLong (s : State) (a : Agent) (lane : Nat) (o : LongOp) : State :=
  if !s.responded o then s
  else
  let (s, o) := (s.lookAll a lane o).performParts a lane o
  if o.parts.any fun q => q.2.isNone && (s.posted? q.1).any fun p => p.bad.isNone then s
  else
  let bad := s.badOf o
  let o := s.longResult o
  let s := match o.wait with
    | some tag => { s with txns := s.txns.filter (·.tag != tag) }
    | none => s
  let live := !(s.thread a lane).exited
  let s := if live then bad.foldl (fun s p => (s.dropPosted p.id).addPostedFault a lane p.pc p.va p.access (p.bad.getD 0)) s else s
  let s := s.modThread a lane fun t => t.finishLong o
  if live then
    o.writes.foldl (fun s w => match w.1 with
      | .uni n => s.uniPut a lane n w.2
      | _ => s) s
  else s

/-- Every outstanding instruction of the thread completes (R28). -/
def State.completeAll (s : State) (a : Agent) (lane : Nat) : State :=
  (s.thread a lane).long.foldl (fun s o => s.completeLong a lane o) s
/-- All of them can complete now. -/
def State.allReady (s : State) (a : Agent) (lane : Nat) : Bool := ((s.completeAll a lane).thread a lane).long.isEmpty

/-! ### Waits -/

/-- The thread waits for the front end to resolve a page: it issues nothing until then, in buffer mode or out of it (R222). -/
def State.asking (s : State) (a : Agent) (lane : Nat) : Bool :=
  s.reqs.any fun r => r.threads.any fun w => w.1.same a && w.2.1 == lane
/-- The record of an engine's fault (R350, R351): lane 0 of wheel 0, with the originator. -/
def State.engineRec (s : State) (uid orig : Nat) (fi : FaultInfo) (pc seq : DWord) : FaultRec :=
  let r := s.mkRec (.wheel uid 0) 0 fi pc 4
  { r with lanesF := 1, ctx := r.ctx ||| BitVec.ofNat 32 orig, seq := seq }
/-- What the record of an access's fault would say: a thread's, or that of a flume operation (R293, R350). -/
def State.recOf (s : State) (a : Agent) (lane : Nat) (fi : FaultInfo) : FaultRec :=
  match a.engine, a.mill with
  | true, some uid =>
    let entry := match (s.mill? uid).bind fun m => m.flume.ops.find? (·.num == lane) with
      | some o => o.entry
      | none => 0
    s.engineRec uid 1 { fi with info0 := BitVec.ofNat 64 entry } 0 (BitVec.ofNat 64 lane)
  | _, _ => s.mkRec a lane fi (s.thread a lane).pc 0
/-- The queue that an agent works for: its mill's grid's, or that of the command (R401). -/
def State.queueOf (s : State) (a : Agent) : Option Nat :=
  match a.mill, a with
  | some uid, _ => (s.gridOfMill uid).map (·.queue)
  | none, .fe n => if Config.nFeCores ≤ n then some (n - Config.nFeCores) else none
  | none, _ => none
/-- A page that is not present becomes a fault request, one per page per mill (R221); what its fault's record would say stays with it. -/
def State.addRequest (s : State) (a : Agent) (lane root page : Nat) (fi : FaultInfo) : State :=
  let w := (a, lane, s.recOf a lane fi)
  match s.reqs.find? fun r => r.root == root && r.page == page && r.mill == a.mill with
  | some r =>
    if r.threads.any (fun w => w.1.same a && w.2.1 == lane) then s
    else { s with reqs := s.reqs.map fun q => if q.id = r.id then { q with threads := q.threads ++ [w] } else q }
  | none =>
    { s with
      reqs := s.reqs ++ [⟨s.fresh, root, page, a.mill, [w]⟩]
      evq := s.evq ++ [.faultReq s.fresh (s.queueOf a)]
      fresh := s.fresh + 1 }
/-- Send the READ a thread waits for, once (R389). -/
def State.askRemote (s : State) (a : Agent) (lane : Nat) (va size node pa : Nat) : State :=
  if s.txns.any (fun t => t.owner == some (a, lane) && t.va == BitVec.ofNat 64 va && t.size == size) then s
  else s.remoteRead (some (a, lane)) none a.mill (s.thread a lane).pc (BitVec.ofNat 64 va) node pa size (s.partOfAgent a)
/-- Ask a location's home for what it holds, once: it is read there, and the answer travels as a fetch response (R380). What it returns is
known to the thread from here on (R234). -/
def State.askHome (s : State) (a : Agent) (lane va size key kid : Nat) (sc : Bool) : State :=
  match s.dieOf a, homeOf key with
  | some d, some h =>
    if s.txns.any (fun t => t.owner == some (a, lane) && t.va == BitVec.ofNat 64 va && t.size == size) || !s.roomX h 1 then s
    else
      let r : Reader := if sc then ⟨none, none, none, none⟩ else s.readerOf a lane
      let (tag, t) := s.newTag
      let x : Txn := ⟨tag, some (a, lane), a.mill, (s.thread a lane).pc, BitVec.ofNat 64 va, size, none, none⟩
      ((({ t with txns := t.txns ++ [x] } : State).readBy
        (s.sourcesOf r s.fresh key size) (a, lane, some .ld)).monitorAll key size kid false).sendX h d (.reply tag (s.viewBytes r kid key size))
  | _, _ => s
/-- What a wait leaves behind. -/
def State.stallOn (s : State) (a : Agent) (lane : Nat) (e : AErr) : State :=
  match e with
  | .fault _ => s
  | .stall => s
  | .absent root page fi => s.addRequest a lane root page fi
  | .fetchLine line kid => match s.dieOf a with
    | some d => s.fetchLine d line kid
    | none => s
  | .remote va size node pa => s.askRemote a lane va size node pa
  | .atHome va size key kid sc => s.askHome a lane va size key kid sc

/-- A blocked instruction stalls its whole wheel (R198, R235, R247, R298, R325, R374). -/
def State.stallWheel (s : State) (a : Agent) : State := s.modFences a fun f => { f with stall := some a }
/-- Nothing stalls the wheel any more: the instruction has gone on or has trapped, or its threads have left it for the save vector. A record
that a waiting `wpost` had read goes with it (R301). -/
def State.endWait (s : State) (a : Agent) : State :=
  let s := if (s.fences a).stall.isSome then s.modFences a fun f => { f with stall := none } else s
  match (s.wheel? a).bind Wheel.posting with
  | some _ => s.modWheel a fun w => { w with posting := none }
  | none => s

/-- A response that a lane of the group's replayed reads has used. -/
def State.usedTxn (s : State) (a : Agent) (lanes : List Nat) (t : Txn) : Option Nat :=
  match t.owner with
  | some (b, l) =>
    if t.resp.isSome && b == a && lanes.contains l && !((s.thread a l).long.any fun o => o.wait == some t.tag) then some l else none
  | none => none
/-- Used responses go; a refused one leaves its posted fault with the thread (R386, R389). -/
def State.dropUsed (s : State) (a : Agent) (lanes : List Nat) : State :=
  s.txns.foldl (fun s' t =>
    match s.usedTxn a lanes t with
    | none => s'
    | some l =>
      let s' := { s' with txns := s'.txns.filter (·.tag != t.tag) }
      match t.resp with
      | some (st, _) =>
        if st = 0 then s'
        else s'.addPostedFault a l t.pc t.va (accessField .load .glob t.size) (causeOf st)
      | none => s') s

/-! ### Taking a trap (R28-R30) -/

/-- Write a fault record at an `frp`, bits 5:0 ignored, when it is non-zero (R28, R350). -/
def State.writeRecAt (s : State) (a : Agent) (lane : Nat) (pc frp : DWord) (r : FaultRec) : Except AErr State :=
  let frp := frp &&& ~~~(63 : DWord)
  if frp = 0 then pure s
  else do
    let ps ← s.pieces a lane .store .glob frp 64
    if !s.writeReady a lane ps s.fresh then .error .stall
    else pure ((s.postBytes (s.postInfo a lane pc .st (accessField .store .glob 64)) frp.toNat 8 ps r.bytes).fillTlb ps)

def State.writeRec (s : State) (a : Agent) (lane : Nat) (pc : DWord) (r : FaultRec) : Except AErr State :=
  s.writeRecAt a lane pc (s.thread a lane).sys.frp r

/-- The `tvec` entry of a class: none when no handler is installed (R29). Any failure of the read is a fault here. The read counts, and leaves
its translation, as a load's does. -/
def State.vector (s : State) (a : Agent) (lane cls : Nat) : Except AErr (Option DWord × State) :=
  let tv := (s.thread a lane).sys.tvec &&& ~~~(0x3FF : DWord)
  if tv = 0 then pure (none, s)
  else
    let va := tv + BitVec.ofNat 64 (16 * cls)
    match s.load a lane .load .glob va 16 1 with
    | .error (.absent _ _ fi) => .error (.fault fi)
    | .error e => .error e
    | .ok (ps, bs) =>
      let w := natOfBytes bs
      pure (if bitAt w 64 then some (BitVec.ofNat 64 w) else none, (s.countReads ps).fillTlb ps)

/-- The thread takes its trap's status: outstanding work completes, `tpc` and `tcause` are written, and the thread leaves
buffer mode, and any wait (R28, R30, R158). Its PC is already the `tpc`. -/
def State.trapStatus (s : State) (a : Agent) (lane cls sub : Nat) : State :=
  ((s.completeAll a lane).endWait a).modThread a lane fun t =>
    { t with
      sys := { t.sys with tpc := t.pc, tcause := t.causeWord cls sub }
      bufMode := false
      waiting := false
      blocked := false }

/-- A page that is not present is a fault here: the front end resolves only those that the record write and the spill meet (R29). -/
def notAbsent {α : Type} (r : Except AErr α) : Except AErr α :=
  match r with
  | .error (.absent _ _ fi) => .error (.fault fi)
  | r => r
/-- Enter a handler whose PC is known: its target is checked, the depth rises as for a call, and execution starts there. -/
def State.enterHandler (s : State) (a : Agent) (lane : Nat) (pc hpc : DWord) (since : Nat) : Except AErr State := do
  let _ ← notAbsent (s.fetchHeader a lane hpc)
  let s ← (s.keepFetch a lane hpc).riseDepth a lane pc since
  pure (s.modThread a lane fun t => { t with pc := hpc, clause := none, armed := none, due := none })

/-- The record of a trap is kept and written; one that its thread has had since it arrived is not (R28, R352, R353). -/
def State.record (s : State) (a : Agent) (lane : Nat) (pc : DWord) (r : FaultRec) (write : Bool) : Except AErr State :=
  if write then
    (s.modThread a lane fun t => { t with lastRec := r, recCount := t.recCount + 1 }).writeRec a lane pc r
  else .ok s

/-- The restart mask of the depth that a trap entry has made (R349). -/
def Thread.keepMask (t : Thread) (pc : DWord) (mask : Option (BitVec 32)) : Thread :=
  match mask with
  | none => t
  | some m => { t with masks := ⟨t.depth, pc, m, []⟩ :: t.masks.filter (·.depth != t.depth) }
/-- A `yield` that waits for the end of the clause which the trap has interrupted waits on (R201). -/
def Thread.keepYield (t u : Thread) : Thread :=
  let l := t.yields.filter (·.1 != t.depth)
  { t with yields := if u.yielding then (t.depth, u.pc) :: l else l }
/-- The trap waits: nothing else of the thread happens until it has entered its handler (R28). -/
def State.holdTrap (s : State) (a : Agent) (lane : Nat) (d : DueTrap) (e : AErr) : State :=
  (s.modThread a lane fun t => { t with due := some d }).stallOn a lane e
/-- Take a trap in one lane (R28): record first, then the vector, then the handler. The fault is decided when it is raised: an entry that must
wait, for a page that the front end may still map or for what is under way, goes on from where it stands. Every other failure inside it is a
double fault (R29). The restart mask is kept for the depth the entry makes (R349). -/
def State.takeTrap (s : State) (a : Agent) (lane : Nat) (d : DueTrap) : State :=
  if !s.allReady a lane then s.holdTrap a lane d .stall
  else
    let s1 := s.trapStatus a lane d.fr.cls.toNat d.fr.sub.toNat
    match s1.record a lane d.pc d.fr d.write with
    | .error (.fault _) => s1.escalate a lane d.fr true
    | .error e => s.holdTrap a lane d e
    | .ok s2 =>
      let d' := { d with write := false }
      match s2.vector a lane d.fr.cls.toNat with
      | .error (.fault _) => s2.escalate a lane d.fr true
      | .error e => s2.holdTrap a lane d' e
      | .ok (none, s2) => s2.escalate a lane d.fr false
      | .ok (some hpc, s2) =>
        match s2.enterHandler a lane d.pc hpc s.fresh with
        | .error (.fault _) => s2.escalate a lane d.fr true
        | .error e => s2.holdTrap a lane d' e
        | .ok s3 => (s3.modThread a lane fun u => (u.keepMask d.pc d.mask).keepYield (s.thread a lane)).dropUsed a [lane]
/-- Take the trap of a fault at the thread's PC; for `trap` and `bkpt` the thread has moved past the instruction at `pc`. -/
def State.trap (s : State) (a : Agent) (lane : Nat) (fi : FaultInfo) (pc : DWord) (mask : Option (BitVec 32)) : State :=
  s.takeTrap a lane ⟨s.mkRec a lane fi pc 0, pc, mask, true⟩
/-- The traps of an agent's threads that have had to wait are tried again, but for those that wait for the front end (R222). -/
def State.retryTraps (s : State) (a : Agent) : State :=
  (List.range (s.threads a).length).foldl (fun s l => match (s.thread a l).due with
    | none => s
    | some d => if s.asking a l then s else s.takeTrap a l d) s

/-! ### Returning (R31, R110) -/

/-- What `rfe` leaves of the restart masks: the one of the depth it leaves is armed when it resumes at that PC, and is
discarded otherwise (R349). -/
def Thread.armMask (t : Thread) (depth : Nat) (pc : DWord) : Thread :=
  { t with
    armed := t.masks.find? fun m => m.depth == depth && m.pc == pc
    masks := t.masks.filter (·.depth != depth) }

/-- The clause that `tcause` describes, from its header (R30, R31, R110): none for IDX 63. -/
def resumeClause (tpc tcause : DWord) (h : Header) : Except AErr (Option Clause) :=
  let idx := bitsOf tcause.toNat 21 16
  if idx = 63 then pure none
  else if idx < h.count.toNat ∧ h.ok then
    pure (some ⟨tpc - BitVec.ofNat 64 (4 * bitsOf tcause.toNat 31 24), idx, h.count.toNat, h.set0, h.set1, false⟩)
  else .error (.fault { cls := 4, sub := 0 })

/-- Where `rfe` fetches the header (R110 check 2). -/
def resumeHeader (tpc tcause : DWord) : DWord :=
  if bitsOf tcause.toNat 21 16 = 63 then tpc else tpc - BitVec.ofNat 64 (4 * bitsOf tcause.toNat 31 24)

/-- Return from a trap (R31, R110): checks in order, the fill, and the clause resumed with its WAIT mask applied, which may
hold the return back. -/
def State.returnFrom (s : State) (a : Agent) (lane : Nat) : Except AErr State :=
  let t := s.thread a lane
  if t.depth = 0 then .error (.fault { cls := 0x0E, sub := 1 })
  else do
    let h ← s.fetchHeader a lane (resumeHeader t.sys.tpc t.sys.tcause)
    let c ← resumeClause t.sys.tpc t.sys.tcause h
    if c.isSome && t.waits h.wait then .error .stall
    else
      let s ← s.lowerDepth a lane
      let c := c.map fun c => { c with yld := t.yields.contains (t.depth, t.sys.tpc) }
      pure (s.modThread a lane fun u =>
        { u.armMask t.depth t.sys.tpc with
          yields := u.yields.filter (·.1 != t.depth)
          resumed := if t.sys.tcause.toNat % 256 = 0x30 then some t.sys.tpc else u.resumed
          pc := t.sys.tpc, clause := c, restAt := if t.restAt = some t.depth then none else t.restAt, jumped := s.code.length })

end Sys2Proof.Machine
end

