-- ==== Sys2Proof/Machine/Operands.lean ====
section
/-! DEFINITION. Operand forms: which fields an instruction reads and writes, the illegal-operand checks, hazards, reading a
source with lane select, EDGE and latch, and writing a destination (spec/03_formats_and_opcode_map.md R38-R46; spec/02 R13,
R24, R26; spec/08 R162, R164; spec/09 R176). -/

namespace Sys2Proof.Machine

/-- How an instruction uses a register field: not at all, or as a group of 1, 2, 4 or 8 registers (R39-R41). -/
inductive Use where
  | none | word | pair | quad | octet
  deriving DecidableEq, Repr

/-- Registers of the group. -/
def Use.regs : Use → Nat
  | .none => 0
  | .word => 1
  | .pair => 2
  | .quad => 4
  | .octet => 8

/-- The fields an instruction uses (the Reads and Writes columns of its entry). `gRead` are guards read as sources, `gWrite`
guard destinations, `modOk` that its defined MOD fields are in range, `allHaz` that a hazard in one lane stops every lane
(R275), `transfer` that it must end its clause (R25). `guardSrc`: A and B name guards, not specifiers (R88). `uRead` and `uWrite`
are the uniform registers that `smov` names in MOD (R190); `ownA`: A is read in the own lane whatever AN says (R189). `bImm`: B is no
specifier (R51); `perm`: a lane whose crossbar entry says ZERO reads no source (R179). -/
structure Shape where
  d        : Use := .none
  dRead    : Bool := false
  dWrite   : Bool := true
  a        : Use := .none
  b        : Use := .none
  c        : Use := .none
  modOk    : Bool := true
  gRead    : List Nat := []
  gWrite   : List Nat := []
  allHaz   : Bool := false
  transfer : Bool := false
  guardSrc : Bool := false
  uRead    : List Nat := []
  uWrite   : List Nat := []
  ownA     : Bool := false
  bImm     : Bool := false
  perm     : Bool := false
  deriving DecidableEq, Repr

/-- The three source fields. -/
inductive Fld where
  | A | B | C
  deriving DecidableEq, Repr

def Shape.use (sh : Shape) : Fld → Use
  | .A => sh.a
  | .B => sh.b
  | .C => sh.c
def specOf (f : Fields) : Fld → Nat
  | .A => f.a.toNat
  | .B => f.b.toNat
  | .C => f.c.toNat
def selOf (f : Fields) : Fld → Nat
  | .A => f.an.toNat
  | .B => f.bn.toNat
  | .C => f.cn.toNat
/-- The field that HOLD names (R37). -/
def heldField (f : Fields) : Option Fld :=
  match f.hold.toNat with
  | 1 => some .A
  | 2 => some .B
  | 3 => some .C
  | _ => none

/-! ### Illegal operands (R45) -/

/-- A group specifier that is misaligned, or a source that no group may name (R41). -/
def groupBad (u : Use) (spec : Nat) : Bool :=
  if spec < 48 then spec % u.regs != 0
  else match u with
    | .pair => 48 ≤ spec && spec ≤ 50
    | .quad => spec != 63
    | .octet => spec != 63
    | _ => false

/-- The subcode of a source field, lowest first (R39, R42). -/
def srcSub (f : Fields) (u : Use) (fld : Fld) : Option Nat :=
  let spec := specOf f fld
  let sel := selOf f fld
  if u = .none then Option.none
  else if (54 ≤ spec ∧ spec ≤ 58) ∨ spec = 61 ∨ spec = 62 then some 0
  else if sel = 3 then some 2
  else if sel ≠ 0 ∧ spec > 31 then some 3
  else if (spec = 59 ∧ f.len.toNat = 0) ∨ (spec = 60 ∧ f.len.toNat < 2) then some 4
  else if groupBad u spec then some 5
  else Option.none

/-- The subcode of the destination field (R40, R41). -/
def dstSub (f : Fields) (u : Use) : Option Nat :=
  let spec := f.d.toNat
  if u = .none then Option.none
  else if 48 ≤ spec ∧ spec ≠ 63 then some 1
  else if spec < 48 ∧ spec % u.regs ≠ 0 then some 5
  else Option.none

/-- The field is an operand specifier (R39), whether read or not: those of `gop` name guards (R88), B of `fence` holds a set (R51). -/
def Shape.plain (sh : Shape) (fld : Fld) : Bool := !(sh.guardSrc && fld != .C) && !(sh.bImm && fld == .B)
/-- A held field that the instruction does not read is checked as one register (R43). -/
def heldSub (f : Fields) (sh : Shape) : Option Nat :=
  match heldField f with
  | none => Option.none
  | some fld => if sh.use fld = .none && sh.plain fld then srcSub f .word fld else Option.none

/-- The illegal-operand subcode: fields in the order D, A, B, C, HOLD, MOD (R46 step 4). -/
def operandSub (f : Fields) (sh : Shape) : Option Nat :=
  (dstSub f sh.d).orElse fun _ =>
  (srcSub f sh.a .A).orElse fun _ =>
  (srcSub f sh.b .B).orElse fun _ =>
  (srcSub f sh.c .C).orElse fun _ =>
  (heldSub f sh).orElse fun _ =>
  if sh.modOk then Option.none else some 6

/-! ### Lane selects and EDGE (R42) -/

/-- The lane a select reads from, none off the edge; a front-end core has no neighbour (R33). -/
def neighbour (a : Agent) (lane sel : Nat) : Option Nat :=
  match a with
  | .fe _ => none
  | _ => if sel = 1 then (if lane = 0 then none else some (lane - 1)) else (if lane ≥ 31 then none else some (lane + 1))

/-- The lane whose register is read, by EDGE off the edge; none delivers zero (R42, R176). -/
def sourceLane (a : Agent) (f : Fields) (lane sel : Nat) : Option Nat :=
  if sel = 0 then some lane
  else match neighbour a lane sel with
    | some l => some l
    | none =>
      match f.edge.toNat with
      | 1 => some lane
      | 2 => match a with
        | .fe _ => some lane
        | _ => some (if sel = 1 then 31 else 0)
      | _ => none

/-- EDGE suppress takes the lane out: one of the sources the instruction reads falls off the edge (R42). A field read for the latch
alone takes no lane out (DEDUCED, log 47). -/
def suppressed (a : Agent) (f : Fields) (sh : Shape) (lane : Nat) : Bool :=
  f.edge == 3 && [Fld.A, Fld.B, Fld.C].any fun fld =>
    sh.use fld != .none && (selOf f fld == 1 || selOf f fld == 2) && (neighbour a lane (selOf f fld)).isNone

/-! ### Reading sources -/

/-- A register of another lane as it stands (R164): with a long-latency write in flight its old value, or by choice its new one once the
result has come. -/
def State.laneReg (s : State) (a : Agent) (lane n : Nat) : Word :=
  let t := s.thread a lane
  match s.pick 2 (2 ^ 16 * lane + t.pos n), t.long.find? fun o => o.touch.contains (.pos (t.pos n)) with
  | _ + 1, some o =>
    if s.responded o && o.look.isNone && o.parts.all (fun q => q.2.isSome) then
      match (s.longResult o).writes.find? fun w => w.1 == .pos (t.pos n) with
      | some w => w.2
      | none => t.getV n
    else t.getV n
  | _, _ => t.getV n
/-- The k-th register of a source as the lane reads it (R39, R164) (DEDUCED, log 15). -/
def State.readReg (s : State) (a : Agent) (f : Fields) (lane spec sel k : Nat) : Word :=
  if spec < 32 then
    match sourceLane a f lane sel with
    | some l => if l = lane then (s.thread a l).getV (spec + k) else s.laneReg a l (spec + k)
    | none => 0
  else if spec < 48 then s.uniGet a lane (spec - 32 + k)
  else if spec < 51 then (s.thread a lane).latchVal (spec - 48)
  else
    match spec, a.mill.bind s.mill? with
    | 51, some _ => BitVec.ofNat 32 lane
    | 52, some _ => BitVec.ofNat 32 a.wheelIdx
    | 53, some m => BitVec.ofNat 32 m.f2
    | 59, _ => f.imm.setWidth 32
    | 60, _ => f.imm.setWidth 32
    | _, _ => 0

/-- A 32-bit source (R39). -/
def State.srcW (s : State) (a : Agent) (f : Fields) (lane : Nat) (fld : Fld) : Word :=
  s.readReg a f lane (specOf f fld) (selOf f fld) 0
/-- A 64-bit source: a pair, an index zero-extended, IMM32 sign-extended, IMM64 (R39, R41). -/
def State.srcD (s : State) (a : Agent) (f : Fields) (lane : Nat) (fld : Fld) : DWord :=
  let spec := specOf f fld
  if spec < 48 then
    pairOf (s.readReg a f lane spec (selOf f fld) 0) (s.readReg a f lane spec (selOf f fld) 1)
  else if spec = 59 then sext64 (f.imm.setWidth 32)
  else if spec = 60 then f.imm
  else (s.srcW a f lane fld).setWidth 64
/-- The registers of a source group; `vz` reads zeros (R41). -/
def State.srcGroup (s : State) (a : Agent) (f : Fields) (lane : Nat) (fld : Fld) (n : Nat) : List Word :=
  (List.range n).map fun k => if specOf f fld = 63 then 0 else s.readReg a f lane (specOf f fld) (selOf f fld) k
/-- D read as a source, in the own lane (R107, R117, R194). -/
def State.srcDst (s : State) (a : Agent) (f : Fields) (lane k : Nat) : Word :=
  if f.d.toNat = 63 then 0 else s.readReg a f lane f.d.toNat 0 k

/-! ### Hazards (R24, R26, R122, R162) and register poison (R420) -/

/-- A register of the reading lane has a pending bit. -/
def State.regPending (s : State) (a : Agent) (lane spec : Nat) : Bool :=
  if spec < 32 then (s.thread a lane).pending (.pos ((s.thread a lane).pos spec))
  else if spec < 48 then s.uniPending a (spec - 32)
  else false
def State.groupPending (s : State) (a : Agent) (lane spec : Nat) (u : Use) : Bool :=
  spec < 48 && (List.range u.regs).any fun k => s.regPending a lane (spec + k)
/-- The fields read, with the one held for the latch alone (R43). -/
def usedFields (f : Fields) (sh : Shape) : List (Fld × Use) :=
  let l := [(Fld.A, sh.a), (Fld.B, sh.b), (Fld.C, sh.c)].filter fun p => p.2 != .none
  match heldField f with
  | none => l
  | some fld => if sh.use fld = .none && sh.plain fld then l ++ [(fld, Use.word)] else l

/-- The hazard subcode of a lane: pending reads, latch entries, then writes (R46 step 5). -/
def State.hazardSub (s : State) (a : Agent) (f : Fields) (sh : Shape) (lane : Nat) : Option Nat :=
  let t := s.thread a lane
  let us := usedFields f sh
  if us.any (fun p => s.groupPending a lane (specOf f p.1) p.2) then some 0
  else if sh.dRead && s.groupPending a lane f.d.toNat sh.d then some 0
  else if sh.gRead.any (fun k => k != 0 && t.pending (.guard k)) then some 0
  else if sh.uRead.any (fun n => s.uniPending a n) then some 0
  else if us.any (fun p => 48 ≤ specOf f p.1 && specOf f p.1 < 51 && !t.latchOk (specOf f p.1 - 48)) then some 2
  else if sh.dWrite && s.groupPending a lane f.d.toNat sh.d then some 1
  else if sh.gWrite.any (fun k => k != 0 && t.pending (.guard k)) then some 1
  else if sh.uWrite.any (fun n => s.uniPending a n) then some 1
  else none

/-- Registers of a group carry an error mark: those of a lane, or uniform ones of its mill or its front-end core. -/
def State.markedRegs (s : State) (a : Agent) (lane spec : Nat) (u : Use) : Bool :=
  let t := s.thread a lane
  if spec < 32 then (List.range u.regs).any fun k => t.regPoison.contains (t.pos (spec + k))
  else if spec < 48 then (List.range u.regs).any fun k => s.uniMarked a lane (spec - 32 + k)
  else false
/-- A field of the lane reads a register with an error mark. -/
def State.markedField (s : State) (a : Agent) (f : Fields) (lane : Nat) (fld : Fld) (u : Use) : Bool :=
  match sourceLane a f lane (selOf f fld) with
  | some l => s.markedRegs a l (specOf f fld) u
  | none => false
/-- A register that the lane reads carries an error mark. -/
def State.readsPoison (s : State) (a : Agent) (f : Fields) (sh : Shape) (lane : Nat) : Bool :=
  (usedFields f sh).any (fun p => s.markedField a f lane p.1 p.2) ||
  (sh.dRead && s.markedRegs a lane f.d.toNat sh.d) || sh.uRead.any fun n => s.uniMarked a lane n
/-- The entry of a lane in the crossbar table that MOD[2:0] names (R179). -/
def State.tableByte (s : State) (a : Agent) (f : Fields) (lane : Nat) : Nat :=
  match a.mill.bind s.mill? with
  | some m => ((m.tables.getD (f.mod.toNat % 8) []).getD lane 0).toNat
  | none => 0
/-- The lane's own reads: none where its crossbar entry says ZERO (R179). -/
def State.ownShape (s : State) (a : Agent) (f : Fields) (sh : Shape) (lane : Nat) : Shape :=
  if sh.perm && bitAt (s.tableByte a f lane) 7 then { sh with a := .none, b := .none } else sh

/-! ### HOLD (R26, R43) -/

/-- The entry a participant captures; a held pair gives its even register (R117), a guard 1 or 0 (R88), a field that is no specifier
nothing (R51) (DEDUCED, log 47). -/
def State.heldValue (s : State) (a : Agent) (f : Fields) (sh : Shape) (lane : Nat) (fld : Fld) : Option Word :=
  if sh.plain fld then some (s.srcW a f lane fld)
  else if sh.bImm then none
  else some (if (s.thread a lane).guard (specOf f fld % 8) then 1 else 0)
/-- The entry a lane whose guard test failed captures: invalid where reading the field would fault, or where its register or guard is
pending (R43); the field is judged as the word has it, `f0`, and read as the instruction reads it, `f`; off the edge under EDGE suppress it is a valid 0 (DEDUCED, log 47). -/
def State.heldQuiet (s : State) (a : Agent) (f0 f : Fields) (sh : Shape) (lane : Nat) (fld : Fld) : Option Word :=
  let t := s.thread a lane
  let spec := specOf f fld
  let u := if sh.use fld = .none then Use.word else sh.use fld
  if !sh.plain fld then
    (if spec % 8 ≠ 0 ∧ t.pending (.guard (spec % 8)) then none else s.heldValue a f sh lane fld)
  else if (srcSub f0 u fld).isSome || (48 ≤ spec && spec < 51 && !t.latchOk (spec - 48)) || s.groupPending a lane spec u then none
  else some (s.srcW a f lane fld)

/-! ### Writing destinations -/

/-- Write the registers of D in a lane: a uniform register takes the lowest participant's value (R13, R40, R162). -/
def State.putD (s : State) (a : Agent) (f : Fields) (lane lowest : Nat) (vs : List Word) : State :=
  let d := f.d.toNat
  if d < 32 then
    s.modThread a lane fun t => (List.range vs.length).foldl (fun t k => t.setV (d + k) (vs.getD k 0)) t
  else if d < 48 ∧ lane = lowest then
    (List.range vs.length).foldl (fun s k => s.uniPut a lane (d - 32 + k) (vs.getD k 0)) s
  else s
/-- The destinations of D's registers for a long-latency instruction: what takes a pending bit (R24, R106, R121). -/
def State.dstsOf (s : State) (a : Agent) (f : Fields) (lane n : Nat) : List Dst :=
  let d := f.d.toNat
  if d < 32 then (List.range n).map fun k => .pos ((s.thread a lane).pos (d + k))
  else if d < 48 then (List.range n).map fun k => .uni (d - 32 + k)
  else []

/-- Put a long-latency instruction in flight in a lane (R22, R24). A uniform register is written by the lowest participant
alone; the others hold only the pending bit (R162). -/
def State.startLong (s : State) (a : Agent) (f : Fields) (lane lowest : Nat) (dsts : List Dst) (vs : List Word) (fl : BitVec 5)
    (wait : Option Nat) (ext : Nat) (parts : List (Nat × Option (List Byte)) := [])
    (look : Option Look := none) : State :=
  let w := (dsts.zip vs).filter fun p => match p.1 with
    | .uni _ => lane == lowest
    | _ => true
  { s.modThread a lane (fun t =>
      { t with long := t.long ++ [⟨s.fresh, t.boundFlag f, w, dsts, fl, wait, ext, parts, look⟩] }) with
    fresh := s.fresh + 1 }
/-- The same with D's registers as destination. -/
def State.longD (s : State) (a : Agent) (f : Fields) (lane lowest : Nat) (vs : List Word) (fl : BitVec 5) : State :=
  s.startLong a f lane lowest (s.dstsOf a f lane vs.length) vs fl none 0
/-- A pair at D will hold what the instruction reads between now and its completion (R279, R297, R326). -/
def State.longLook (s : State) (a : Agent) (f : Fields) (lane lowest : Nat) (k : Look) : State :=
  s.startLong a f lane lowest (s.dstsOf a f lane 2) [0, 0] 0 none 0 [] (some k)

end Sys2Proof.Machine
end

