-- ==== Sys2Proof/Machine/Issue.lean ====
section
/-! DEFINITION. Issuing one word: which lanes issue it (R155-R159, R193), the checks of R46 in their order, what the participants
do, and how the wheel goes on: traps, stalls, the operand latch, clauses, loop buffers and buffer mode
(spec/02, 03, 08; spec/20 R349). -/

namespace Sys2Proof.Machine

/-! ### The issuing group -/

/-- A thread counts in the broadcast choice: not exited, not in buffer mode, not waiting at `syncw`, not through with its
part of a save (R156, R193, R372). -/
def Thread.counts (t : Thread) : Bool := !t.exited && !t.bufMode && !t.waiting && !t.saveDone
/-- A thread in buffer mode that may issue. -/
def Thread.buffered (t : Thread) : Bool := !t.exited && t.bufMode && !t.waiting && !t.saveDone
/-- A buffer-mode thread whose turn may come (R159, R369). -/
def Thread.bufRuns (t : Thread) : Bool := t.buffered && !t.halted && !t.stopped

/-- The least PC among the threads that a test selects. -/
def lowestPc (l : List Thread) (p : Thread → Bool) : Option DWord :=
  (l.filter p).foldl (fun m t => match m with
    | none => some t.pc
    | some x => if t.pc.toNat < x.toNat then some t.pc else some x) none

/-- The broadcast PC (R156). -/
def State.broadcastPc (s : State) (a : Agent) : Option DWord := lowestPc (s.threads a) Thread.counts

/-- The word at an address in a loop buffer (R157). -/
def Thread.bufWord (t : Thread) (pc : DWord) : Option DWord := (t.loopBuf.find? (·.1 == pc)).map (·.2)

/-- Lanes leave buffer mode when the next word is not in their buffer, or at the broadcast PC (R158); not while an instruction stalls the whole
wheel (R235, R247). -/
def State.leaveBuffers (s : State) (a : Agent) : State :=
  match a with
  | .fe _ => s
  | _ =>
    if (s.threads a).all (fun t => !t.bufMode) || (s.fences a).stall.isSome then s
    else
      let s := s.modWheel a fun w => { w with threads := w.threads.map fun t =>
        if t.bufMode && (t.bufWord t.pc).isNone then { t with bufMode := false } else t }
      let b := s.broadcastPc a
      s.modWheel a fun w => { w with threads := w.threads.map fun t =>
        if t.bufMode && (b == some t.pc) then { t with bufMode := false } else t }

/-- The PC whose turn it is among the buffer-mode lanes of a wheel: they issue in increasing order of PC (R159), and after the highest
the lowest again, so each comes to its turn whatever PC the others hold (R160). -/
def State.bufPc (s : State) (a : Agent) : Option DWord :=
  let least := lowestPc (s.threads a) Thread.bufRuns
  match (s.wheel? a).bind Wheel.bufPc with
  | none => least
  | some p => if (s.threads a).any (fun t => t.bufRuns && t.pc == p) then some p else least
/-- The turn passes to the next PC above the last. -/
def State.nextBuf (s : State) (a : Agent) : State :=
  match a with
  | .buf _ _ =>
    -- a lane that stalls the wheel keeps its turn
    if (s.fences a).stall == some a then s else
    let up := match (s.wheel? a).bind Wheel.bufPc with
      | none => none
      | some p => lowestPc (s.threads a) fun t => t.bufRuns && decide (p.toNat < t.pc.toNat)
    let next := match up with
      | some p => some p
      | none => lowestPc (s.threads a) Thread.bufRuns
    s.modWheel a fun w => { w with bufPc := next }
  | _ => s
/-- The PC an agent issues at: the broadcast PC, or that of the buffer-mode lanes whose turn it is (R159). -/
def State.agentPc (s : State) (a : Agent) : Option DWord :=
  match a with
  | .buf _ _ => s.bufPc a
  | _ => s.broadcastPc a

/-- The lanes that issue together: PC equal, and neither halted by a debugger, nor stopped, nor in a trap that waits (R28, R155, R159, R369).
Buffer-mode lanes also hold the same word. -/
def State.group (s : State) (a : Agent) : List Nat :=
  match s.agentPc a with
  | none => []
  | some pc =>
    let l := (List.range (s.threads a).length).filter fun i =>
      let t := s.thread a i
      t.pc == pc && !t.halted && !t.stopped && t.due.isNone && (match a with
        | .buf _ _ => t.buffered
        | _ => t.counts)
    match a, l with
    | .buf _ _, i :: _ => l.filter fun j => (s.thread a j).bufWord pc == (s.thread a i).bufWord pc
    | _, _ => l

/-! ### Context and answer of an instruction's own operation -/

/-- What an instruction's own operation is given: its participants in increasing order, those still to perform (outside the
restart mask, R349), those that it has refused before it had to wait (R275), and the state before. -/
structure Ctx where
  a     : Agent
  f     : Fields
  pc    : DWord
  next  : DWord
  parts : List Nat
  todo  : List Nat
  lost  : List (Nat × FaultInfo)
  s0    : State

/-- The lowest participant (R5 Active); participants exist wherever it is used. -/
def Ctx.lowest (x : Ctx) : Nat := x.parts.headD 0
def Ctx.w (x : Ctx) (lane : Nat) (fld : Fld) : Word := x.s0.srcW x.a x.f lane fld
def Ctx.dw (x : Ctx) (lane : Nat) (fld : Fld) : DWord := x.s0.srcD x.a x.f lane fld
def Ctx.thread (x : Ctx) (lane : Nat) : Thread := x.s0.thread x.a lane

/-- What the operation answers: a state with faults of single lanes and the lanes whose PC it has set; one fault for every
participant (R349); a wheel-collective with a fault and the lanes done; or a wait, with the state of what has been done, the lanes done and
those refused. -/
inductive Body where
  | done (s : State) (faults : List (Nat × FaultInfo)) (moved : List Nat)
  | all (fi : FaultInfo)
  | coll (s : State) (fi : FaultInfo) (failed done : List Nat)
  | wait (s : State) (lane : Nat) (e : AErr) (stop : Bool) (done : List Nat) (lost : List (Nat × FaultInfo) := [])

/-- The bits of a list of lanes. -/
def laneMask (l : List Nat) : BitVec 32 := BitVec.ofNat 32 (l.foldl (fun n i => n ||| 2 ^ i) 0)

/-- A register-only instruction: each participant computes words for D and flags from the state before (R72). -/
def eachWrite (x : Ctx) (val : Nat → List Word × BitVec 5) : Body :=
  .done (x.todo.foldl (fun s lane =>
    let r := val lane
    (s.putD x.a x.f lane x.lowest r.1).modThread x.a lane fun t => t.raise r.2) x.s0) [] []

/-- A long-latency register-only instruction: the result is formed at issue and lands at completion (R24, R75). -/
def eachLong (x : Ctx) (val : Nat → List Word × BitVec 5) : Body :=
  .done (x.todo.foldl (fun s lane =>
    let r := val lane
    s.longD x.a x.f lane x.lowest r.1 r.2) x.s0) [] []

/-- A long-latency instruction whose pair is read at a moment between issue and completion (R279, R297, R326). -/
def eachLook (x : Ctx) (k : Nat → Look) : Body :=
  .done (x.todo.foldl (fun s lane => s.longLook x.a x.f lane x.lowest (k lane)) x.s0) [] []

/-- Each participant writes a guard. -/
def eachGuard (x : Ctx) (k : Nat) (val : Nat → Bool × BitVec 5) : Body :=
  .done (x.todo.foldl (fun s lane =>
    let r := val lane
    s.modThread x.a lane fun t => (t.setGuard k r.1).raise r.2) x.s0) [] []

/-! ### Stalls -/

/-- Every lane that waits leaves its request: one resolution serves them all (R221) (DEDUCED, log 19). -/
def State.stallAll {α : Type} (s : State) (a : Agent) (lanes : List Nat) (chk : Nat → Except AErr α) : State :=
  lanes.foldl (fun t l => match chk l with
    | .error (.fault _) => t
    | .error e => t.stallOn a l e
    | .ok _ => t) s

/-- One lane's part after those of the lower lanes: their state and faults, and the lane that waits. -/
def laneStep (op : State → Nat → Except AErr State) (r : State × List (Nat × FaultInfo) × Option (Nat × AErr)) (lane : Nat) :
    State × List (Nat × FaultInfo) × Option (Nat × AErr) :=
  match r.2.2 with
  | some _ => r
  | none =>
    match op r.1 lane with
    | .ok s => (s, r.2.1, none)
    | .error (.fault fi) => (r.1, r.2.1 ++ [(lane, fi)], none)
    | .error e => (r.1, r.2.1, some (lane, e))
/-- An instruction that acts in each lane on its own (R349): lanes in increasing order over one state; a fault stays in its
lane, a wait holds the whole issue. -/
def eachLane (x : Ctx) (op : State → Nat → Except AErr State) : Body :=
  let r := x.todo.foldl (laneStep op) (x.s0, [], none)
  match r.2.2 with
  | some (lane, e) => .wait (x.s0.stallAll x.a x.todo (op x.s0)) lane e false []
  | none => .done r.1 r.2.1 []

/-! ### Debugger stops (R369) -/

/-- A debugger has claimed the breakpoints of the agent's mill (R369). -/
def State.breakClaimed (s : State) (a : Agent) : Bool :=
  match a.mill.bind s.mill? with
  | some m => m.claimed
  | none => false
/-- A thread stops for a debugger: its outstanding instructions complete as soon as they can (R369). -/
def State.haltLane (s : State) (a : Agent) (lane : Nat) : State :=
  let s := s.completeAll a lane
  s.modThread a lane fun t => { t with halted := true, haltDue := false }
/-- A breakpoint halts the wheel (R369): these threads stop here, as do those whose header is due, and the others at their next clause
header. -/
def State.haltWheel (s : State) (a : Agent) (lanes : List Nat) : State :=
  (List.range (s.threads a).length).foldl (fun s l =>
    if (s.thread a l).exited || (s.thread a l).halted then s
    else if lanes.contains l || (s.thread a l).clause.isNone then s.haltLane a l
    else s.modThread a l fun t => { t with haltDue := true }) s
/-- A debugger has set an address match at the lane's PC, and neither it nor the return from that match's own breakpoint trap has just
let the lane go on from there (R348, R369). -/
def State.matchedAt (s : State) (a : Agent) (lane : Nat) : Bool :=
  let t := s.thread a lane
  t.resumed != some t.pc && (match a.mill with
    | some uid => s.watch.contains (uid, t.pc)
    | none => false)

/-! ### Going on -/

/-- The words of an instruction as a loop buffer holds them: two entries for the longer forms (R157). -/
def bufEntries (pc : DWord) (w : BitVec 128) (size : Nat) : List (DWord × DWord) :=
  if size ≤ 8 then [(pc, w.setWidth 64)] else [(pc, w.setWidth 64), (pc + 8, (w >>> 64).setWidth 64)]
/-- Executed words enter the buffer of 48, the least recently executed ones leave (R157). -/
def Thread.remember (t : Thread) (es : List (DWord × DWord)) : Thread :=
  let l := (t.loopBuf.filter fun e => !es.any (·.1 == e.1)) ++ es
  { t with loopBuf := l.drop (l.length - 48) }

/-- After a word: the thread is past it, its refused pages, its stopping point and its restart mask are spent. -/
def Thread.settle (t : Thread) : Thread := 
  { t with refused := [], blocked := false, entryDue := false, armed := none, resumed := none }

/-- Lanes that took a backward branch enter buffer mode when the rest of the wheel is elsewhere and the target is in their
buffer (R158). The broadcast PC that they are compared with is the one that the lanes outside the branch give, and without such a lane the
lowest that the branch itself gives: a lane elsewhere enters (DEDUCED, log 53). -/
def State.enterBuffers (s : State) (a : Agent) (back : List Nat) : State :=
  if back.isEmpty then s
  else
    let others := (List.range (s.threads a).length).filter fun i => !back.contains i
    match (lowestPc (others.map (s.thread a)) Thread.counts).or (lowestPc (back.map (s.thread a)) Thread.counts) with
    | none => s
    | some b =>
      back.foldl (fun s lane => s.modThread a lane fun t =>
        if t.pc != b && (t.bufWord t.pc).isSome then { t with bufMode := true } else t) s

/-- Waiting threads are released together once no thread of the wheel is neither exited nor waiting; a halted one is not waiting (R193). -/
def State.releaseSync (s : State) (a : Agent) : State :=
  if (s.threads a).any (fun t => t.waiting) && (s.threads a).all (fun t => t.exited || t.waiting && !t.halted) then
    s.modWheel a fun w => { w with threads := w.threads.map fun t => { t with waiting := false } }
  else s

/-- A main wheel all of whose threads have exited loses its claims (R161, R173); a handler wheel loses them as it retires. -/
def State.releaseClaims (s : State) (a : Agent) : State :=
  match a.mill with
  | none => s
  | some uid =>
    if (s.threads a).all (·.exited) && (match s.wheel? a with
        | some w => !w.handler
        | none => false) then
      s.modMill uid fun m => { m with claims := m.claims.filter fun p => p.2 != a.wheelIdx + 1 }
    else s

/-- A clause holding a `yield` has ended: the gang's slice ends here (R201). -/
def State.markYield (s : State) (a : Agent) (yes : Bool) : State :=
  if yes then match s.gangOf a with
    | some g => s.modGang g fun g => { g with yield := true }
    | none => s
  else s

/-- Take the traps of a list of lanes, one after another. -/
def State.takeTraps (s : State) (a : Agent) (pc : DWord) (l : List (Nat × FaultInfo × Option (BitVec 32))) : State :=
  l.foldl (fun s p => s.trap a p.1 p.2.1 pc p.2.2) s

/-- The rest of an issue: lanes that trap keep their PC (but for `trap` and `bkpt`), the others go on; the latch shifts and
ages in the whole wheel (R26) unless every issuing lane traps (R6), executed words enter the loop buffers. `f0` are the fields as the word
has them. -/
def finishIssue (x : Ctx) (f0 : Fields) (sh : Shape) (group : List Nat) (w : Option (BitVec 128)) (size : Nat) (skip : List Nat)
    (s : State) (traps : List (Nat × FaultInfo × Option (BitVec 32))) (moved : List Nat) : Out :=
  let stuck := (traps.filter fun t => !t.2.1.after).map Prod.fst
  let go := group.filter fun l => !stuck.contains l
  let yes := go.any fun l => ((x.thread l).yielding || (s.thread x.a l).yielding) && (x.thread l).atLast
  -- the latch
  let s := (List.range (s.threads x.a).length).foldl (fun s l =>
    if stuck.contains l || go.isEmpty then s
    else
      let s := s.modThread x.a l Thread.ageLatch
      match heldField x.f with
      | none => s
      | some fld =>
        let v := if skip.contains l then x.s0.heldQuiet x.a f0 x.f sh l fld
          else if group.contains l then x.s0.heldValue x.a x.f sh l fld else none
        s.modThread x.a l fun t => t.capture v) s
  -- the PCs
  let s := go.foldl (fun s l => s.modThread x.a l fun t =>
    let t := if moved.contains l then t else t.advance x.next
    let t := match w, x.a with
      | _, .fe _ => t
      | some w, _ => t.remember (bufEntries x.pc w size)
      | none, _ => t
    -- the mask that `rfe` has just armed, and the match it goes on from, are not spent by the `rfe`
    if moved.contains l then { t.settle with armed := t.armed, resumed := if (x.thread l).resumed = t.resumed then none else t.resumed }
    else t.settle) s
  let s := s.markYield x.a yes
  let s := ((s.endWait x.a).takeTraps x.a x.pc traps).dropUsed x.a group
  let s := stuck.foldl (fun s l => s.modThread x.a l fun t => { t with refused := [] }) s
  let back := moved.filter fun l =>
    sh.transfer && (s.thread x.a l).pc.toNat < x.pc.toNat && (x.thread l).depth == (s.thread x.a l).depth
  let s := match x.a with
    | .wheel _ _ => s.enterBuffers x.a back
    | _ => s
  .next ((s.releaseSync x.a).releaseClaims x.a)

/-! ### The checks of R46 -/

/-- The opcodes that a front-end core executes (R33). -/
def feExecutes (op : Nat) : Bool :=
  op ≤ 0x22 || (0x40 ≤ op && op ≤ 0x55) || (0x60 ≤ op && op ≤ 0x74) || op == 0x77 || op == 0x78 ||
  (0xB0 ≤ op && op ≤ 0xB4)

/-- How a lane stands before the instruction's own operation: `own` is a fault of its own reads or writes, in a lane that is Active (R5). -/
inductive LaneCheck where
  | go | skip
  | bad (fi : FaultInfo)
  | own (fi : FaultInfo)
  | haz (sub : Nat)
  deriving DecidableEq, Repr

/-- The fault a check raised in the lane alone; the hazard code of a word that the whole wheel takes; a lane that takes part. -/
def laneBad (p : Nat × LaneCheck) : Option (Nat × FaultInfo) :=
  match p.2 with
  | .bad fi => some (p.1, fi)
  | .own fi => some (p.1, fi)
  | _ => none
def laneHaz (p : Nat × LaneCheck) : Option (Nat × Nat) :=
  match p.2 with
  | .haz k => some (p.1, k)
  | _ => none
def laneRuns (p : Nat × LaneCheck) : Bool := p.2 == .go || (laneHaz p).isSome
/-- The lane is Active: its guard test passed and no source is suppressed (R5, R42, R175). -/
def laneActive (p : Nat × LaneCheck) : Bool := laneRuns p || (match p.2 with
  | .own _ => true
  | _ => false)
/-- A restart mask holds the lane done at this word (R349). -/
def Thread.doneAt (t : Thread) (pc : DWord) (lane : Nat) : Bool :=
  match t.armed with
  | some m => m.pc == pc && m.done.getLsbD lane
  | none => false
/-- The lanes that the word has refused while it waits (R275). -/
def Thread.lostAt (t : Thread) (pc : DWord) : List (Nat × FaultInfo) :=
  match t.armed with
  | some m => if m.pc = pc then m.lost.map fun e => (e.1, { cls := e.2.1, sub := e.2.2.1, info0 := e.2.2.2.1, info1 := e.2.2.2.2 }) else []
  | none => []
/-- A refused lane as the mask keeps it. -/
def lostOf (p : Nat × FaultInfo) : Nat × Nat × Nat × DWord × DWord := (p.1, p.2.cls, p.2.sub, p.2.info0, p.2.info1)

/-- The fields as they are read: `topk` and `sortw` read A in the own lane (R189). -/
def ownFields (f : Fields) (sh : Shape) : Fields := if sh.ownA then { f with an := 0 } else f

/-- The checks in the order of R46, for one lane; a lane select is checked (R42) even where it is not used (R189). What a restarted collective has done in a lane is not checked again (R349). -/
def State.checkLane (s : State) (a : Agent) (op : BitVec 8) (f0 : Fields) (sh : Shape) (lane : Nat) : LaneCheck :=
  let t := s.thread a lane
  let f := ownFields f0 sh
  if t.clause.isNone then .bad { cls := 4, sub := if t.entryDue then 0 else 2 }
  else if sh.transfer && !t.atLast then .bad { cls := 4, sub := 4 }
  else if !subListed op f.sub then .bad { cls := 1, sub := if opListed op then 1 else 0 }
  else if (match a with
      | .fe _ => !feExecutes op.toNat
      | _ => false) then .bad { cls := 1, sub := 3 }
  else if f.g != 0 && t.pending (.guard f.g.toNat) then .bad { cls := 3, sub := 0 }
  else if (t.guard f.g.toNat != (f.gn == 0)) || suppressed a f (s.ownShape a f sh lane) lane then .skip
  else match operandSub f0 sh with
    | some k => .bad { cls := 2, sub := k }
    | none =>
      if t.doneAt t.pc lane then .go
      else match s.hazardSub a f (s.ownShape a f sh lane) lane with
      | some k => if sh.allHaz then .haz k else .own { cls := 3, sub := k }
      | none => if s.readsPoison a f (s.ownShape a f sh lane) lane then .own { cls := 0x0C, sub := 2 } else .go

/-- The registers of D, or the one `smov` names, are uniform ones that the wheel has not claimed (R162). -/
def State.unclaimed (s : State) (a : Agent) (f : Fields) (sh : Shape) : Bool :=
  (sh.uWrite.any fun n => !s.hasClaim a n) || sh.dWrite && 32 ≤ f.d.toNat && f.d.toNat < 48 &&
    (List.range sh.d.regs).any fun k => !s.hasClaim a (f.d.toNat - 32 + k)

/-- Issue one instruction word in the current agent's group: every check, the operation of the participants, and the rest (DEDUCED, log 27). -/
def issue (op : BitVec 8) (shape : Fields → Agent → Shape) (body : Ctx → Body) (f : Fields) (st : State) : Out :=
  let a := st.cur
  if (st.threads a).isEmpty then .fault .noAgent
  else
    let s := st.leaveBuffers a
    let group := s.group a
    match group with
    | [] => .next s
    | l0 :: _ =>
      let pc := (s.thread a l0).pc
      let size := lenBytes f.len
      let sh := shape f a
      let g := ownFields f sh
      let cks := group.map fun l => (l, s.checkLane a op f sh l)
      let bads := cks.filterMap laneBad
      let hazs := cks.filterMap laneHaz
      let skip := (cks.filter fun p => p.2 == .skip).map Prod.fst
      let parts := (cks.filter laneActive).map Prod.fst
      let runs := (cks.filter laneRuns).map Prod.fst
      let done := runs.filter fun l => (s.thread a l).doneAt pc l
      let lost := (s.thread a (runs.headD 0)).lostAt pc
      let todo := runs.filter fun l => !done.contains l && !lost.any (·.1 == l)
      let x : Ctx := ⟨a, g, pc, pc + BitVec.ofNat 64 size, parts, todo, lost, s⟩
      let w := some (encodeFields op f)
      let base := bads.map fun p => (p.1, p.2, (none : Option (BitVec 32)))
      let everyone := fun fi => runs.map fun l => (l, fi, (none : Option (BitVec 32)))
      let held := fun (s : State) (ok : List Nat) (bad : List (Nat × FaultInfo)) => if ok.isEmpty && bad.isEmpty then s
        else runs.foldl (fun s l => s.modThread a l fun t =>
          { t with armed := some ⟨t.depth, pc, laneMask (done ++ ok), bad.map lostOf⟩ }) s
      if runs.isEmpty then finishIssue x f sh group w size skip s base []
      else match hazs with
        | (_, k) :: _ => finishIssue x f sh group w size skip s
          (base ++ everyone { cls := 3, sub := k, lanes := some (laneMask (hazs.map Prod.fst), 0) }) []
        | [] =>
          if s.unclaimed a g sh then finishIssue x f sh group w size skip s (base ++ everyone { cls := 0x0D, sub := 0 }) []
          else match body x with
            | .done s' faults moved =>
              finishIssue x f sh group w size skip s' (base ++ faults.map fun p => (p.1, p.2, none)) moved
            | .all fi => finishIssue x f sh group w size skip s (base ++ everyone fi) []
            | .coll s' fi failed ok =>
              let m := laneMask (done ++ ok)
              let fi := { fi with lanes := some (laneMask failed, m) }
              finishIssue x f sh group w size skip s' (base ++ runs.map fun l => (l, fi, some m)) []
            | .wait s' lane e stop ok bad =>
              let s1 := (if stop then s'.stallWheel a else s').stallOn a lane e
              .next (runs.foldl (fun s l => s.modThread a l fun t => { t with blocked := stop }) (held s1 ok bad))

end Sys2Proof.Machine
end

