-- ==== Sys2Proof/Machine/Control.lean ====
section
/-! DEFINITION. Control transfers, traps, system registers, window moves, `pause` and `snap`, opcodes 0x60-0x6F
(spec/06_control_and_memory_instructions.md R102-R116; spec/12 R259). -/

namespace Sys2Proof.Machine

/-! ### Transfers (R102-R108) -/

/-- One lane's transfer after those of the lower lanes: their state, faults and moved lanes, and the lane that waits. -/
def jumpStep (op : State → Nat → Except AErr (State × Bool)) (r : State × List (Nat × FaultInfo) × List Nat × Option (Nat × AErr))
    (lane : Nat) : State × List (Nat × FaultInfo) × List Nat × Option (Nat × AErr) :=
  match r.2.2.2 with
  | some _ => r
  | none =>
    match op r.1 lane with
    | .ok (s, m) => (s, r.2.1, if m then r.2.2.1 ++ [lane] else r.2.2.1, none)
    | .error (.fault fi) => (r.1, r.2.1 ++ [(lane, fi)], r.2.2.1, none)
    | .error e => (r.1, r.2.1, r.2.2.1, some (lane, e))
/-- A transfer in each lane: the lanes whose operation sets the PC are moved, a fault stays in its lane (R103). -/
def eachJump (x : Ctx) (op : State → Nat → Except AErr (State × Bool)) : Body :=
  let r := x.todo.foldl (jumpStep op) (x.s0, [], [], none)
  match r.2.2.2 with
  | some (lane, e) => .wait x.s0 lane e false []
  | none => .done r.1 r.2.1 r.2.2.1

/-- PC + sext64(a) (R102). -/
def Ctx.relative (x : Ctx) (lane : Nat) : DWord := x.pc + sext64 (x.w lane .A)
/-- Execution goes on at a target, where a header is due; what the core has renewed so far is seen from here on (R258). -/
def State.goTo (s : State) (a : Agent) (lane : Nat) (target : DWord) : State :=
  (s.keepFetch a lane target).modThread a lane fun t => { t with pc := target, clause := none, jumped := s.code.length }
/-- Check the target's word, then go there (R103 steps 2 and 4). -/
def State.branch (s : State) (a : Agent) (lane : Nat) (target : DWord) : Except AErr (State × Bool) := do
  let _ ← s.fetchHeader a lane target
  pure (s.goTo a lane target, true)

def execBra (f : Fields) (s : State) : Out :=
  issue 0x60 (fun _ _ => { a := .word, transfer := true })
    (fun x => eachJump x fun s l => s.branch x.a l (x.relative l)) f s
def execBrx (f : Fields) (s : State) : Out :=
  issue 0x61 (fun _ _ => { a := .pair, transfer := true })
    (fun x => eachJump x fun s l => s.branch x.a l (x.dw l .A)) f s

/-- A call (R104): the target checked, the link written in the caller's window, the depth raised, the PC set. -/
def State.callTo (s : State) (x : Ctx) (lane : Nat) (target : DWord) : Except AErr (State × Bool) := do
  let _ ← s.fetchHeader x.a lane target
  let s := s.putD x.a x.f lane x.lowest [x.next.lo, x.next.hi]
  let s ← s.riseDepth x.a lane x.pc s.fresh
  pure (s.goTo x.a lane target, true)
def execCall (f : Fields) (s : State) : Out :=
  issue 0x62 (fun _ _ => { d := .pair, a := .word, transfer := true })
    (fun x => eachJump x fun s l => s.callTo x l (x.relative l)) f s
def execCallx (f : Fields) (s : State) : Out :=
  issue 0x63 (fun _ _ => { d := .pair, a := .pair, transfer := true })
    (fun x => eachJump x fun s l => s.callTo x l (x.dw l .A)) f s
/-- A return (R105). -/
def execRet (f : Fields) (s : State) : Out :=
  issue 0x64 (fun _ _ => { a := .pair, transfer := true })
    (fun x => eachJump x fun s l => do
      let target := x.dw l .A
      let _ ← s.fetchHeader x.a l target
      let s ← s.lowerDepth x.a l
      pure (s.goTo x.a l target, true)) f s
/-- The counter falls by one, and the branch is taken while it is not zero (R107). A branch not taken fetches no target (DEDUCED, log 30). -/
def execLoop (f : Fields) (s : State) : Out :=
  issue 0x65 (fun _ _ => { d := .word, dRead := true, a := .word, transfer := true })
    (fun x => eachJump x fun s l =>
      let n := x.s0.srcDst x.a x.f l 0 - 1
      if n = 0 then pure (s.putD x.a x.f l x.lowest [n], false)
      else do
        let _ ← s.fetchHeader x.a l (x.relative l)
        pure ((s.putD x.a x.f l x.lowest [n]).goTo x.a l (x.relative l), true)) f s

/-- The thread ends (R108); on a front-end core its run ends (R401). A posted fault that still waits for the thread's next header is from here on
that of a thread which has exited (R353). -/
def State.endThread (s : State) (a : Agent) (lane : Nat) : Except AErr State :=
  let t := s.thread a lane
  let s1 := s.modThread a lane fun t => { t with exited := true, posted := [] }
  match t.posted, a with
  | [], .fe n => .ok (s1.modFe n fun c => { c with run := none })
  | p :: l, .fe n => .ok ((p :: l).foldl (fun s p => s.deviceRecord 2 p.fr.status (bytesOfNat 4 0 ++ p.fr.bytes.take 16))
      (s1.modFe n fun c => { c with run := none }))
  | [], _ => .ok s1
  | p :: _, _ =>
    let r := if p.written then p.fr else { p.fr with seq := BitVec.ofNat 64 (t.recCount + 1) }
    match (if p.written then .ok s1 else s1.writeRecAt a lane r.pc t.sys.frp r) with
    | .error (.fault _) => .ok (s1.escalate a lane r true)
    | .error e => .error e
    | .ok s2 => .ok (match a.mill with
      | some uid => s2.millError uid r
      | none => s2)
/-- On a front-end core `exit` waits until every fence slot it holds has completed (R246). -/
def execExit (f : Fields) (s : State) : Out :=
  issue 0x66 (fun _ _ => { transfer := true })
    (fun x =>
      if x.a.mill.isNone && (x.s0.fences x.a).slots.any Option.isSome then .wait x.s0 x.lowest .stall false []
      else eachLane x fun s l => s.endThread x.a l) f s

/-! ### Traps (R109, R110) -/

def execTrap (f : Fields) (s : State) : Out :=
  issue 0x67 (fun _ _ => {})
    (fun x => .done x.s0 (x.todo.map fun l => (l, { cls := 0x31, sub := x.f.mod.toNat % 256, after := true })) []) f s
def execBkpt (f : Fields) (s : State) : Out :=
  issue 0x68 (fun _ _ => {})
    (fun x =>
      if x.s0.breakClaimed x.a then .done (x.s0.haltWheel x.a x.todo) [] []
      else .done x.s0 (x.todo.map fun l => (l, { cls := 0x30, sub := 0, after := true })) []) f s
def execRfe (f : Fields) (s : State) : Out :=
  issue 0x6B (fun _ _ => { transfer := true })
    (fun x => eachJump x fun s l => do pure (← s.returnFrom x.a l, true)) f s

/-! ### System registers (R18, R111, R112) -/

/-- `tcause` as it is read: bits 63:32 and 23:22 are zero (R30). -/
def SysRegs.causeRead (r : SysRegs) : DWord := r.tcause &&& 0xFF3FFFFF
/-- A system register as `mfs` reads it; none for an index the agent does not have. -/
def State.sysGet (s : State) (a : Agent) (lane idx : Nat) : Option DWord :=
  let t := s.thread a lane
  let own := fun (x : DWord) => match a with
    | .fe _ => (0 : DWord)
    | _ => x
  match idx with
  | 0x00 => some t.sys.tvec
  | 0x01 => some t.sys.tpc
  | 0x02 => some t.sys.causeRead
  | 0x03 => some t.sys.frp
  | 0x04 => some t.sys.wsp
  | 0x05 => some t.sys.wlim
  | 0x06 => some (dwordOf t.depth)
  | 0x07 => some t.sys.fmode
  | 0x08 => some t.sys.fstat
  | 0x09 => some (s.clockOf a)
  | 0x0A => some (match a.mill.bind s.mill? with
    | some m => dwordOf m.bud
    | none => 0)
  | 0x0B => some (own (dwordOf lane))
  | 0x0C => some (own (dwordOf a.wheelIdx))
  | 0x0D => some (match a.mill.bind s.mill? with
    | some m => dwordOf m.f2
    | none => 0)
  | 0x0E => some (own (dwordOf t.hpat))
  | 0x0F => match a with
    | .fe _ => some t.sys.xroot
    | _ => none
  | 0x10 => match a with
    | .fe _ => some t.sys.xkey
    | _ => none
  | _ => none
/-- Registers that `mts` may not write. -/
def sysReadOnly (idx : Nat) : Bool := idx == 0x06 || (0x09 ≤ idx && idx ≤ 0x0E)
/-- `mts`: bits are stored as written (R111). -/
def SysRegs.put (r : SysRegs) (idx : Nat) (v : DWord) : SysRegs :=
  match idx with
  | 0x00 => { r with tvec := v }
  | 0x01 => { r with tpc := v }
  | 0x02 => { r with tcause := v }
  | 0x03 => { r with frp := v }
  | 0x04 => { r with wsp := v }
  | 0x05 => { r with wlim := v }
  | 0x07 => { r with fmode := v }
  | 0x08 => { r with fstat := v }
  | 0x0F => { r with xroot := v }
  | 0x10 => { r with xkey := v }
  | _ => r
/-- MOD[7:0]. -/
def sysIndex (f : Fields) : Nat := f.mod.toNat % 256

def execMfs (f : Fields) (s : State) : Out :=
  issue 0x69 (fun _ _ => { d := .pair })
    (fun x => eachLane x fun s l =>
      match x.s0.sysGet x.a l (sysIndex x.f) with
      | some v => .ok (s.putD x.a x.f l x.lowest [v.lo, v.hi])
      | none => .error (.fault { cls := 5, sub := 0 })) f s
def execMts (f : Fields) (s : State) : Out :=
  issue 0x6A (fun _ _ => { a := .pair })
    (fun x => eachLane x fun s l =>
      match x.s0.sysGet x.a l (sysIndex x.f) with
      | none => .error (.fault { cls := 5, sub := 0 })
      | some _ =>
        if sysReadOnly (sysIndex x.f) then .error (.fault { cls := 5, sub := 1 })
        else .ok (s.modThread x.a l fun t => { t with sys := t.sys.put (sysIndex x.f) (x.dw l .A) })) f s

/-! ### `pause` (R259) -/

/-- The pause count replaces what remains; 0 has no effect. -/
def State.pauseFor (s : State) (a : Agent) (n : Nat) : State :=
  if n = 0 then s
  else match a with
    | .fe k => s.modFe k fun c => { c with paused := n }
    | _ => s.modWheel a fun w => { w with paused := n }
def execPause (f : Fields) (s : State) : Out :=
  issue 0x6C (fun _ _ => { a := .word }) (fun x => .done (x.s0.pauseFor x.a ((x.w x.lowest .A).toNat % 65536)) [] []) f s

/-! ### Moving all windows (R113-R115) -/

/-- Spill the windows of a list in order, each leaving the chip as its image is written (R113). -/
def State.spillDown (s : State) (a : Agent) (lane : Nat) (pc : DWord) (since : Nat) : List Nat → State × Option AErr
  | [] => (s, none)
  | k :: ks =>
    match s.spillImage a lane pc k (s.thread a lane).sys.wsp since with
    | .error e => (s, some e)
    | .ok s => (s.modThread a lane fun t =>
        { t.dropWin k with low := k + 1, sys := { t.sys with wsp := t.sys.wsp + 96 } }).spillDown a lane pc since ks
/-- `wspill` in one lane; a fault on a later image keeps the earlier ones. With a pending window it writes nothing, and the window is
resident from then on (R113, R433). Its images are the accesses of one instruction, from `since` on. -/
def State.spillAll (s : State) (a : Agent) (lane : Nat) (pc : DWord) (since : Nat) : State × Option AErr :=
  let t := s.thread a lane
  if t.winPending then (s.modThread a lane fun t => { t with low := t.depth, winPending := false }, none)
  else if t.sys.wsp.toNat % 4 != 0 then (s, some (.fault (wspMisaligned .spill t.sys.wsp)))
  else if t.sys.wsp.toNat + 96 * (t.depth - t.low + 1) > t.sys.wlim.toNat then
    (s, some (.fault { cls := 0x0E, sub := 0, va := t.sys.wsp, access := accessField .spill .glob 64 }))
  else if t.pendingIn (24 * t.low) (24 * t.depth + 24) then (s, some .stall)
  else
    match s.spillDown a lane pc since ((List.range (t.depth - t.low)).map fun i => t.low + i) with
    | (s, some e) => (s, some e)
    | (s, none) =>
      match s.spillImage a lane pc t.depth (s.thread a lane).sys.wsp since with
      | .ok s => (s, none)
      | .error e => (s, some e)
/-- One lane's spill after those of the lower lanes; a lane's fault keeps what it has written. -/
def spillStep (a : Agent) (pc : DWord) (r : State × List (Nat × FaultInfo) × Option (Nat × AErr)) (lane : Nat) :
    State × List (Nat × FaultInfo) × Option (Nat × AErr) :=
  match r.2.2 with
  | some _ => r
  | none =>
    match r.1.spillAll a lane pc r.1.fresh with
    | (s, none) => (s, r.2.1, none)
    | (s, some (.fault fi)) => (s, r.2.1 ++ [(lane, fi)], none)
    | (s, some e) => (s, r.2.1, some (lane, e))
/-- Every lane spills; a wait undoes the issue. -/
def execWspill (f : Fields) (s : State) : Out :=
  issue 0x6D (fun _ _ => {})
    (fun x =>
      let r := x.todo.foldl (spillStep x.a x.pc) (x.s0, [], none)
      match r.2.2 with
      | some (l, e) => .wait x.s0 l e false []
      | none => .done r.1 r.2.1 []) f s
/-- `wfill`: the image at `wsp` becomes the current window, and every window below is non-resident (DEDUCED, log 31). -/
def State.fillCurrent (s : State) (a : Agent) (lane : Nat) : Except AErr State :=
  let t := s.thread a lane
  if t.sys.wsp.toNat % 4 != 0 then .error (.fault (wspMisaligned .fill t.sys.wsp))
  else if t.pendingIn (24 * t.depth) (24 * t.depth + 32) then .error .stall
  else do
    let (bs, s) ← s.fillImage a lane t.sys.wsp
    pure (s.modThread a lane fun t =>
      { (t.unimage t.depth bs) with
        stack := sclear (t.unimage t.depth bs).stack 0 (24 * t.depth), low := t.depth, winPending := false })
def execWfill (f : Fields) (s : State) : Out :=
  issue 0x6E (fun _ _ => {}) (fun x => eachLane x fun s l => s.fillCurrent x.a l) f s

/-! ### `snap` (R116) -/

/-- One trigger, however many participants: triggers that arrive together are one snapshot. -/
def execSnap (f : Fields) (s : State) : Out := issue 0x6F (fun _ _ => {}) (fun x => .done x.s0.latch [] []) f s

end Sys2Proof.Machine
end

