-- ==== Sys2Proof/Machine/Fetch.lean ====
section
/-! DEFINITION. Time, and the fetch of the word an agent issues next: broadcast fetch, loop buffers, the 32-byte fetch boundary
(spec/02 R20, R25; spec/08 R155-R160; spec/20 R356). -/

namespace Sys2Proof.Machine

/-- Take cycles off a count that stops at 0. -/
def down (x n : Nat) : Nat := if x = 0 then 0 else x - n

/-- A mill's slice budget runs: it is resident, no mill of its gang is frozen, and the gang neither saves nor restores (R356). -/
def State.budgetRuns (s : State) (m : Mill) : Bool :=
  m.st == .running && (match s.gang? m.gang with
    | some g => g.save.isNone && !g.restoring && !(g.mills.filterMap s.mill?).any (·.frozen)
    | none => false)

/-- A wheel sees the next values of a uniform register: `k` of them by choice, and every one that is 16 cycles old (R163). -/
def Behind.catchUp (e : Behind) (clk k : Nat) : Option Behind :=
  let n := max k (e.next.takeWhile fun v => decide (16 ≤ clk - v.2)).length
  if n = 0 then some e
  else match e.next.drop (n - 1) with
    | v :: w :: l => some { e with old := v.1, next := w :: l }
    | _ => none
/-- Cycles pass for everything at once. -/
def State.pass (s : State) (n : Nat) : State :=
  { s with
    clk := s.clk + n
    feClk := s.feClk + n
    mills := s.mills.map fun m =>
      { m with
        bud := if s.budgetRuns m then down m.bud n else m.bud
        behind := m.behind.filterMap fun e => e.catchUp (s.clk + n) (s.pick 5 (32 * e.reg + e.whl))
        ctxs := if m.st == .running && !m.frozen then
            m.ctxs.map fun c => { c with walks := c.walks.map fun w => w.charge n (s.tokenFree m.core) }
          else m.ctxs
        wheels := m.wheels.map fun w => { w with paused := down w.paused n } }
    fe := s.fe.map fun c => { c with paused := down c.paused n } }
/-! ### The save limit (R362) -/

/-- The save in progress of an agent's gang. -/
def State.saving (s : State) (a : Agent) : Option SaveReq := (s.gangOf a).bind fun g => (s.gang? g).bind (·.save)
/-- Every thread has executed `savedone` or exited. -/
def Wheel.saved (w : Wheel) : Bool := w.threads.all fun t => t.exited || t.saveDone
/-- The save limit has passed since the wheel's first entry, and the wheel is not done. -/
def State.saveLate (s : State) (a : Agent) : Bool :=
  match s.wheel? a, s.saving a with
  | some x, some _ => (match x.saveFrom with
    | some t0 => !x.saved && decide (s.clk - t0 ≥ Config.saveLimit)
    | none => false)
  | _, _ => false
/-- The mill of a wheel whose save is late is in error, with a record of class 0x21, subcode 2. -/
def State.lateSave (s : State) (uid w : Nat) : State :=
  if s.saveLate (.wheel uid w) then s.millError uid (s.mkRec (.wheel uid w) 0 { cls := 0x21, sub := 2 } 0 0) else s
/-- The error comes with the cycle that completes the limit. -/
def State.lateSaves (s : State) : State :=
  if s.gangs.all (·.save.isNone) then s
  else s.mills.foldl (fun s m => (List.range m.wheels.length).foldl (fun s w => s.lateSave m.uid w) s) s
/-- Time passes after what a step does: how many cycles is free (R75, DESIGN CHOICE, log 2). -/
def State.tick (s : State) : State := { (s.pass (Config.elapsed s.steps)).latchDue.lateSaves with steps := s.steps + 1 }
def spend : Out → Out
  | .next s => .next s.tick
  | o => o

/-- What a fetch comes to: an answer already, or an instruction to execute in a state. -/
inductive Fetched where
  | out (o : Out)
  | run (i : Instr) (s : State)

/-- The word at the PC is at fault for the whole group, each lane by its own clause (R25, R44, R46). -/
def groupFault (s : State) (a : Agent) (pc : DWord) (group : List Nat) (fi : Nat → FaultInfo) : Out :=
  .next ((s.takeTraps a pc (group.map fun l => (l, fi l, none))).releaseSync a)

/-- A word that crosses the fetch boundary (R25, R36): where a thread starts with no header the lower subcode comes first (R46). -/
def crossing (s : State) (a : Agent) (header : Bool) (lane : Nat) : FaultInfo :=
  let t := s.thread a lane
  { cls := 4, sub := if t.clause.isNone && !header && t.entryDue then 0 else 1 }
/-- No instruction: outside a clause a header was due, which is the branch-target fault first (R46). A thread's first word counts as the
target of the transfer that started it, subcode 0 (DEDUCED, log 53). -/
def badWord (s : State) (a : Agent) (sub lane : Nat) : FaultInfo :=
  let t := s.thread a lane
  if t.clause.isNone then { cls := 4, sub := if t.entryDue then 0 else 2 } else { cls := 1, sub := sub }

/-- The gang has been placed again and not yet restored (R368). -/
def State.restoring (s : State) (gang : Nat) : Bool :=
  match s.gang? gang with
  | some g => g.restoring
  | none => false
/-- The agent may issue: its mill runs, its handler instance has begun (R270), no front-end pause is left (R259), and no `fence` or `fwait`
of the wheel's other lanes stalls the wheel (R235, R247). -/
def State.mayIssue (s : State) (a : Agent) : Bool :=
  match a with
  | .fe n => match s.fe[n]? with
    | some c => c.paused == 0
    | none => false
  | _ => match a.mill.bind s.mill?, s.wheel? a with
    | some m, some w => m.st == .running && !s.restoring m.gang && (w.fences.stall == none || w.fences.stall == some a) && (match w.inst with
        | some i => i.begun
        | none => !w.handler)
    | _, _ => false

/-- The word's bits for a group: from the lanes' loop buffers in buffer mode, else from memory (R155, R158); lanes whose wait stalls the wheel
stay in buffer mode even where the buffer has lost the word. -/
def State.fetchWord (s : State) (a : Agent) (lane : Nat) (pc : DWord) (off n : Nat) : Except AErr (List Byte) :=
  match a with
  | .buf _ _ =>
    match (s.thread a lane).bufWord (pc + BitVec.ofNat 64 off) with
    | some w => .ok ((bytesOfNat 8 w.toNat).take n)
    | none => s.fetchBytes a lane (pc + BitVec.ofNat 64 off) n
  | _ => s.fetchBytes a lane (pc + BitVec.ofNat 64 off) n

/-- A word of n bytes whole; it lies in one 32-byte block, so its pages are those of its first bytes (R25). -/
def State.fetchRest (s : State) (a : Agent) (lane : Nat) (pc : DWord) (n : Nat) : Except AErr (List Byte) := do
  let b0 ← s.fetchWord a lane pc 0 8
  let b1 ← if n = 8 then pure [] else s.fetchWord a lane pc 8 (n - 8)
  pure (b0 ++ b1)
/-- Fetch and decode the next word of the current agent (DESIGN CHOICE, log 50). An address match halts the wheel where a debugger has
claimed the mill's breakpoints and is the breakpoint trap elsewhere, as `bkpt` is (R348, R369; DEDUCED, log 36). -/
def State.fetch (st : State) : Fetched :=
  let a := st.cur
  if (st.threads a).isEmpty then .out (.fault .noAgent)
  else if !st.mayIssue a then .out (.next st)
  else
    let s := ((st.retryTraps a).leaveBuffers a).nextBuf a
    match s.group a with
    | [] => .out (.next s)
    | l0 :: rest =>
      let group := l0 :: rest
      let pc := (s.thread a l0).pc
      if group.any (s.asking a) then .out (.next s)
      else if group.any (s.matchedAt a) then
        let hit := group.filter (s.matchedAt a)
        if s.breakClaimed a then .out (.next (s.haltWheel a hit))
        else .out (groupFault s a pc hit fun _ => { cls := 0x30, sub := 0 })
      else match s.fetchWord a l0 pc 0 4 with
      | .error (.fault fi) => .out (groupFault s a pc group fun _ => fi)
      | .error e => .out (.next (s.stallOn a l0 e))
      | .ok b0 =>
        let len := (b0.headD 0).extractLsb' 0 2
        let n := lenBytes len
        if pc.toNat % 32 + n > 32 then .out (groupFault s a pc group (crossing s a (len == 3)))
        else
          match s.fetchRest a l0 pc n with
          | .error (.fault fi) => .out (groupFault s a pc group fun _ => fi)
          | .error e => .out (.next ((group.foldl (fun s l => s.modThread a l fun t => { t with bufMode := false }) s).stallOn a l0 e))
          | .ok bs =>
            match decodeBytes bs with
            | .ok (i, _) => .run i (s.countFetch a l0 pc n)
            | .error .unlistedSub => .out (groupFault s a pc group (badWord s a 1))
            | .error _ => .out (groupFault s a pc group (badWord s a 0))

end Sys2Proof.Machine
end

