-- ==== Sys2Proof/Machine/Memory.lean ====
section
/-! DEFINITION. Loads, stores, tile rows and cache management, opcodes 0x70-0x78 (spec/06 R117-R124;
spec/12_memory_instructions.md R254-R258). -/

namespace Sys2Proof.Machine

/-! ### Fields -/

/-- The space of MOD[1:0] (R117, R244). -/
def spaceOf (f : Fields) : Space :=
  match f.mod.toNat % 4 with
  | 1 => .sp
  | 2 => .pd
  | _ => .glob
/-- Space 3 is illegal, and every space but global on a front-end core (R117, R118). -/
def spaceOk (f : Fields) (a : Agent) : Bool :=
  match a with
  | .fe _ => f.mod.toNat % 4 == 0
  | _ => f.mod.toNat % 4 != 3
/-- Bytes of a load or store by SUB (R119). -/
def accSize (sub : Nat) : Nat :=
  match sub with
  | 1 => 2
  | 9 => 2
  | 2 => 4
  | 3 => 8
  | 4 => 16
  | _ => 1
/-- The register group of a datum. -/
def accUse (sub : Nat) : Use :=
  match sub with
  | 3 => .pair
  | 4 => .quad
  | _ => .word
/-- The scale of an indexed form, 0-4 (R117). -/
def idxShift (f : Fields) : Nat := f.mod.toNat / 4 % 8
/-- base + off, and base + idx * 2^s + off (R117). -/
def Ctx.addrBO (x : Ctx) (l : Nat) : DWord := x.dw l .A + sext64 (x.w l .B)
def Ctx.addrIdx (x : Ctx) (l : Nat) : DWord :=
  let idx : DWord := if x.f.mod.getLsbD 5 then (x.w l .B).setWidth 64 else sext64 (x.w l .B)
  x.dw l .A + (idx <<< idxShift x.f) + sext64 (x.w l .C)

/-! ### Loads -/

/-- A load's piece may be asked for: no SC access before it is still out (R238). -/
def State.loadGate (s : State) (a : Agent) (lane : Nat) (p : Piece) : Except AErr Unit :=
  if p.sc && s.scBusy a lane then .error .stall else pure ()
/-- Record the accesses of a load, in parts of `g` bytes, and their ids: a 16-byte load is two, one per half (R124), a tile row one per
element (R254). -/
def State.postLoads (s : State) (i : PostInfo) (va g : Nat) (ps : List Piece) : State × List Nat :=
  ps.foldl (fun r p => (List.range (ceilDiv p.len g)).foldl (fun r k =>
    let n := min g (p.len - g * k)
    (r.1.post i va { p with key := p.key + g * k, off := p.off + g * k, len := n, pa := p.pa + g * k } [] none n none,
      r.2 ++ [r.1.fresh])) r) (s, [])
/-- Ask another device for a load's bytes: the READ, and the HO access that fences count (R229, R386). The state and the tag. -/
def State.loadRemote (s : State) (i : PostInfo) (va : Nat) (size : Nat) (p : Piece) : State × Nat :=
  let id := s.fresh
  let tag := (s.fresh + 1) % 2 ^ 32
  let s := s.post i va { p with key := 2 ^ 60 + p.node * 2 ^ 52 + p.pa } [] none 0 (some tag)
  (s.remoteRead none (some id) i.a.mill i.pc (BitVec.ofNat 64 va) p.node p.pa size (s.partOfAgent i.a), tag)

/-- Check a load and put it in flight (R121): every check is made now, and its value is fixed when it performs (R228); a read of
another device waits for its response (R386). -/
def State.loadInto (s : State) (x : Ctx) (lane : Nat) (k : AccKind) (spc : Space) (va : DWord) (size align ext : Nat) (dsts : List Dst) :
    Except AErr State := do
  let ps ← s.checked x.a lane k spc va size align
  let i := s.postInfo x.a lane x.pc .ld (accessField k spc size)
  let zeros := dsts.map fun _ => (0 : Word)
  if s.poisonedFor x.a ps then .error (.fault (accFault 0x0C 1 va k spc size))
  else if ps.all fun p => p.tier != 3 then
    let _ ← ps.mapM fun p => s.loadGate x.a lane p
    let (s, ids) := s.postLoads i va.toNat (min align 8) ps
    pure (((s.startLong x.a x.f lane x.lowest dsts zeros 0 none ext (ids.map fun n => (n, none))).countReads ps).fillTlb ps)
  else
    match ps with
    | [p] =>
      if p.pa / 128 = (p.pa + size - 1) / 128 then
        let (s, tag) := s.loadRemote i va.toNat size p
        pure ((s.startLong x.a x.f lane x.lowest dsts zeros 0 (some tag) ext).fillTlb ps)
      else
        let bs ← s.readAll x.a lane k spc va size ps
        pure ((s.startLong x.a x.f lane x.lowest dsts (loadWords ext bs) 0 none ext).fillTlb ps)
    | _ =>
      let bs ← s.readAll x.a lane k spc va size ps
      pure (((s.startLong x.a x.f lane x.lowest dsts (loadWords ext bs) 0 none ext).countReads ps).fillTlb ps)

/-- A load of SUB's size: a guard, or the registers of D; a discarded one is a touch (R121, R122). -/
def State.loadOne (s : State) (x : Ctx) (lane : Nat) (va : DWord) : Except AErr State :=
  let sub := x.f.sub.toNat
  let k := x.f.d.toNat % 8
  let dsts := if sub = 5 then (if k = 0 then [] else [Dst.guard k]) else s.dstsOf x.a x.f lane (accUse sub).regs
  s.loadInto x lane (if dsts.isEmpty then .touch else .load) (spaceOf x.f) va (accSize sub) (accSize sub) sub dsts

def execLd (f : Fields) (s : State) : Out :=
  issue 0x70 (fun f a =>
      if f.sub = 5 then { a := .pair, b := .word, modOk := spaceOk f a, gWrite := [f.d.toNat % 8] }
      else { d := accUse f.sub.toNat, a := .pair, b := .word, modOk := spaceOk f a })
    (fun x => eachLane x fun s l => s.loadOne x l (x.addrBO l)) f s
def execLdx (f : Fields) (s : State) : Out :=
  issue 0x72 (fun f a =>
      { d := accUse f.sub.toNat, a := .pair, b := .word, c := .word, modOk := spaceOk f a && decide (idxShift f ≤ 4) })
    (fun x => eachLane x fun s l => s.loadOne x l (x.addrIdx l)) f s

/-! ### Stores -/

/-- The low `n` bytes of the registers of D (R119). -/
def Ctx.dataBytes (x : Ctx) (lane n : Nat) : List Byte :=
  (((List.range ((n + 3) / 4)).map fun k => bytesOfNat 4 (x.s0.srcDst x.a x.f lane k).toNat).flatten).take n

/-- Check a write (R120, R319), then post its bytes in parts of `g` (R123, R124); `keep` tells which parts are written. -/
def State.storeBytesAt (s : State) (x : Ctx) (lane : Nat) (va : DWord) (size align g : Nat) (bytes : List Byte) (set : AccSet)
    (keep : Nat → Bool) : Except AErr State := do
  let ps ← s.checked x.a lane .store (spaceOf x.f) va size align
  match s.boundPieces ps false with
  | some k => .error (.fault (accFault 0x0B k va .store (spaceOf x.f) size))
  | none =>
    if !s.writeReady x.a lane ps x.s0.fresh then .error .stall
    else
      let i := s.postInfo x.a lane x.pc set (accessField .store (spaceOf x.f) size)
      let post := fun (s : State) (p : Piece) =>
        let parts := chunks (p.len + 1) g 0 ((bytes.drop p.off).take p.len)
        let whole := if parts.all fun c => keep (p.off + c.1) then some (p.key, p.len) else none
        parts.foldl (fun s c =>
          if keep (p.off + c.1) then
            s.postPiece { i with whole := whole } va.toNat g
              { p with key := p.key + c.1, off := p.off + c.1, len := c.2.length, pa := p.pa + c.1 } bytes
          else s) s
      pure ((ps.foldl post s).fillTlb ps)
/-- A store of SUB's size; a 16-byte one is two halves (R124). -/
def State.storeOne (s : State) (x : Ctx) (lane : Nat) (va : DWord) : Except AErr State :=
  let n := accSize x.f.sub.toNat
  s.storeBytesAt x lane va n n (min n 8) (x.dataBytes lane n) .st fun _ => true

def execSt (f : Fields) (s : State) : Out :=
  issue 0x71 (fun f a =>
      { d := accUse f.sub.toNat, dRead := true, dWrite := false, a := .pair, b := .word, modOk := spaceOk f a })
    (fun x => eachLane x fun s l => s.storeOne x l (x.addrBO l)) f s
def execStx (f : Fields) (s : State) : Out :=
  issue 0x73 (fun f a =>
      { d := accUse f.sub.toNat, dRead := true, dWrite := false, a := .pair, b := .word, c := .word,
        modOk := spaceOk f a && decide (idxShift f ≤ 4) })
    (fun x => eachLane x fun s l => s.storeOne x l (x.addrIdx l)) f s

/-! ### Tile rows (R254, R255) -/

/-- One lane's part of a collective after those of the lower lanes: their state, faults and the lanes done, and the lane that
waits. -/
def rowStep (op : State → Nat → Except AErr State) (r : State × List (Nat × FaultInfo) × List Nat × Option (Nat × AErr))
    (lane : Nat) : State × List (Nat × FaultInfo) × List Nat × Option (Nat × AErr) :=
  match r.2.2.2 with
  | some _ => r
  | none =>
    match op r.1 lane with
    | .ok s => (s, r.2.1, r.2.2.1 ++ [lane], none)
    | .error (.fault fi) => (r.1, r.2.1 ++ [(lane, fi)], r.2.2.1, none)
    | .error e => (r.1, r.2.1, r.2.2.1, some (lane, e))
/-- A wheel-collective: every participant's part is checked, each that passes is performed, a failure is raised for the
lowest failing lane (R255); a wait holds the whole issue. -/
def eachRow (x : Ctx) (op : State → Nat → Except AErr State) : Body :=
  let r := x.todo.foldl (rowStep op) (x.s0, [], [], none)
  match r.2.2.2, r.2.1 with
  | some (lane, e), _ => .wait (x.s0.stallAll x.a x.todo (op x.s0)) lane e false []
  | none, [] => .done r.1 [] []
  | none, (l, fi) :: rest => .coll r.1 fi ((l :: rest.map Prod.fst)) r.2.2.1

/-- Element bytes of a row, the row's bytes, and its register group (R254). -/
def elemSize (f : Fields) : Nat := 2 ^ (f.sub.toNat % 4)
def rowBytes (f : Fields) : Nat := 4 * elemSize f
def rowUse (f : Fields) : Use :=
  match f.sub.toNat with
  | 0 => .word
  | 1 => .pair
  | 2 => .quad
  | _ => .octet
/-- Lane n's row begins at base + n * stride, both read in the lowest participant. -/
def Ctx.rowAddr (x : Ctx) (lane : Nat) : DWord :=
  x.dw x.lowest .A + BitVec.ofNat 64 lane * sext64 (x.w x.lowest .B)

def execTileld (f : Fields) (s : State) : Out :=
  issue 0x75 (fun f a => { d := rowUse f, a := .pair, b := .word, modOk := spaceOk f a })
    (fun x => eachRow x fun s l =>
      s.loadInto x l .load (spaceOf x.f) (x.rowAddr l) (rowBytes x.f) (elemSize x.f) 2 (s.dstsOf x.a x.f l (rowUse x.f).regs)) f s

/-- The lanes whose rows this instruction stores, or has stored before it was restarted: those whose checks pass. -/
def Ctx.rowPasses (x : Ctx) (lane : Nat) : Bool :=
  match x.s0.checked x.a lane .store (spaceOf x.f) (x.rowAddr lane) (rowBytes x.f) (elemSize x.f) with
  | .ok ps => (x.s0.boundPieces ps false).isNone
  | .error _ => false
/-- The lane's row is stored by this instruction, or has been before it was restarted. -/
def Ctx.stores (x : Ctx) (lane : Nat) : Bool := x.todo.contains lane || (x.thread lane).doneAt x.pc lane
/-- Where rows overlap, the bytes of the highest lane remain: an element that a higher lane's stored row holds is not written. -/
def Ctx.elementKept (x : Ctx) (lane off : Nat) : Bool :=
  let at' := (x.rowAddr lane).toNat + off
  !x.parts.any fun l => decide (l > lane) && x.stores l && decide ((x.rowAddr l).toNat ≤ at') &&
    decide (at' < (x.rowAddr l).toNat + rowBytes x.f) && x.rowPasses l
def execTilest (f : Fields) (s : State) : Out :=
  issue 0x76 (fun f a =>
      { d := rowUse f, dRead := true, dWrite := false, a := .pair, b := .word, modOk := spaceOk f a })
    (fun x => eachRow x fun s l =>
      s.storeBytesAt x l (x.rowAddr l) (rowBytes x.f) (elemSize x.f) (elemSize x.f) (x.dataBytes l (rowBytes x.f)) .st
        (x.elementKept l)) f s

/-! ### Caches (R256-R258) -/

/-- A line an access of this kind may reach, by the address of its first byte. -/
def State.lineReadable (s : State) (a : Agent) (lane : Nat) (va : Nat) : Option Piece :=
  match s.pieces a lane .load .glob (BitVec.ofNat 64 (va / 128 * 128)) 1 with
  | .ok (p :: _) => some p
  | _ => none
/-- `pref` asks for the line a + b; a refused access is dropped. It changes no access's result: only a die's copy of a
remote-homed line is state here; what reaches the memory side counts (R414). -/
def execPref (f : Fields) (s : State) : Out :=
  issue 0x74 (fun _ _ => { a := .pair, b := .word })
    (fun x => .done (x.todo.foldl (fun s l =>
      match s.lineReadable x.a l (x.addrBO l).toNat, s.dieOf x.a with
      | some p, some d => if p.tier ≤ 1 ∧ s.needsFetch (some d) p.kid p.key then s.fetchLine d (lineOf p.key) p.kid else s.countReads [{ p with len := 128 }]
      | _, _ => s) x.s0) [] []) f s

/-- Lines of [a, a + n): the first, and one past the last. -/
def firstLine (a : Nat) : Nat := a / 128
def endLine (a n : Nat) : Nat := if n = 0 then a / 128 else (a + n - 1) / 128 + 1
/-- `cinv.l1`: the loop-buffer entries of the issuing core for readable lines of the range are discarded (R157, R257). -/
def State.dropBuffers (s : State) (a : Agent) (lane va n : Nat) : State :=
  let hit := fun (pc : DWord) => firstLine va ≤ pc.toNat / 128 && pc.toNat / 128 < endLine va n &&
    (s.lineReadable a lane pc.toNat).isSome
  match s.coreOf a with
  | none => s
  | some c =>
    { s with mills := s.mills.map fun m =>
        if m.core = c then
          { m with wheels := m.wheels.map fun w =>
              { w with threads := w.threads.map fun t => { t with loopBuf := t.loopBuf.filter fun e => !hit e.1 } } }
        else m }
/-- The lines whose changes fetch may not have seen yet, of those that the range covers: from here on the core has the new ones (R258). -/
def State.renewCode (s : State) (a : Agent) (lane va n : Nat) : State :=
  let lines := (s.code.filterMap fun e => match e with
    | .wrote _ _ key _ _ => some (lineOf key)
    | _ => none).dedup.filter fun ln => (List.range (endLine va n - firstLine va)).any fun i =>
      match s.lineReadable a lane ((firstLine va + i) * 128) with
      | some p => lineOf p.key == ln
      | none => false
  if lines.isEmpty then s else { s with code := s.code ++ [.cinv (s.coreNo a) lines] }
/-- A write of the line whose push to the die is still out. -/
def State.pushedLine (s : State) (d line : Nat) : Option Nat :=
  (s.posted.find? fun p => s.pushingTo p.id d && p.overlaps (line * 128) 128).map (·.id)
/-- A die drops its copy of a line as read under a key-ID; what a fetch may still return of it is kept (R258). -/
def State.dropCopy (s : State) (d line kid : Nat) : State :=
  s.logCode (s.modDie d fun x => { x with copies := sput [] x.copies (copyKey line kid) [], marks := x.marks.filter (·.1 != copyKey line kid) })
    kid (line * 128) 128 ((s.pushedLine d line).map fun id => (id, none))
/-- All its copies of a line, and the marked words of one of its own (R420). -/
def State.dropLine (s : State) (d line : Nat) : State :=
  ((s.copyKids d line).foldl (fun s k => s.dropCopy d line k) s).modDie d fun x => { x with marks := x.marks.filter (·.1 / 1024 != line) }
/-- A line of memory that the range covers readably. -/
def State.inRange (s : State) (a : Agent) (lane va n line : Nat) : Bool :=
  (List.range (endLine va n - firstLine va)).any fun i =>
    match s.lineReadable a lane ((firstLine va + i) * 128) with
    | some p => p.tier ≤ 1 && lineOf p.key == line
    | none => false
/-- `cinv.l1`: the core's L1 copies of the lines go, with their marks (R420). -/
def State.dropL1 (s : State) (a : Agent) (lane va n : Nat) : State :=
  match s.coreOf a with
  | none => s
  | some c => s.modDie (dieOfCore c) fun x => { x with l1Marks := x.l1Marks.filter fun e => !(e.1 == c && s.inRange a lane va n (e.2.1 / 1024)) }
/-- `cinv.l2`: the die's copies of the range's lines are discarded. -/
def State.dropCopies (s : State) (a : Agent) (lane va n : Nat) : State :=
  match s.dieOf a with
  | none => s
  | some d =>
    let gone := (((s.die d).copies.map Prod.fst ++ (s.die d).marks.map Prod.fst).map fun k => k / 1024).dedup.filter fun ln =>
      s.inRange a lane va n ln
    gone.foldl (fun s ln => s.dropLine d ln) s
def execCinv (f : Fields) (s : State) : Out :=
  issue 0x77 (fun _ _ => { a := .pair, b := .word })
    (fun x =>
      let s := x.todo.foldl (fun s l =>
        let va := (x.dw l .A).toNat
        let n := (x.w l .B).toNat
        if n = 0 then s else if x.f.sub = 0 then (s.renewCode x.a l va n).dropL1 x.a l va n else s.dropCopies x.a l va n) x.s0
      .done (if x.f.sub = 0 then x.todo.foldl (fun s l => s.dropBuffers x.a l (x.dw l .A).toNat (x.w l .B).toNat) s else s) [] []) f s
/-- `cwb`: the model's lines hold what has performed at their home, so nothing is dirty and nothing changes (R257). -/
def execCwb (f : Fields) (s : State) : Out :=
  issue 0x78 (fun _ _ => { a := .pair, b := .word }) (fun x => .done x.s0 [] []) f s

end Sys2Proof.Machine
end

