-- ==== Sys2Proof/Machine/Fence.lean ====
section
/-! DEFINITION. Fences, memory-side atomics and pond range operations, opcodes 0xB0-0xB5 (spec/12_memory_instructions.md
R245-R253; spec/11 R227-R239). -/

namespace Sys2Proof.Machine

/-! ### Fences -/

/-- A front-end core's thread. -/
def feAgent (a : Agent) : Bool := a.mill.isNone
/-- A scope by its code in SUB[2:0] (R51). -/
def scopeOf (code : Nat) : Scope :=
  match code with
  | 0 => .wheel
  | 1 => .mill
  | 2 => .gang
  | 3 => .die
  | 4 => .pkg
  | _ => .sys
/-- P holds a set: MOD[4:0], in the order LD, ST, AT, EN, HO. -/
def inP (f : Fields) (x : AccSet) : Bool :=
  match x with
  | .ld => f.mod.getLsbD 0
  | .st => f.mod.getLsbD 1
  | .at => f.mod.getLsbD 2
  | .en => f.mod.getLsbD 3
  | .ho => f.mod.getLsbD 4 && f.sub.toNat % 8 == 5
/-- S holds EN: B[3] (R236, R245). -/
def inSEn (f : Fields) : Bool := f.b.getLsbD 3

/-- A thread's accesses of the fence's sets have read the write, or the thread has learned of it (R234): what a handoff or a timeline told
counts with ST or AT in P. -/
def Posted.readIn (p : Posted) (f : Fields) (a : Agent) (lane : Nat) : Bool :=
  p.readers.any fun r => r.1.same a && r.2.1 == lane && (match r.2.2 with
    | some x => inP f x
    | none => inP f .st || inP f .at)
/-- The accesses a fence records (R245): those of P that the participants issued, and the writes that these have read or that the
participants have learned of (R234); what their loads in flight will read joins when they perform. A HO write counts with HO in P (R236)
(DEDUCED, log 16). -/
def State.fenceRecs (s : State) (a : Agent) (f : Fields) (parts : List Nat) : List Nat :=
  (s.posted.filter fun p =>
    ((p.owner.same a && parts.contains p.lane && inP f p.set) ||
     (p.rd == 0 && (p.set != .ho || inP f .ho) && parts.any fun l => p.readIn f a l))).map (·.id)
/-- Every recorded access has performed, failed or gone. -/
def State.slotDone (s : State) (a : Agent) (x : FenceSlot) : Bool :=
  x.recs.all fun id => match s.posted? id with
    | none => true
    | some p => s.doneFor p a x.scope
/-- How many fences ago a generation was issued. -/
def fenceAge (now gen : Nat) : Nat := (now + (2 ^ 30 - 1) - gen) % (2 ^ 30 - 1)
/-- An older `.sc` fence of the wheel is held: the SC order agrees with program order (R237, DEDUCED, log 17). -/
def Fences.olderSc (fs : Fences) (gen : Nat) : Bool :=
  fs.slots.any fun x => match x with
    | some y => y.sc && decide (fenceAge fs.gen y.gen > fenceAge fs.gen gen)
    | none => false
/-- The slot may complete. -/
def State.slotReady (s : State) (a : Agent) (x : FenceSlot) : Bool :=
  s.slotDone a x && !(x.sc && (s.fences a).olderSc x.gen)

/-- A slot completes: an access that it has recorded comes, with EN in S, before the work that its threads release from here on (R236, R245;
DEDUCED, log 16). -/
def State.slotEnds (s : State) (a : Agent) (x : FenceSlot) : State :=
  if !x.en then s
  else { s with posted := s.posted.map fun p =>
    if x.recs.contains p.id then { p with fenced := p.fenced ++ (x.lanes.map fun l => (a, l)).filter fun w => !p.fenced.contains w } else p }
/-- The engines of a mill see, whatever the byte, what a fence with EN in S has put before the release that a thread makes now (R236, R243). -/
def State.release (s : State) (uid : Nat) (a : Agent) (lane : Nat) : State :=
  { s with posted := s.posted.map fun p =>
    if (p.fenced.any fun w => w.1.same a && w.2 == lane) && !p.engines.contains uid then { p with engines := uid :: p.engines } else p }
/-- And what a READY is stamped with (R241). -/
def State.handEngine (s : State) (uid : Nat) (ids : List Nat) : State :=
  { s with posted := s.posted.map fun p =>
    if ids.contains p.id && !p.engines.contains uid then { p with engines := uid :: p.engines } else p }

/-- The lowest-numbered free slot. -/
def Fences.free? (fs : Fences) : Option Nat := (List.range 4).find? fun i => (fs.slots.getD i none).isNone
/-- The count after a fence: 2^30 - 1 runs back to 1 (R246). -/
def nextGen (g : Nat) : Nat := if g ≥ 2 ^ 30 - 1 then 1 else g + 1

/-- P holds no set. -/
def emptyP (f : Fields) : Bool := [AccSet.ld, .st, .at, .en, .ho].all fun x => !inP f x
/-- A fence that records nothing completes at issue (R245); an `.sc` one issues only after the `.sc` fences before it have completed, which
the SC order asks for (R237) (DEDUCED, log 17). S names accesses that issue after the `fwait`: every access of the wheel that issues after
the slot has completed performs later than what it recorded, so of the sets of S only EN needs anything more, for the work it releases (R233,
R236). -/
def execFence (f : Fields) (s : State) : Out :=
  issue 0xB0 (fun _ _ => { d := .word, bImm := true })
    (fun x =>
      let fs := x.s0.fences x.a
      let sc := x.f.sub.getLsbD 3
      match fs.free? with
      | none => .wait (x.s0.stallWheel x.a) x.lowest .stall false []
      | some i =>
        if sc && emptyP x.f && fs.olderSc fs.gen then .wait (x.s0.stallWheel x.a) x.lowest .stall false []
        else
          let scope := scopeOf (x.f.sub.toNat % 8)
          let slot : FenceSlot := ⟨fs.gen, scope, sc, x.s0.fenceRecs x.a x.f x.parts, x.parts, inSEn x.f && decide (1 ≤ scope.rank)⟩
          let now := x.s0.slotReady x.a slot
          let s1 := (if now then x.s0.slotEnds x.a slot else x.s0).setFences x.a
            ⟨if now then fs.slots else setAt fs.slots i (some slot), nextGen fs.gen, none⟩
          .done (x.todo.foldl (fun s l => s.putD x.a x.f l x.lowest [BitVec.ofNat 32 (i + 4 * fs.gen)]) s1) [] []) f s

/-- A token names a live fence (R246). -/
def Fences.live (fs : Fences) (token : Nat) : Bool :=
  match fs.slots.getD (token % 4) none with
  | some x => x.gen == token / 4
  | none => false
/-- MOD[0] is `.all`. -/
def isAll (f : Fields) : Bool := f.mod.getLsbD 0
/-- Each participant waits for its own fence, `.all` for every slot held; the wheel issues nothing else meanwhile, so these are the slots
held at its issue (R247). -/
def execFwait (f : Fields) (s : State) : Out :=
  issue 0xB1 (fun f _ => { a := if isAll f then .none else .word })
    (fun x =>
      let fs := x.s0.fences x.a
      let held := if isAll x.f then fs.slots.any Option.isSome else x.parts.any fun l => fs.live (x.w l .A).toNat
      if held then .wait (x.s0.stallWheel x.a) x.lowest .stall false []
      else .done (x.s0.setFences x.a { fs with stall := none }) [] []) f s

/-! ### Atomics (R249-R251) -/

/-- SUB[4] is `.d`. -/
def isWide (f : Fields) : Bool := f.sub.getLsbD 4
def atUse (f : Fields) : Use := if isWide f then .pair else .word
def atSize (f : Fields) : Nat := if isWide f then 8 else 4
/-- A source at the operation's width, as 64 bits. -/
def Ctx.atVal (x : Ctx) (l : Nat) (fld : Fld) : DWord := if isWide x.f then x.dw l fld else (x.w l fld).setWidth 64

/-- The check of one participant (R249): alignment, range, translation with R and W, and bound slots (R319). -/
def Ctx.atCheck (x : Ctx) (l : Nat) (va : DWord) : Except AErr (List Piece) := do
  let ps ← x.s0.checked x.a l .atomic (spaceOf x.f) va (atSize x.f) (atSize x.f)
  match x.s0.boundPieces ps false with
  | some k => .error (.fault (accFault 0x0B k va .atomic (spaceOf x.f) (atSize x.f)))
  | none => if x.s0.writeReady x.a l ps x.s0.fresh then pure ps else .error .stall

/-- Check every participant: the failing lanes with their faults, else a wait, else each lane's answer. -/
inductive Gathered (α : Type) where
  | bad (l : List (Nat × FaultInfo))
  | wait (lane : Nat) (e : AErr)
  | ok (l : List (Nat × α))
/-- A check's fault, its wait, or what it gives. -/
def asFault {α : Type} (r : Except AErr α) : Option FaultInfo :=
  match r with
  | .error (.fault fi) => some fi
  | _ => none
def asWait {α : Type} (r : Except AErr α) : Option AErr :=
  match r with
  | .error (.fault _) => none
  | .error e => some e
  | .ok _ => none
def asGiven {α : Type} (r : Except AErr α) : Option α :=
  match r with
  | .ok v => some v
  | .error _ => none
def gather {α : Type} (lanes : List Nat) (chk : Nat → Except AErr α) : Gathered α :=
  let bads := lanes.filterMap fun l => (asFault (chk l)).map fun fi => (l, fi)
  let waits := lanes.filterMap fun l => (asWait (chk l)).map fun e => (l, e)
  let oks := lanes.filterMap fun l => (asGiven (chk l)).map fun v => (l, v)
  match waits, bads with
  | (l, e) :: _, _ => .wait l e
  | [], b :: bs => .bad (b :: bs)
  | [], [] => .ok oks
/-- No lane performs, and the record names the failing ones (R249). -/
def noneDone (x : Ctx) (bads : List (Nat × FaultInfo)) : Body :=
  match bads with
  | [] => .done x.s0 [] []
  | (l, fi) :: rest => .coll x.s0 fi (l :: rest.map Prod.fst) []

/-- A returning operation goes on its way (R250, R387): to its memory side, or to another device. -/
def State.sendAtomic (s : State) (x : Ctx) (l : Nat) (va : DWord) (p : Piece) (o : MemOp) : State :=
  let i : PostInfo := { s.postInfo x.a l x.pc .at (accessField .atomic (spaceOf x.f) (atSize x.f)) with grp := x.s0.fresh }
  let ext := if isWide x.f then 3 else 2
  let dsts := s.dstsOf x.a x.f l (atUse x.f).regs
  let zeros := dsts.map fun _ => (0 : Word)
  if p.tier = 3 then
    let id := s.fresh
    let tag := (s.fresh + 1) % 2 ^ 32
    let s := s.post i va.toNat { p with key := 2 ^ 60 + p.node * 2 ^ 52 + p.pa } [] none 0 (some tag)
    let (_, s) := s.newTag
    let cas := o.op == 11
    let s := s.request ⟨tag, none, x.a.mill, x.pc, va, atSize x.f, some id, none⟩ p.node (p.pa / 128)
      { flitBlank 0 (if cas then 3 else 2) with
        addr := p.pa
        size := atSize x.f - 1
        srcPart := s.partOfAgent x.a
        opc := (if cas then 0 else o.op) + (if isWide x.f then 16 else 0)
        opnd0 := if cas then o.b else o.c
        opnd1 := if cas then o.c else 0 }
    s.startLong x.a x.f l x.lowest dsts zeros 0 (some tag) ext
  else
    let id := s.fresh
    let s := s.post i va.toNat p [] (some o) 0 none
    s.startLong x.a x.f l x.lowest dsts zeros 0 none ext [(id, none)]
/-- A reduction goes on its way (R250, R389). -/
def State.sendReduction (s : State) (x : Ctx) (l : Nat) (va : DWord) (p : Piece) (o : MemOp) : State :=
  let i : PostInfo := { s.postInfo x.a l x.pc .at (accessField .atomic (spaceOf x.f) (atSize x.f)) with grp := x.s0.fresh }
  if p.tier = 3 then
    let id := s.fresh
    let tag := (s.fresh + 1) % 2 ^ 32
    let s := s.post i va.toNat { p with key := 2 ^ 60 + p.node * 2 ^ 52 + p.pa } [] (some o) 0 (some tag)
    let (_, s) := s.newTag
    s.request ⟨tag, none, x.a.mill, x.pc, va, atSize x.f, some id, none⟩ p.node (p.pa / 128)
      { flitBlank 2 2 with
        addr := p.pa
        size := atSize x.f - 1
        srcPart := s.partOfAgent x.a
        opc := o.op + (if isWide x.f then 16 else 0)
        opnd0 := o.c }
  else s.post i va.toNat p [] (some o) 0 none

/-- A write of the thread to the pieces is on its way to the memory side (R124). -/
def State.storing (s : State) (a : Agent) (lane : Nat) (ps : List Piece) : Bool :=
  s.posted.any fun q => q.owner.same a && q.lane == lane && q.rd == 0 && q.bad.isNone && q.settled.isNone && ps.any fun p => q.overlaps p.key p.len
/-- `atom`, `cas` and `red`: every participant is checked before any performs, marks of returning ones too; then each goes on
its way in increasing lane order (R249). A mark on a location that the thread's own earlier writes are still on their way to is judged behind them.
An error that comes after the check is the posted-access fault (R249, R353). -/
def atomicBody (returns : Bool) (addr : Ctx → Nat → DWord) (mop : Ctx → Nat → MemOp) (x : Ctx) : Body :=
  let chk := fun l => x.atCheck l (addr x l)
  match gather x.todo chk with
  | .wait l e => .wait (x.s0.stallAll x.a x.todo chk) l e false []
  | .bad b => noneDone x b
  | .ok oks =>
    let marked := if returns then oks.filter fun p => x.s0.poisonedIn p.2 else []
    if marked.any fun p => x.s0.storing x.a p.1 p.2 then .wait x.s0 x.lowest .stall false []
    else if !marked.isEmpty then
      noneDone x (marked.map fun p => (p.1, accFault 0x0C 1 (addr x p.1) .atomic (spaceOf x.f) (atSize x.f)))
    else
      .done (oks.foldl (fun s p =>
        match p.2 with
        | q :: _ =>
          let s := if returns then s.sendAtomic x p.1 (addr x p.1) q (mop x p.1) else s.sendReduction x p.1 (addr x p.1) q (mop x p.1)
          s.fillTlb p.2
        | [] => s) x.s0) [] []

def execAtom (f : Fields) (s : State) : Out :=
  issue 0xB2 (fun f a => { d := atUse f, a := .pair, b := .word, c := atUse f, modOk := spaceOk f a })
    (atomicBody true Ctx.addrBO fun x l => ⟨x.f.sub.toNat % 16, 8 * atSize x.f, x.atVal l .C, 0⟩) f s
def execRed (f : Fields) (s : State) : Out :=
  issue 0xB3 (fun f a => { a := .pair, b := .word, c := atUse f, modOk := spaceOk f a })
    (atomicBody false Ctx.addrBO fun x l => ⟨x.f.sub.toNat % 16, 8 * atSize x.f, x.atVal l .C, 0⟩) f s
def execCas (f : Fields) (s : State) : Out :=
  issue 0xB4 (fun f a => { d := atUse f, a := .pair, b := atUse f, c := atUse f, modOk := spaceOk f a })
    (atomicBody true (fun x l => x.dw l .A) fun x l => ⟨11, 8 * atSize x.f, x.atVal l .C, x.atVal l .B⟩) f s

/-! ### Pond range operations (R252, R253) -/

/-- The two-range form. -/
def isAdd2 (f : Fields) : Bool := f.sub.toNat % 8 == 4
/-- The first element of a range of n that is not in the partition's pond share. -/
def State.pondMiss (s : State) (part : Nat) (a n : Nat) : Option Nat :=
  if a ≥ 2 ^ 30 then some 0
  else
    let share := ((s.part part).pond.getD (a / 2 ^ 28 % 4) (0, 0)).2 * 2 ^ 20
    if a % 2 ^ 28 + 4 * n ≤ share then none else some ((share - a % 2 ^ 28) / 4)
/-- The checks of one range: a multiple of 4, and every element in the share. -/
def pondAligned (a : DWord) : Except AErr Unit :=
  if a.toNat % 4 != 0 then .error (.fault (accFault 0x0A 0 a .atomic .pd 4)) else pure ()
def State.pondRange (s : State) (part : Nat) (a : DWord) (n : Nat) : Except AErr Unit :=
  match s.pondMiss part a.toNat n with
  | some i => .error (.fault (accFault 9 3 (a + BitVec.ofNat 64 (4 * i)) .atomic .pd 4))
  | none => pure ()
/-- The check of one participant: the alignment of both ranges, then where they lie (R120, R253). -/
def Ctx.pvCheck (x : Ctx) (l : Nat) : Except AErr Unit :=
  let n := (x.w l .B).toNat
  let part := x.s0.partOfAgent x.a
  if n = 0 then pure ()
  else do
    pondAligned (x.dw l .A)
    if isAdd2 x.f then pondAligned (x.dw l .C) else pure ()
    x.s0.pondRange part (x.dw l .A) n
    if isAdd2 x.f then x.s0.pondRange part (x.dw l .C) n else pure ()
/-- One element's operation. -/
def Ctx.pvOp (x : Ctx) (l i : Nat) : MemOp where
  op := (if x.f.sub.getLsbD 3 then 24 else 16) + x.f.sub.toNat % 8
  w := 32
  c := if isAdd2 x.f then 0 else (x.w l .C).setWidth 64
  b := if isAdd2 x.f then BitVec.ofNat 64 (x.s0.pondAt (x.s0.partOfAgent x.a) ((x.dw l .C).toNat + 4 * i)) else 0
def execPvop (f : Fields) (s : State) : Out :=
  issue 0xB5 (fun f _ => { a := .pair, b := .word, c := if isAdd2 f then .pair else .word })
    (fun x =>
      match gather x.todo fun l => x.pvCheck l with
      | .wait l e => .wait x.s0 l e false []
      | .bad b => noneDone x b
      | .ok _ =>
        let part := x.s0.partOfAgent x.a
        .done (x.todo.foldl (fun s l =>
          (List.range (x.w l .B).toNat).foldl (fun s i =>
            let va := (x.dw l .A).toNat + 4 * i
            s.post { s.postInfo x.a l x.pc .at (accessField .atomic .pd 4) with grp := x.s0.fresh } va (plainPiece (x.s0.pondAt part va) 4) [] (some (x.pvOp l i)) 0 none) s) x.s0) [] []) f s

end Sys2Proof.Machine
end

