-- ==== Sys2Proof/Machine/Integer.lean ====
section
/-! DEFINITION. Integer and bit instructions, opcodes 0x00-0x22 (spec/05_integer_and_float_instructions.md R72-R89). -/

namespace Sys2Proof.Machine

/-! ### Widths (R73) -/

/-- SUB bit 0 selects the pair form. -/
def isD (f : Fields) : Bool := f.sub.getLsbD 0
def wBits (f : Fields) : Nat := if isD f then 64 else 32
def wUse (f : Fields) : Use := if isD f then .pair else .word
/-- A source as an unsigned number of the operation's width. -/
def Ctx.u (x : Ctx) (lane : Nat) (fld : Fld) : Nat :=
  if isD x.f then (x.dw lane fld).toNat else (x.w lane fld).toNat
/-- An unsigned number of w bits, read as signed. -/
def signedOf (w n : Nat) : Int := if bitAt n (w - 1) then (n : Int) - (2 ^ w : Nat) else (n : Int)
/-- An integer modulo 2^w. -/
def modW (w : Nat) (i : Int) : Nat := (i % (2 ^ w : Nat)).toNat
/-- The registers of a w-bit result. -/
def outW (w n : Nat) : List Word :=
  if w = 64 then [BitVec.ofNat 32 n, BitVec.ofNat 32 (n / 2 ^ 32)] else [BitVec.ofNat 32 n]

/-- Forms that read A; A and B; A, B and C, and write D, all at the operation's width. -/
def shape1 (f : Fields) (_ : Agent) : Shape := { d := wUse f, a := wUse f }
def shape2 (f : Fields) (_ : Agent) : Shape := { d := wUse f, a := wUse f, b := wUse f }
def shape3 (f : Fields) (_ : Agent) : Shape := { d := wUse f, a := wUse f, b := wUse f, c := wUse f }

/-- One result of w bits per lane, from a and b. -/
def unary (op : Nat → Nat → Nat) (x : Ctx) : Body :=
  eachWrite x fun l => (outW (wBits x.f) (op (wBits x.f) (x.u l .A)), 0)
def binary (op : Nat → Nat → Nat → Nat) (x : Ctx) : Body :=
  eachWrite x fun l => (outW (wBits x.f) (op (wBits x.f) (x.u l .A) (x.u l .B)), 0)

/-! ### Moves (R47, R76) -/

def execNop (f : Fields) (s : State) : Out := issue 0x00 (fun _ _ => {}) (fun x => .done x.s0 [] []) f s
def execMov (f : Fields) (s : State) : Out := issue 0x01 shape1 (unary fun _ a => a) f s
/-- cond = g[MOD[2:0]] XOR MOD[3]. -/
def execSel (f : Fields) (s : State) : Out :=
  issue 0x02 (fun f _ => { d := wUse f, a := wUse f, b := wUse f, gRead := [f.mod.toNat % 8] })
    (fun x => eachWrite x fun l =>
      let cond := (x.thread l).guard (x.f.mod.toNat % 8) != x.f.mod.getLsbD 3
      (outW (wBits x.f) (if cond then x.u l .A else x.u l .B), 0)) f s
def execLea (f : Fields) (s : State) : Out :=
  issue 0x03 (fun f a => { shape3 f a with modOk := f.mod.toNat % 8 ≤ 4 })
    (fun x => eachWrite x fun l =>
      (outW (wBits x.f) ((x.u l .A + x.u l .B * 2 ^ (x.f.mod.toNat % 8) + x.u l .C) % 2 ^ wBits x.f), 0)) f s

/-! ### Addition (R77, R78) -/

/-- clamp(i, lo, hi). -/
def clampInt (lo hi i : Int) : Int := if i < lo then lo else if i > hi then hi else i
/-- a plus or minus b by SUB: wrapping, signed saturating (4), unsigned saturating (6). -/
def addSub (sub : Nat) (minus : Bool) (w a b : Nat) : Nat :=
  let sg := fun (b : Int) => if minus then -b else b
  match sub with
  | 4 => modW 32 (clampInt (-2147483648) 2147483647 (signedOf 32 a + sg (signedOf 32 b)))
  | 6 => modW 32 (clampInt 0 4294967295 ((a : Int) + sg (b : Int)))
  | _ => modW w ((a : Int) + sg (b : Int))
def execAdd (f : Fields) (s : State) : Out := issue 0x04 shape2 (binary (addSub f.sub.toNat false)) f s
def execSub (f : Fields) (s : State) : Out := issue 0x05 shape2 (binary (addSub f.sub.toNat true)) f s

/-- The carry guards of MOD. -/
def carryIn (f : Fields) : Nat := f.mod.toNat % 8
def carryOut (f : Fields) : Nat := f.mod.toNat / 8 % 8
def carryShape (f : Fields) (a : Agent) : Shape := { shape2 f a with gRead := [carryIn f], gWrite := [carryOut f] }
/-- The exact sum or difference with the carry in. -/
def carryOp (minus : Bool) (x : Ctx) : Body :=
  .done (x.todo.foldl (fun s l =>
    let cin : Int := if carryIn x.f ≠ 0 ∧ (x.thread l).guard (carryIn x.f) then 1 else 0
    let t : Int := if minus then (x.u l .A : Int) - x.u l .B - cin else (x.u l .A : Int) + x.u l .B + cin
    let co := if minus then decide (t < 0) else decide (t ≥ (2 ^ wBits x.f : Nat))
    (s.putD x.a x.f l x.lowest (outW (wBits x.f) (modW (wBits x.f) t))).modThread x.a l fun th =>
      th.setGuard (carryOut x.f) co) x.s0) [] []
def execAddc (f : Fields) (s : State) : Out := issue 0x06 carryShape (carryOp false) f s
def execSubb (f : Fields) (s : State) : Out := issue 0x07 carryShape (carryOp true) f s

/-! ### Multiplication and division (R79, R80) -/

/-- SUB bit 1 selects the unsigned form. -/
def isU (f : Fields) : Bool := f.sub.getLsbD 1
/-- A w-bit number by its signedness. -/
def byU (u : Bool) (w n : Nat) : Int := if u then (n : Int) else signedOf w n
def execMul (f : Fields) (s : State) : Out := issue 0x08 shape2 (binary fun w a b => a * b % 2 ^ w) f s
def execMulh (f : Fields) (s : State) : Out :=
  issue 0x09 shape2 (binary fun w a b => modW w ((byU (isU f) w a * byU (isU f) w b) / (2 ^ w : Nat))) f s
def execMad (f : Fields) (s : State) : Out :=
  issue 0x0A shape3 (fun x => eachWrite x fun l =>
    (outW (wBits x.f) ((x.u l .A * x.u l .B + x.u l .C) % 2 ^ wBits x.f), 0)) f s
/-- Quotient and remainder, with the corners of R80. -/
def divRem (u : Bool) (w a b : Nat) : Nat × Nat :=
  if b = 0 then (2 ^ w - 1, a)
  else if !u && signedOf w a == -((2 ^ (w - 1) : Nat) : Int) && signedOf w b == -1 then (a, 0)
  else
    let q := (byU u w a).tdiv (byU u w b)
    (modW w q, modW w (byU u w a - q * byU u w b))
/-- A long-latency result from a and b. -/
def longBinary (op : Nat → Nat → Nat → Nat) (x : Ctx) : Body :=
  eachLong x fun l => (outW (wBits x.f) (op (wBits x.f) (x.u l .A) (x.u l .B)), 0)
def execDiv (f : Fields) (s : State) : Out := issue 0x0B shape2 (longBinary fun w a b => (divRem (isU f) w a b).1) f s
def execRem (f : Fields) (s : State) : Out := issue 0x0C shape2 (longBinary fun w a b => (divRem (isU f) w a b).2) f s

/-! ### Minimum, maximum, absolute value, negation (R81) -/

def execMin (f : Fields) (s : State) : Out :=
  issue 0x0D shape2 (binary fun w a b => if byU (isU f) w b < byU (isU f) w a then b else a) f s
def execMax (f : Fields) (s : State) : Out :=
  issue 0x0E shape2 (binary fun w a b => if byU (isU f) w b > byU (isU f) w a then b else a) f s
def execAbs (f : Fields) (s : State) : Out := issue 0x0F shape1 (unary fun w a => modW w (signedOf w a).natAbs) f s
def execNeg (f : Fields) (s : State) : Out := issue 0x10 shape1 (unary fun w a => modW w (-(a : Int))) f s

/-! ### Logic (R82) -/

def execAnd (f : Fields) (s : State) : Out := issue 0x11 shape2 (binary fun _ a b => a &&& b) f s
def execOr (f : Fields) (s : State) : Out := issue 0x12 shape2 (binary fun _ a b => a ||| b) f s
def execXor (f : Fields) (s : State) : Out := issue 0x13 shape2 (binary fun _ a b => a ^^^ b) f s
def execAndn (f : Fields) (s : State) : Out := issue 0x14 shape2 (binary fun w a b => a &&& (2 ^ w - 1 - b)) f s
def execNot (f : Fields) (s : State) : Out := issue 0x15 shape1 (unary fun w a => 2 ^ w - 1 - a) f s

/-! ### Shifts and rotates (R83, R84) -/

def execShl (f : Fields) (s : State) : Out :=
  issue 0x16 shape2 (binary fun w a n => if n < w then a * 2 ^ n % 2 ^ w else 0) f s
def execShr (f : Fields) (s : State) : Out := issue 0x17 shape2 (binary fun w a n => if n < w then a / 2 ^ n else 0) f s
def execSar (f : Fields) (s : State) : Out :=
  issue 0x18 shape2 (binary fun w a n =>
    if n < w then modW w (signedOf w a / (2 ^ n : Nat)) else if bitAt a (w - 1) then 2 ^ w - 1 else 0) f s
def execRot (f : Fields) (s : State) : Out :=
  issue 0x19 shape2 (binary fun w a n => (a * 2 ^ (n % w) + a / 2 ^ (w - n % w)) % 2 ^ w) f s
/-- Funnel shift: the high word after a left shift, the low word after a right shift (SUB 2). -/
def execFsh (f : Fields) (s : State) : Out :=
  issue 0x1A (fun _ _ => { d := .word, a := .word, b := .word, c := .word })
    (fun x => eachWrite x fun l =>
      let v := (x.w l .A).toNat * 2 ^ 32 + (x.w l .B).toNat
      let n := (x.w l .C).toNat % 32
      ([BitVec.ofNat 32 (if x.f.sub = 2 then v / 2 ^ n else v * 2 ^ n / 2 ^ 32)], 0)) f s

/-! ### Counts and fields (R85, R86) -/

/-- The 1 bits among the n low bits. -/
def popCount : Nat → Nat → Nat
  | 0, _ => 0
  | n + 1, a => a % 2 + popCount n (a / 2)
/-- The n low bits in reverse order. -/
def revBits : Nat → Nat → Nat
  | 0, _ => 0
  | n + 1, a => a % 2 * 2 ^ n + revBits n (a / 2)
def execClz (f : Fields) (s : State) : Out :=
  issue 0x1B shape1 (unary fun w a => if a = 0 then w else w - 1 - Nat.log2 a) f s
def execPopc (f : Fields) (s : State) : Out := issue 0x1C shape1 (unary fun w a => popCount w a) f s
def execBrev (f : Fields) (s : State) : Out := issue 0x1D shape1 (unary fun w a => revBits w a) f s

/-- The position and length of a packed operand, cut to the width (R86). -/
def fieldPos (w pl : Nat) : Nat := min (pl % 256) w
def fieldLen (w pl : Nat) : Nat := min (pl / 256 % 256) (w - fieldPos w pl)
/-- The extracted field, sign-extended from its own top bit unless unsigned. -/
def bfxOp (u : Bool) (w a pl : Nat) : Nat :=
  let n := fieldLen w pl
  let v := a / 2 ^ fieldPos w pl % 2 ^ n
  if n = 0 then 0
  else if !u && bitAt v (n - 1) then modW w ((v : Int) - (2 ^ n : Nat)) else v
def execBfx (f : Fields) (s : State) : Out := issue 0x1E shape2 (binary (bfxOp (isU f))) f s
/-- The field of b put into a under the mask. -/
def bfiOp (w a b pl : Nat) : Nat :=
  let p := fieldPos w pl
  let m := (2 ^ fieldLen w pl - 1) * 2 ^ p
  (a &&& (2 ^ w - 1 - m)) ||| (b * 2 ^ p &&& m)
def execBfi (f : Fields) (s : State) : Out :=
  issue 0x1F shape3 (fun x => eachWrite x fun l =>
    (outW (wBits x.f) (bfiOp (wBits x.f) (x.u l .A) (x.u l .B) (x.u l .C)), 0)) f s

/-! ### Compares and guards (R87-R89) -/

/-- A condition 0-5 of two numbers (R87). -/
def condHolds (cc : Nat) (a b : Int) : Bool :=
  match cc with
  | 0 => a == b
  | 1 => a != b
  | 2 => decide (a < b)
  | 3 => decide (a ≤ b)
  | 4 => decide (a > b)
  | _ => decide (a ≥ b)
/-- The guard destination of D[2:0] (R40). -/
def guardD (f : Fields) : Nat := f.d.toNat % 8
def execCmp (f : Fields) (s : State) : Out :=
  issue 0x20 (fun f _ =>
      { a := if f.sub.getLsbD 4 then .pair else .word, b := if f.sub.getLsbD 4 then .pair else .word, gWrite := [guardD f] })
    (fun x => eachGuard x (guardD x.f) fun l =>
      let w := if x.f.sub.getLsbD 4 then 64 else 32
      let v := fun fld => if x.f.sub.getLsbD 4 then (x.dw l fld).toNat else (x.w l fld).toNat
      (condHolds (x.f.sub.toNat % 8) (byU (x.f.sub.getLsbD 3) w (v .A)) (byU (x.f.sub.getLsbD 3) w (v .B)), 0)) f s

/-- The guard operations of R88. -/
def gopHolds (op : Nat) (p q : Bool) : Bool :=
  match op with
  | 0 => p && q
  | 1 => p || q
  | 2 => p != q
  | 3 => p && !q
  | _ => p || !q
def execGop (f : Fields) (s : State) : Out :=
  issue 0x21 (fun f _ => { gRead := [f.a.toNat % 8, f.b.toNat % 8], gWrite := [guardD f], guardSrc := true })
    (fun x => eachGuard x (guardD x.f) fun l =>
      (gopHolds x.f.sub.toNat ((x.thread l).guard (x.f.a.toNat % 8)) ((x.thread l).guard (x.f.b.toNat % 8)), 0)) f s

def allGuards : List Nat := [1, 2, 3, 4, 5, 6, 7]
/-- `.tov` reads every guard into D; `.tog` sets g1-g7 from A (R89). -/
def execGmov (f : Fields) (s : State) : Out :=
  issue 0x22 (fun f _ => if f.sub = 0 then { d := .word, gRead := allGuards } else { a := .word, gWrite := allGuards })
    (fun x =>
      if x.f.sub = 0 then
        eachWrite x fun l => ([BitVec.ofNat 32 (1 + (allGuards.map fun k => if (x.thread l).guard k then 2 ^ k else 0).sum)], 0)
      else
        .done (x.todo.foldl (fun s l => s.modThread x.a l fun t =>
          allGuards.foldl (fun t k => t.setGuard k ((x.w l .A).getLsbD k)) t) x.s0) [] []) f s

end Sys2Proof.Machine
end

