-- ==== Sys2Proof/Machine/Real.lean ====
section
/-! DEFINITION. The FP32 functions of R96 and R97 (spec/05_integer_and_float_instructions.md): each result is the rounding of
the exact mathematical value. A value that is not a dyadic number is carried as its truncation to far more bits than FP32
resolves, with one sticky bit below them, so that the one rounding sees on which side of every boundary it lies (DESIGN CHOICE, log 8). -/

namespace Sys2Proof.Machine

/-- The integer square root by fuel, one result bit a turn: the largest s in [acc, acc + 2^n) with s * s at most x. -/
def isqrtGo (x : Nat) : Nat → Nat → Nat
  | 0, acc => acc
  | n + 1, acc =>
    let t := acc + 2 ^ n
    isqrtGo x n (if t * t ≤ x then t else acc)

/-- The largest s with s * s at most x. -/
def isqrt (x : Nat) : Nat := isqrtGo x (Nat.log2 x / 2 + 1) 0

/-- A dyadic value with a sticky bit: q * 2^e, plus something below 2^e when not exact. -/
def stickyV (neg : Bool) (q : Nat) (exact : Bool) (e : Int) : FV :=
  .fin neg (2 * q + (if exact then 0 else 1)) (e - 1)

/-- 1 / x for a finite non-zero x. -/
def recipV (neg : Bool) (m : Nat) (e : Int) : FV :=
  let k := Nat.log2 m + 80
  stickyV neg (2 ^ k / m) (2 ^ k % m == 0) (-(k : Int) - e)

/-- The square root of a positive x. -/
def sqrtV (m : Nat) (e : Int) : FV :=
  let odd := e % 2 != 0
  let m1 := (if odd then 2 * m else m) * 2 ^ 160
  let e1 := (if odd then e - 1 else e) - 160
  let s := isqrt m1
  stickyV false s (s * s == m1) (e1 / 2)

/-- 1 / sqrt x for a positive x. -/
def rsqrtV (m : Nat) (e : Int) : FV :=
  let odd := e % 2 != 0
  let m1 := if odd then 2 * m else m
  let e1 := if odd then e - 1 else e
  let k := Nat.log2 m1 + 160
  let s := isqrt (2 ^ (2 * k) / m1)
  stickyV false s (s * s * m1 == 2 ^ (2 * k)) (-(k : Int) - e1 / 2)

/-- Fixed-point precision of the functions below. -/
def fxP : Nat := 320

/-- 2^f for a fraction f given by its bits, most significant first, as a fixed-point number in [1, 2): the product of the
roots 2^(2^-i) of its set bits. `root` is the last root formed. -/
def exp2Go : List Bool → Nat → Nat → Nat
  | [], _, acc => acc
  | b :: bs, root, acc =>
    let r := isqrt (root * 2 ^ fxP)
    exp2Go bs r (if b then acc * r / 2 ^ fxP else acc)

/-- The k fraction bits of n / 2^k, most significant first. -/
def fracBits : Nat → Nat → List Bool
  | 0, _ => []
  | k + 1, n => bitAt n k :: fracBits k n

/-- 2^x for a finite x. An integer x is exact. -/
def exp2V (neg : Bool) (m : Nat) (e : Int) : FV :=
  if m = 0 then .fin false 1 0
  else if e ≥ 0 then .fin false 1 ((if neg then -1 else 1) * (m * 2 ^ e.toNat : Nat))
  else
    let k := (-e).toNat
    let fl : Int := (if neg then -((m : Int)) else m) / (2 ^ k : Nat)
    let fr : Nat := ((if neg then -((m : Int)) else m) % (2 ^ k : Nat)).toNat
    if fr = 0 then .fin false 1 fl
    else stickyV false (exp2Go (fracBits k fr) (2 * 2 ^ fxP) (2 ^ fxP)) false (fl - fxP)

/-- Binary digits of log2 y for a fixed-point y in [1, 2), by squaring. -/
def log2Go : Nat → Nat → Nat → Nat
  | 0, _, acc => acc
  | n + 1, y, acc =>
    let z := y * y / 2 ^ fxP
    if z ≥ 2 * 2 ^ fxP then log2Go n (z / 2) (2 * acc + 1) else log2Go n z (2 * acc)

/-- log2 x for a positive x; exact for a power of two. -/
def log2V (m : Nat) (e : Int) : FV :=
  let l := Nat.log2 m
  let n : Int := (l : Int) + e
  if m = 2 ^ l then .fin (decide (n < 0)) n.natAbs 0
  else
    let d := log2Go 140 (m * 2 ^ fxP / 2 ^ l) 0
    let t : Int := 2 * (n * (2 ^ 140 : Nat) + d) + 1
    .fin (decide (t < 0)) t.natAbs (-141)

/-- pi as a fixed-point number, truncated. -/
def fxPi : Nat := 6710401180212168915155840974220003240804194089427148950727106424351713218671805380099500388914039

/-- The terms of the sine series from one on: x2 is the square of the argument, t the current term, k its index. -/
def sinGo : Nat → Nat → Nat → Nat → Int → Int
  | 0, _, _, _, acc => acc
  | n + 1, x2, k, t, acc =>
    let t' := t * x2 / 2 ^ fxP / ((2 * k + 2) * (2 * k + 3))
    sinGo n x2 (k + 1) t' (if k % 2 == 0 then acc - t' else acc + t')

/-- sin(pi r) for r = n / 2^k strictly between 0 and 1/2. -/
def sinPiFrac (n k : Nat) : FV :=
  let x := n * fxPi / 2 ^ k
  stickyV false (sinGo 60 (x * x / 2 ^ fxP) 0 x x).toNat false (-(fxP : Int))

/-- Give a positive value a sign. -/
def FV.signed (neg : Bool) : FV → FV
  | .fin _ m e => .fin neg m e
  | v => v

/-- sin(pi x) for a finite non-zero x (R97: exact at integers and half-integers). -/
def sinPiV (neg : Bool) (m : Nat) (e : Int) : FV :=
  if e ≥ 0 then .fin neg 0 0
  else
    let k := (-e).toNat
    let r := m % 2 ^ (k + 1)
    let flip := r ≥ 2 ^ k
    let r1 := if flip then r - 2 ^ k else r
    let r2 := if 2 * r1 > 2 ^ k then 2 ^ k - r1 else r1
    if r1 = 0 then .fin neg 0 0
    else if 2 * r2 = 2 ^ k then .fin (neg != flip) 1 0
    else (sinPiFrac r2 k).signed (neg != flip)

/-- cos(pi x) for a finite x (R97: +0 at half-integers, +1 or -1 at integers). -/
def cosPiV (m : Nat) (e : Int) : FV :=
  if e ≥ 0 then .fin (decide (e = 0 ∧ m % 2 = 1)) 1 0
  else
    let k := (-e).toNat
    let r := m % 2 ^ (k + 1)
    let r1 := if r > 2 ^ k then 2 ^ (k + 1) - r else r
    let flip := 2 * r1 > 2 ^ k
    let r2 := if flip then 2 ^ k - r1 else r1
    if r2 = 0 then .fin flip 1 0
    else if 2 * r2 = 2 ^ k then .fin false 0 0
    else (sinPiFrac (2 ^ k - 2 * r2) (k + 1)).signed flip

/-- The functions of R96. -/
inductive RealFn where
  | rcp | rsq | sqrt | ex2 | lg2 | sin | cos
  deriving DecidableEq, Repr

/-- The exact value of the function at a source, and the flag of a special source, by the table of R97. -/
def realFnV (fn : RealFn) (x : FV) : FV × BitVec 5 :=
  match fn, x with
  | _, .nan s => (.nan false, if s then fInvalid else 0)
  | .rcp, .inf n => (.fin n 0 0, 0)
  | .rcp, .fin n m e => if m = 0 then (.inf n, fDivZero) else (recipV n m e, 0)
  | .rsq, .inf n => if n then (.nan false, fInvalid) else (.fin false 0 0, 0)
  | .rsq, .fin n m e =>
    if m = 0 then (.inf n, fDivZero) else if n then (.nan false, fInvalid) else (rsqrtV m e, 0)
  | .sqrt, .inf n => if n then (.nan false, fInvalid) else (.inf false, 0)
  | .sqrt, .fin n m e =>
    if m = 0 then (.fin n 0 0, 0) else if n then (.nan false, fInvalid) else (sqrtV m e, 0)
  | .ex2, .inf n => if n then (.fin false 0 0, 0) else (.inf false, 0)
  | .ex2, .fin n m e => (exp2V n m e, 0)
  | .lg2, .inf n => if n then (.nan false, fInvalid) else (.inf false, 0)
  | .lg2, .fin n m e =>
    if m = 0 then (.inf true, fDivZero) else if n then (.nan false, fInvalid) else (log2V m e, 0)
  | .sin, .inf _ => (.nan false, fInvalid)
  | .sin, .fin n m e => if m = 0 then (.fin n 0 0, 0) else (sinPiV n m e, 0)
  | .cos, .inf _ => (.nan false, fInvalid)
  | .cos, .fin _ m e => if m = 0 then (.fin false 1 0, 0) else (cosPiV m e, 0)

/-- One of the functions on an FP32 code, with its one rounding (R96). -/
def realFnOp (fn : RealFn) (mode : RMode) (flush : Bool) (c : Nat) : FRes :=
  let r := realFnV fn (fp32.read flush c)
  let o := finish fp32 mode flush r.1
  ⟨o.code, o.flags ||| r.2⟩

end Sys2Proof.Machine
end

