-- ==== Sys2Proof/Machine/Float.lean ====
section
/-! DEFINITION. Floating-point instructions, opcodes 0x40-0x55 (spec/05_integer_and_float_instructions.md R90-R101). -/

namespace Sys2Proof.Machine

/-- An FP32 source as a value, a subnormal read as zero under flush (R67, R90). -/
def Ctx.fv (x : Ctx) (l : Nat) (fld : Fld) : FV := fp32.read ((x.thread l).flush x.f) (x.w l fld).toNat
/-- A rounded code as the register of D, with its flags. -/
def fOut (r : FRes) : List Word × BitVec 5 := ([BitVec.ofNat 32 r.code], r.flags)

def word1 (_ : Fields) (_ : Agent) : Shape := { d := .word, a := .word }
def word2 (_ : Fields) (_ : Agent) : Shape := { d := .word, a := .word, b := .word }
def word3 (_ : Fields) (_ : Agent) : Shape := { d := .word, a := .word, b := .word, c := .word }

/-! ### Arithmetic (R91, R92) -/

/-- One rounding of a sum of products and addends, under the instruction's mode and flush. -/
def fsumBody (prods : Ctx → Nat → List (FV × FV)) (adds : Ctx → Nat → List FV) (x : Ctx) : Body :=
  eachWrite x fun l => fOut (sumOp fp32 ((x.thread l).mode x.f) ((x.thread l).flush x.f) (prods x l) (adds x l))
def execFadd (f : Fields) (s : State) : Out :=
  issue 0x40 word2 (fsumBody (fun _ _ => []) fun x l => [x.fv l .A, x.fv l .B]) f s
def execFsub (f : Fields) (s : State) : Out :=
  issue 0x41 word2 (fsumBody (fun _ _ => []) fun x l => [x.fv l .A, (x.fv l .B).negate]) f s
def execFmul (f : Fields) (s : State) : Out :=
  issue 0x42 word2 (fun x => eachWrite x fun l =>
    fOut (mulOp fp32 ((x.thread l).mode x.f) ((x.thread l).flush x.f) (x.fv l .A) (x.fv l .B))) f s
def execFma (f : Fields) (s : State) : Out :=
  issue 0x43 word3 (fsumBody (fun x l => [(x.fv l .A, x.fv l .B)]) fun x l => [x.fv l .C]) f s
/-- a times 2^n with one rounding; NaN, infinity and zero as R92 says. -/
def fsclOp (mode : RMode) (flush : Bool) (v : FV) (n : Int) : FRes :=
  match v with
  | .fin neg m e => finish fp32 mode flush (.fin neg m (e + n))
  | v => ⟨(finish fp32 mode flush v).code, if v.isSig then fInvalid else 0⟩
def execFscl (f : Fields) (s : State) : Out :=
  issue 0x55 word2 (fun x => eachWrite x fun l =>
    fOut (fsclOp ((x.thread l).mode x.f) ((x.thread l).flush x.f) (x.fv l .A) (x.w l .B).toInt)) f s

/-! ### Minimum, maximum, compare, classify (R93-R95) -/

def minMaxBody (larger : Bool) (x : Ctx) : Body :=
  eachWrite x fun l => fOut (minMaxOp larger ((x.thread l).flush x.f) (x.w l .A).toNat (x.w l .B).toNat)
def execFmin (f : Fields) (s : State) : Out := issue 0x44 word2 (minMaxBody false) f s
def execFmax (f : Fields) (s : State) : Out := issue 0x45 word2 (minMaxBody true) f s

/-- A comparison of two FP32 codes and the flag it sets (R94). -/
def fcmpOp (cc : Nat) (flush : Bool) (a b : Nat) : Bool × BitVec 5 :=
  let x := fp32.val a
  let y := fp32.val b
  let unord := x.isNan || y.isNan
  let i := cmpKey (flushCode flush a)
  let j := cmpKey (flushCode flush b)
  let holds := match cc with
    | 0 => !unord && i == j
    | 1 => unord || i != j
    | 2 => !unord && decide (i < j)
    | 3 => !unord && decide (i ≤ j)
    | 4 => !unord && decide (i > j)
    | 5 => !unord && decide (i ≥ j)
    | 6 => unord
    | _ => !unord
  (holds, if x.isSig || y.isSig || (unord && 2 ≤ cc && cc ≤ 5) then fInvalid else 0)
def execFcmp (f : Fields) (s : State) : Out :=
  issue 0x46 (fun f _ => { a := .word, b := .word, gWrite := [guardD f] })
    (fun x => eachGuard x (guardD x.f) fun l =>
      fcmpOp (x.f.sub.toNat % 8) ((x.thread l).flush x.f) (x.w l .A).toNat (x.w l .B).toNat) f s

/-- The class bit of an FP32 code (R95). -/
def classBit (c : Nat) : Nat :=
  match fp32.val c with
  | .nan sig => if sig then 8 else 9
  | .inf neg => if neg then 0 else 7
  | .fin neg m _ =>
    if m = 0 then (if neg then 3 else 4)
    else if m < 2 ^ 23 then (if neg then 2 else 5)
    else (if neg then 1 else 6)
def execFclass (f : Fields) (s : State) : Out :=
  issue 0x47 word1 (fun x => eachWrite x fun l => ([BitVec.ofNat 32 (2 ^ classBit (x.w l .A).toNat)], 0)) f s

/-! ### Functions (R96, R97): SUB bits 2:0 override the mode for `fsqrt` alone; the others list only 0 and 8 -/

def realBody (fn : RealFn) (x : Ctx) : Body :=
  eachLong x fun l => fOut (realFnOp fn ((x.thread l).mode x.f) ((x.thread l).flush x.f) (x.w l .A).toNat)
def execFrcp (f : Fields) (s : State) : Out := issue 0x48 word1 (realBody .rcp) f s
def execFrsq (f : Fields) (s : State) : Out := issue 0x49 word1 (realBody .rsq) f s
def execFsqrt (f : Fields) (s : State) : Out := issue 0x4A word1 (realBody .sqrt) f s
def execFex2 (f : Fields) (s : State) : Out := issue 0x4B word1 (realBody .ex2) f s
def execFlg2 (f : Fields) (s : State) : Out := issue 0x4C word1 (realBody .lg2) f s
def execFsin (f : Fields) (s : State) : Out := issue 0x4D word1 (realBody .sin) f s
def execFcos (f : Fields) (s : State) : Out := issue 0x4E word1 (realBody .cos) f s

/-! ### Conversion (R98-R100) -/

/-- A format of `cvt` by its code: floating, or an integer by width and signedness. Codes 6 and 7 are none. -/
inductive CvtFmt where
  | float (f : Fmt)
  | int (w : Nat) (signed : Bool)
  deriving DecidableEq, Repr
def cvtFmt (code : Nat) : Option CvtFmt :=
  match code with
  | 0 => some (.float fp32)
  | 1 => some (.float fp16)
  | 2 => some (.float bf16)
  | 3 => some (.float e5m2)
  | 4 => some (.float e4m3)
  | 5 => some (.float e2m1)
  | 8 => some (.int 8 true)
  | 9 => some (.int 8 false)
  | 10 => some (.int 16 true)
  | 11 => some (.int 16 false)
  | 12 => some (.int 32 true)
  | 13 => some (.int 32 false)
  | 14 => some (.int 64 true)
  | 15 => some (.int 64 false)
  | _ => none
def cvtSrc (f : Fields) : Nat := f.mod.toNat % 16
def cvtDst (f : Fields) : Nat := f.mod.toNat / 16 % 16
def cvtUse (code : Nat) : Use := if code ≥ 14 then .pair else .word

def intLo (w : Nat) (signed : Bool) : Int := if signed then -((2 ^ (w - 1) : Nat) : Int) else 0
def intHi (w : Nat) (signed : Bool) : Int := if signed then ((2 ^ (w - 1) : Nat) : Int) - 1 else ((2 ^ w : Nat) : Int) - 1
/-- The registers of an integer result: sign- or zero-extended to 32 bits, or a pair. -/
def intOut (w : Nat) (i : Int) : List Word := if w = 64 then outW 64 (modW 64 i) else outW 32 (modW 32 i)

/-- A conversion of raw source bits (R99); flush applies to FP32 alone, `.inf` to an E5M2 destination alone, which without it
takes an infinity to its largest finite value, from E5M2 itself too: R68 here, not R99's unchanged codes (DEDUCED, log 29). -/
def cvtOpOf (src dst : CvtFmt) (inf : Bool) (mode : RMode) (flush : Bool) (raw : Nat) : List Word × BitVec 5 :=
  match src, dst with
  | .float f, .float g => fOut (cvtOp g (inf && g == e5m2) mode (flush && g == fp32) (f.read (flush && f == fp32) raw))
  | .float f, .int w sg =>
    let r := toIntOp mode (intLo w sg) (intHi w sg) (f.read (flush && f == fp32) raw)
    (intOut w r.1, r.2)
  | .int w sg, .float g =>
    let i : Int := byU (!sg) w (raw % 2 ^ w)
    fOut (cvtOp g (inf && g == e5m2) mode false (.fin (decide (i < 0)) i.natAbs 0))
  | .int w sg, .int w' sg' => (intOut w' (clampInt (intLo w' sg') (intHi w' sg') (byU (!sg) w (raw % 2 ^ w))), 0)
def execCvt (f : Fields) (s : State) : Out :=
  issue 0x50 (fun f _ =>
      { d := cvtUse (cvtDst f), a := cvtUse (cvtSrc f), modOk := (cvtFmt (cvtSrc f)).isSome && (cvtFmt (cvtDst f)).isSome })
    (fun x => eachWrite x fun l =>
      let raw := if cvtSrc x.f ≥ 14 then (x.dw l .A).toNat else (x.w l .A).toNat
      match cvtFmt (cvtSrc x.f), cvtFmt (cvtDst x.f) with
      | some p, some q => cvtOpOf p q (x.f.mod.getLsbD 8) ((x.thread l).mode x.f) ((x.thread l).flush x.f) raw
      | _, _ => ([], 0)) f s

/-- Rounding to an integral FP32 value, its sign kept (R100). -/
def frndOp (mode : RMode) (v : FV) : FRes :=
  match v with
  | .nan sig => ⟨fp32.nanC, if sig then fInvalid else 0⟩
  | .inf neg => ⟨fp32.code neg fp32.infC, 0⟩
  | .fin neg m e =>
    let r := if e ≥ 0 then (m * 2 ^ e.toNat, false) else shiftRound mode neg m (-e).toNat
    ⟨(roundTo fp32 true mode neg r.1 0).code, if r.2 then fInexact else 0⟩
def execFrnd (f : Fields) (s : State) : Out :=
  issue 0x51 word1 (fun x => eachWrite x fun l => fOut (frndOp ((x.thread l).mode x.f) (x.fv l .A))) f s

/-! ### Packed pairs (R101) -/

/-- Both elements of a packed result; never flushed. -/
def packed (op : Fmt → RMode → FV → FV → FV → FRes) (x : Ctx) : Body :=
  eachWrite x fun l =>
    let fmt := if x.f.sub.getLsbD 0 then fp16 else bf16
    let v := fun (fld : Fld) (n : Nat) => fmt.val ((x.w l fld).toNat / 2 ^ (16 * n) % 2 ^ 16)
    let r := fun (n : Nat) => op fmt ((x.thread l).modeBy (x.f.sub.toNat / 2)) (v .A n) (v .B n) (v .C n)
    ([BitVec.ofNat 32 ((r 0).code + (r 1).code * 2 ^ 16)], (r 0).flags ||| (r 1).flags)
def execHadd2 (f : Fields) (s : State) : Out :=
  issue 0x52 word2 (packed fun fmt mode a b _ => sumOp fmt mode false [] [a, b]) f s
def execHmul2 (f : Fields) (s : State) : Out :=
  issue 0x53 word2 (packed fun fmt mode a b _ => mulOp fmt mode false a b) f s
def execHfma2 (f : Fields) (s : State) : Out :=
  issue 0x54 word3 (packed fun fmt mode a b c => sumOp fmt mode false [(a, b)] [c]) f s

end Sys2Proof.Machine
end

