-- ==== Sys2Proof/Machine/Parallel.lean ====
section
/-! DEFINITION. Instructions of the parallel machine, opcodes 0x80-0x94 (spec/09_parallel_instructions.md R175-R197). -/

namespace Sys2Proof.Machine

/-! ### Values from other lanes (R176) -/

/-- The value lane `s` contributes from a field: as it reads there, the old or the new one of a register with a long-latency write in flight (R164), zero where the read would fault (an invalid latch entry, a register
with an error mark, R420). A participant whose own reads fault contributes in the same way (DEDUCED, log 27). -/
def Ctx.contributed (x : Ctx) (lane : Nat) (fld : Fld) : Word :=
  let spec := specOf x.f fld
  if 48 ≤ spec ∧ spec < 51 ∧ !(x.s0.thread x.a lane).latchOk (spec - 48) ∨ x.s0.markedField x.a x.f lane fld .word then 0
  else if spec < 32 then (match sourceLane x.a x.f lane (selOf x.f fld) with
    | some l => x.s0.laneReg x.a l spec
    | none => 0)
  else x.w lane fld

/-! ### Crossbar permutes (R179-R181) -/

/-- The mill of the agent. -/
def Ctx.mill? (x : Ctx) : Option Mill := x.a.mill.bind x.s0.mill?
/-- The table's entry for a lane (R179). -/
def Ctx.tableEntry (x : Ctx) (lane : Nat) : Nat := x.s0.tableByte x.a x.f lane
def rot16 (w : Word) : Word := w.rotateLeft 16

def execXbar (f : Fields) (s : State) : Out :=
  issue 0x80 (fun f a => { word2 f a with perm := true }) (fun x => eachLong x fun l =>
    let e := x.tableEntry l
    let v := if bitAt e 7 then 0 else x.contributed (e % 32) (if bitAt e 5 then .B else .A)
    ([if bitAt e 6 then rot16 v else v], 0)) f s

/-- A space of a two-bit field. -/
def spaceCode (c : Nat) : Space :=
  match c with
  | 1 => .sp
  | 2 => .pd
  | _ => .glob
/-- The memory form: space MOD[5:4], each lane's 4-byte load at its own base, wheel-collective (R180). -/
def execXbarM (f : Fields) (s : State) : Out :=
  issue 0x80 (fun f _ => { d := .word, a := .pair, modOk := f.mod.toNat / 16 % 4 != 3, perm := true })
    (fun x => eachRow x fun s l =>
      let e := x.tableEntry l
      let dsts := s.dstsOf x.a x.f l 1
      if bitAt e 7 then pure (s.startLong x.a x.f l x.lowest dsts [0] 0 none 0)
      else s.loadInto x l .load (spaceCode (x.f.mod.toNat / 16 % 4)) (x.dw l .A + BitVec.ofNat 64 (4 * (e % 64))) 4 4
        (if bitAt e 6 then 22 else 2) dsts) f s

/-- `xtld`: 32 bytes at the lowest participant's address become the table at once, or fault in every participant; the wheel issues nothing else
before (R181). Where that lane's own read of its address faults nothing is loaded: a faulting `xtld` leaves the table unchanged. -/
def execXtld (f : Fields) (s : State) : Out :=
  issue 0x81 (fun f _ => { a := .pair, modOk := f.mod.toNat / 8 % 4 != 3 })
    (fun x =>
      if !x.todo.contains x.lowest then .done x.s0 [] []
      else match x.s0.load x.a x.lowest .load (spaceCode (x.f.mod.toNat / 8 % 4)) (x.dw x.lowest .A) 32 32 with
      | .error (.fault fi) => .all fi
      | .error e => .wait (x.s0.stallWheel x.a) x.lowest e false []
      | .ok (ps, bs) =>
        match x.a.mill with
        | none => .done x.s0 [] []
        | some uid =>
          .done ((((x.s0.modMill uid fun m => { m with tables := setAt m.tables (x.f.mod.toNat % 8) bs }).readPieces x.a x.lowest .ld ps).countReads
            ps).fillTlb ps) [] []) f s

/-! ### Shuffle, broadcast, votes, matches (R182-R185) -/

/-- The source lane of `shfl` (R182). -/
def shflLane (form n b : Nat) : Nat :=
  match form with
  | 0 => b % 32
  | 1 => if n < b % 32 then n else n - b % 32
  | 2 => if n + b % 32 > 31 then n else n + b % 32
  | _ => n ^^^ (b % 32)
def execShfl (f : Fields) (s : State) : Out :=
  issue 0x82 word2 (fun x => eachLong x fun l =>
    ([x.contributed (shflLane x.f.sub.toNat l (x.w l .B).toNat) .A], 0)) f s
def execBcast (f : Fields) (s : State) : Out :=
  issue 0x83 word2 (fun x => eachWrite x fun _ => ([x.contributed ((x.contributed x.lowest .B).toNat % 32) .A], 0)) f s

/-- The guard value a participant votes with (R184). -/
def Ctx.ballot (x : Ctx) (l : Nat) : Bool := (x.thread l).guard (x.f.mod.toNat % 8) != x.f.mod.getLsbD 3
def execVote (f : Fields) (s : State) : Out :=
  issue 0x84 (fun f _ =>
      if f.sub = 2 then { d := .word, gRead := [f.mod.toNat % 8] }
      else { gRead := [f.mod.toNat % 8], gWrite := [guardD f] })
    (fun x =>
      match x.f.sub.toNat with
      | 0 => eachGuard x (guardD x.f) fun _ => (x.parts.all x.ballot, 0)
      | 1 => eachGuard x (guardD x.f) fun _ => (x.parts.any x.ballot, 0)
      | _ => eachWrite x fun _ => ([laneMask (x.parts.filter x.ballot)], 0)) f s
def execMatchw (f : Fields) (s : State) : Out :=
  issue 0x89 word1 (fun x => eachLong x fun l =>
    let same := x.parts.filter fun m => x.contributed m .A == x.w l .A
    ([if x.f.sub = 0 then laneMask same else if same.length = x.parts.length then laneMask x.parts else 0], 0)) f s

/-! ### Reductions and scans (R186, R187) -/

/-- A value on its way up a tree: its code, the lane that supplied it, and the flags of the combinations below it. -/
structure Leaf2 where
  code  : Nat
  lane  : Nat
  flags : BitVec 5
  deriving DecidableEq, Repr

/-- `fmin` or `fmax` takes y (R93, R186: x on equality). -/
def picksY (larger : Bool) (x y : Nat) : Bool :=
  if (fp32.val y).isNan then false
  else if (fp32.val x).isNan then true
  else if larger then decide (orderKey y > orderKey x) else decide (orderKey y < orderKey x)
/-- One combination by SUB: x of the lower lanes, y of the upper. -/
def combine (sub : Nat) (flush : Bool) (x y : Leaf2) : Leaf2 :=
  let u := bitAt sub 4
  let fl := x.flags ||| y.flags
  let pick := fun (b : Bool) => { (if b then y else x) with flags := fl }
  match sub % 8 with
  | 0 => ⟨(x.code + y.code) % 2 ^ 32, x.lane, fl⟩
  | 1 => pick (decide (byU u 32 y.code < byU u 32 x.code))
  | 2 => pick (decide (byU u 32 y.code > byU u 32 x.code))
  | 3 =>
    let r := sumOp fp32 .rne flush [] [fp32.read flush x.code, fp32.read flush y.code]
    ⟨r.code, x.lane, fl ||| r.flags⟩
  | k =>
    let r := minMaxOp (k == 5) flush x.code y.code
    ⟨r.code, if picksY (k == 5) x.code y.code then y.lane else x.lane, fl ||| r.flags⟩
/-- The leaves: participants' sources, flushed for the floating forms under the lowest participant's `fmode` (R186). -/
def Ctx.treeFlush (x : Ctx) : Bool := (x.thread x.lowest).fmodeFlush
def Ctx.leaves (x : Ctx) : List (Option Leaf2) :=
  (List.range 32).map fun l =>
    if x.parts.contains l then
      let c := (x.contributed l .A).toNat
      some ⟨if x.f.sub.toNat % 8 ≥ 3 then flushCode x.treeFlush c else c, l, 0⟩
    else none
def execRedw (f : Fields) (s : State) : Out :=
  issue 0x85 (fun f _ => { d := if f.sub.getLsbD 3 then .pair else .word, a := .word })
    (fun x =>
      match tree5 (combine x.f.sub.toNat x.treeFlush) x.leaves with
      | none => .done x.s0 [] []
      | some r => eachLong x fun _ =>
        (BitVec.ofNat 32 r.code :: (if x.f.sub.getLsbD 3 then [BitVec.ofNat 32 r.lane] else []), r.flags)) f s

/-- One step of the scan at distance d, over all lanes at once (R187). -/
def scanStep (comb : Leaf2 → Leaf2 → Leaf2) (d : Nat) (y : List (Option Leaf2)) : List (Option Leaf2) :=
  (List.range 32).map fun n =>
    if n < d then y.getD n none
    else match y.getD (n - d) none, y.getD n none with
      | some a, some b => some (comb a b)
      | some a, none => some a
      | none, b => b
/-- Values and flags of a scan; the flags of every combination are set once (R69, R187). -/
def scanAll (comb : Leaf2 → Leaf2 → Leaf2) (excl : Bool) (l : List (Option Leaf2)) : List (Option Leaf2) × BitVec 5 :=
  let y0 := if excl then none :: l.take 31 else l
  let go := [1, 2, 4, 8, 16].foldl (fun (r : List (Option Leaf2) × BitVec 5) d =>
    let y := scanStep comb d r.1
    (y, y.foldl (fun fl v => match v with
      | some a => fl ||| a.flags
      | none => fl) r.2)) (y0, 0)
  go
def execScanw (f : Fields) (s : State) : Out :=
  issue 0x86 word1 (fun x =>
    let r := scanAll (combine (x.f.sub.toNat % 8) x.treeFlush) (x.f.sub.getLsbD 3) x.leaves
    eachLong x fun l =>
      ([match r.1.getD l none with
        | some v => BitVec.ofNat 32 v.code
        | none => 0], r.2)) f s

/-! ### Top-k and sort (R188, R189) -/

/-- The rank of a key: INT32, or FP32 with every NaN below minus infinity. -/
def rankKey (int : Bool) (c : Nat) : Int :=
  if int then signedOf 32 c
  else if (fp32.val c).isNan then -(2 ^ 33) else orderKey c
/-- Insert a lane before the first one that ranks strictly behind it: equal keys keep their order. -/
def insertLane (ahead : Nat → Nat → Bool) (l : Nat) : List Nat → List Nat
  | [] => [l]
  | m :: ms => if ahead l m then l :: m :: ms else m :: insertLane ahead l ms
/-- Lanes in delivery order. -/
def orderLanes (ahead : Nat → Nat → Bool) (ls : List Nat) : List Nat := ls.foldl (fun acc l => insertLane ahead l acc) []
/-- Lanes of a segment, by SUB[1:0]. -/
def segSize (f : Fields) : Nat := 4 * 2 ^ (f.sub.toNat % 4)
/-- The j-th participant of each segment receives the j-th key of its order and that key's place in the segment, for j below
k; the others write nothing. FP32 keys are ranked as the registers hold them, whatever fmode bit 2 says (DEDUCED, log 18). -/
def deliverKeys (desc : Bool) (k : Nat) (x : Ctx) : Body :=
  let int := x.f.sub.getLsbD 2
  let key := fun l => rankKey int (x.contributed l .A).toNat
  let ahead := fun l m => if desc then decide (key l > key m) else decide (key l < key m)
  let seg := segSize x.f
  .done (x.todo.foldl (fun s l =>
    let mine := x.parts.filter fun m => m / seg == l / seg
    let j := (mine.takeWhile (· != l)).length
    let vs := match (orderLanes ahead mine)[j]? with
      | some m => if j < k then [x.contributed m .A, BitVec.ofNat 32 (m % seg)] else []
      | none => []
    s.startLong x.a x.f l x.lowest (s.dstsOf x.a x.f l 2) vs 0 none 0) x.s0) [] []
/-- `topk` (R189): A is read in the own lane, whatever AN says (DEDUCED, log 26). -/
def execTopk (f : Fields) (s : State) : Out :=
  issue 0x87 (fun f _ => { d := .pair, a := .word, ownA := true, modOk := decide (f.mod.toNat % 8 + 1 ≤ segSize f) })
    (fun x => deliverKeys true (x.f.mod.toNat % 8 + 1) x) f s
def execSortw (f : Fields) (s : State) : Out :=
  issue 0x88 (fun _ _ => { d := .pair, a := .word, ownA := true }) (fun x => deliverKeys (x.f.sub.getLsbD 3) 32 x) f s

/-! ### Uniform registers (R190, R191) -/

/-- N of MOD[5:0]. -/
def uniN (f : Fields) : Nat := f.mod.toNat % 64
def execSmov (f : Fields) (s : State) : Out :=
  issue 0x8A (fun f _ =>
      if f.sub = 0 then { d := .word, uRead := [uniN f] } else { a := .word, uWrite := [uniN f] })
    (fun x =>
      if x.f.sub = 0 then eachWrite x fun l => ([x.s0.uniGet x.a l (uniN x.f)], 0)
      else .done (if x.todo.contains x.lowest then x.s0.uniPut x.a x.lowest (uniN x.f) (x.w x.lowest .A) else x.s0) [] []) f s
/-- The claim is taken when the register is free, and the answer says whether the wheel holds it. -/
def execSclaim (f : Fields) (s : State) : Out :=
  issue 0x8B (fun f _ => { gWrite := [guardD f] })
    (fun x =>
      let free := x.s0.claimOf x.a (uniN x.f) == 0
      let mine := x.s0.hasClaim x.a (uniN x.f)
      let s := match x.a.mill with
        | some uid => if free then x.s0.modMill uid fun m => { m with claims := sput 0 m.claims (uniN x.f) (x.a.wheelIdx + 1) } else x.s0
        | none => x.s0
      .done (x.todo.foldl (fun s l => s.modThread x.a l fun t => t.setGuard (guardD x.f) (free || mine)) s) [] []) f s
def execSrel (f : Fields) (s : State) : Out :=
  issue 0x8C (fun _ _ => {})
    (fun x =>
      match x.a.mill with
      | some uid =>
        if x.s0.hasClaim x.a (uniN x.f) then
          .done (x.s0.modMill uid fun m => { m with claims := sput 0 m.claims (uniN x.f) 0 }) [] []
        else .done x.s0 [] []
      | none => .done x.s0 [] []) f s

/-! ### Identity and convergence (R192, R193) -/

/-- Width wk of a field of the identifier (R150). -/
def Launch.width (r : Launch) (k : Nat) : Nat := bitsOf r.wid.toNat (6 * k + 5) (6 * k)
/-- The place of field k: w0 + ... + w(k-1) (R154). -/
def Launch.fieldAt (r : Launch) (k : Nat) : Nat := ((List.range k).map r.width).sum
def Launch.extOf (r : Launch) (k : Nat) : Nat := r.ext.getD k 1
/-- The value of field k of a thread, in the field's width (R154): a handler's lanes may lie beyond it (DEDUCED, log 53). -/
def Launch.fieldValue (r : Launch) (gang f2 wheel lane k : Nat) : Nat :=
  (match k with
   | 0 => lane
   | 1 => wheel
   | 2 => f2
   | 3 => gang % r.extOf 3
   | 4 => gang / r.extOf 3 % r.extOf 4
   | _ => gang / (r.extOf 3 * r.extOf 4)) % 2 ^ r.width k
/-- The whole identifier. -/
def Launch.ident (r : Launch) (gang f2 wheel lane : Nat) : Nat :=
  ((List.range 6).map fun k => r.fieldValue gang f2 wheel lane k * 2 ^ r.fieldAt k).sum
/-- What `wid` writes in a lane; a handler wheel's threads count as wheel 0 (R154). -/
def Ctx.widWords (x : Ctx) (lane : Nat) : List Word :=
  let k := x.f.mod.toNat % 8
  match x.mill?, x.a.mill.bind x.s0.gridOfMill, x.s0.wheel? x.a with
  | some m, some g, some w =>
    let gang := match x.s0.gang? m.gang with
      | some h => h.num
      | none => 0
    let wheel := if w.handler then 0 else x.a.wheelIdx
    if x.f.mod.getLsbD 3 then [BitVec.ofNat 32 (g.lr.extOf k)]
    else if k = 6 then outW 64 (g.lr.ident gang m.f2 wheel lane)
    else [BitVec.ofNat 32 (g.lr.fieldValue gang m.f2 wheel lane k)]
  | _, _, _ => [0]
def execWid (f : Fields) (s : State) : Out :=
  issue 0x8D (fun f _ =>
      { d := if f.mod.toNat % 16 = 6 then .pair else .word,
        modOk := decide (f.mod.toNat % 8 < 6) || f.mod.toNat % 16 == 6 })
    (fun x => eachWrite x fun l => (x.widWords l, 0)) f s
/-- Each thread goes past the word and waits, and remembers where; the release is the engine's (R193). -/
def execSyncw (f : Fields) (s : State) : Out :=
  issue 0x8E (fun _ _ => {})
    (fun x => .done (x.todo.foldl (fun s l => s.modThread x.a l fun t =>
      { t with waiting := true, syncAt := t.clause.map fun c => (t.pc, c) }) x.s0) [] []) f s

/-! ### Scaled dot products (R194) -/

/-- Element n of b bits. -/
def elemOf (w : Word) (bits n : Nat) : Nat := w.toNat / 2 ^ (bits * n) % 2 ^ bits
def byteOf (w : Word) (n : Nat) : Nat := elemOf w 8 n
def isNs (f : Fields) : Bool := f.mod.getLsbD 4
/-- D as FP32 accumulator with scaled products added, in the mode and flush of `fmode`. -/
def dotFloat (x : Ctx) (l n bits : Nat) (fmt : Fmt) (sa sb : Nat → Nat) : List Word × BitVec 5 :=
  let t := x.thread l
  let code := fun (c : Nat) => if isNs x.f then 127 else byteOf (x.w l .C) c
  fOut (sumOp fp32 t.fmodeMode t.fmodeFlush
    ((List.range n).map fun i =>
      (scaleV (code (sa i)) (fmt.val (elemOf (x.w l .A) bits i)), scaleV (code (sb i)) (fmt.val (elemOf (x.w l .B) bits i))))
    [fp32.read t.fmodeFlush (x.s0.srcDst x.a x.f l 0).toNat])
def dotInt (x : Ctx) (l n bits : Nat) : List Word × BitVec 5 :=
  (outW 32 (modW 32 (((x.s0.srcDst x.a x.f l 0).toNat : Int) +
    ((List.range n).map fun i => signedOf bits (elemOf (x.w l .A) bits i) * signedOf bits (elemOf (x.w l .B) bits i)).sum)), 0)
/-- C is read by the scaled floating forms alone. -/
def dotShape (int : Nat) (f : Fields) (_ : Agent) : Shape :=
  { d := .word, dRead := true, a := .word, b := .word, c := if f.sub.toNat = int ∨ isNs f then .none else .word }
def execDot4 (f : Fields) (s : State) : Out :=
  issue 0x90 (dotShape 2)
    (fun x => eachWrite x fun l =>
      if x.f.sub = 2 then dotInt x l 4 8
      else dotFloat x l 4 8 (if x.f.sub = 0 then e4m3 else e5m2) (fun _ => x.f.mod.toNat % 4) (fun _ => x.f.mod.toNat / 4 % 4)) f s
def execDot8 (f : Fields) (s : State) : Out :=
  issue 0x91 (dotShape 1)
    (fun x => eachWrite x fun l =>
      if x.f.sub = 1 then dotInt x l 8 4
      else dotFloat x l 8 4 e2m1 (fun i => 2 * (x.f.mod.toNat % 2) + i / 4) (fun i => 2 * (x.f.mod.toNat / 2 % 2) + i / 4)) f s

/-! ### Quantise and unpack (R195-R197) -/

/-- The 8-bit and 4-bit formats of SUB. -/
def blockFmt (f : Fields) : Fmt :=
  match f.sub.toNat with
  | 0 => e4m3
  | 1 => e5m2
  | _ => e2m1
def blockBits (f : Fields) : Nat := if f.sub = 2 then 4 else 8
/-- The larger magnitude of two finite values. -/
def maxMag (a b : Nat × Int) : Nat × Int :=
  let e := min a.2 b.2
  if a.1 * 2 ^ (a.2 - e).toNat ≥ b.1 * 2 ^ (b.2 - e).toNat then a else b
/-- ceil(log2(m / M)) of positive dyadic numbers. -/
def ceilLog2Div (m : Nat) (e : Int) (M : Nat) (E : Int) : Int :=
  let d : Int := (Nat.log2 m : Int) + e - (Nat.log2 M : Int) - E
  if m * 2 ^ Nat.log2 M ≤ M * 2 ^ Nat.log2 m then d else d + 1
/-- The scale code of four FP32 codes (R195). -/
def qsclCode (fmt : Fmt) (xs : List Nat) : Nat × BitVec 5 :=
  let vs := xs.map fp32.val
  if vs.any fun v => v.isNan || v.isInf false || v.isInf true then (255, fInvalid)
  else
    let m := vs.foldl (fun acc v => match v with
      | .fin _ n e => maxMag acc (n, e)
      | _ => acc) (0, 0)
    if m.1 = 0 then (0, 0)
    else match fmt.val fmt.maxC with
      | .fin _ M E => ((clampInt 0 254 (ceilLog2Div m.1 m.2 M E + 127)).toNat, 0)
      | _ => (0, 0)
def Ctx.quad (x : Ctx) (l : Nat) : List Nat := (x.s0.srcGroup x.a x.f l .A 4).map BitVec.toNat
/-- Replace bits [at, at + bits) of a word. -/
def putBits (w : Word) (lo bits v : Nat) : Word :=
  (w &&& ~~~BitVec.ofNat 32 ((2 ^ bits - 1) * 2 ^ lo)) ||| BitVec.ofNat 32 (v % 2 ^ bits * 2 ^ lo)
def execQscl (f : Fields) (s : State) : Out :=
  issue 0x92 (fun _ _ => { d := .word, dRead := true, a := .quad })
    (fun x => eachWrite x fun l =>
      let r := qsclCode (blockFmt x.f) (x.quad l)
      ([putBits (x.s0.srcDst x.a x.f l 0) (8 * (x.f.mod.toNat % 4)) 8 r.1], r.2)) f s

/-- The scale byte that MOD selects (R196). -/
def scaleSel (f : Fields) : Nat := if f.sub = 2 then 2 * (f.mod.toNat % 2) + f.mod.toNat / 4 % 2 else f.mod.toNat % 4
/-- One element of a block under a scale code: RoundNE of the exact quotient. -/
def qpackOp (fmt : Fmt) (scale c : Nat) : FRes :=
  if scale = 255 then ⟨fmt.nanC, fInvalid⟩
  else cvtOp fmt false .rne false (match fp32.val c with
    | .fin n m e => .fin n m (e - ((scale : Int) - 127))
    | v => v)
def execQpack (f : Fields) (s : State) : Out :=
  issue 0x93 (fun f _ => { d := .word, dRead := f.sub == 2, a := .quad, c := .word })
    (fun x => eachWrite x fun l =>
      let rs := (x.quad l).map (qpackOp (blockFmt x.f) (byteOf (x.w l .C) (scaleSel x.f)))
      let v := (List.range 4).foldl (fun n i => n + (rs.getD i ⟨0, 0⟩).code * 2 ^ (blockBits x.f * i)) 0
      ([if x.f.sub = 2 then putBits (x.s0.srcDst x.a x.f l 0) (16 * (x.f.mod.toNat / 4 % 2)) 16 v else BitVec.ofNat 32 v],
        rs.foldl (fun fl r => fl ||| r.flags) 0)) f s
/-- One element unpacked: RoundNE of element times scale, under the flush of R67 (DEDUCED, log 18). -/
def unpkOp (fmt : Fmt) (flush : Bool) (scale c : Nat) : FRes := cvtOp fp32 true .rne flush (scaleV scale (fmt.val c))
def execUnpk (f : Fields) (s : State) : Out :=
  issue 0x94 (fun f _ => { d := .quad, a := .word, c := if isNs f then .none else .word })
    (fun x => eachWrite x fun l =>
      let scale := if isNs x.f then 127 else byteOf (x.w l .C) (scaleSel x.f)
      let base := if x.f.sub = 2 then 4 * (x.f.mod.toNat / 4 % 2) else 0
      let rs := (List.range 4).map fun i =>
        unpkOp (blockFmt x.f) (x.thread l).fmodeFlush scale (elemOf (x.w l .A) (blockBits x.f) (base + i))
      (rs.map fun r => BitVec.ofNat 32 r.code, rs.foldl (fun fl r => fl ||| r.flags) 0)) f s

end Sys2Proof.Machine
end

