-- ==== Sys2Proof/Machine/Sluice.lean ====
section
/-! DEFINITION. The sluice: ports, patterns, firing and handler wheels, opcodes 0xC0-0xC4 and the events PATTERN_FIRE,
HANDLER_WHEEL_START and HANDLER_RETIRE (spec/13_sluice_ports_and_patterns.md R260-R280). -/

namespace Sys2Proof.Machine

/-! ### Entries and configuration words -/

/-- The check of an enabled entry (R266): the first subcode that applies. -/
def patSub (hres : Nat) (e : BitVec 128) : Option Nat :=
  if !patEn e then none
  else if (patPortList e).isEmpty || decide ((patPortList e).length > 4) then some 0
  else if (patPc e).toNat % 4 != 0 then some 1
  else if hres = 0 then some 2
  else none
/-- A port with a configuration word's settings (R261); its FIFO, DROPS and STICKY stay. -/
def Port.configure (p : Port) (w : Nat) : Port :=
  { p with depth := w % 16 + 1, count := bitAt w 4, gang := bitAt w 5 }

/-! ### Thread starts (R149, R152) -/

/-- A thread's slot number (R152). -/
def Launch.slot (r : Launch) (gang f2 wheel lane : Nat) : Nat := ((gang * r.gang + f2) * 16 + wheel) * 32 + lane
/-- The system registers a thread starts with. -/
def Launch.sys (r : Launch) (gang f2 wheel lane : Nat) : SysRegs :=
  let n := r.slot gang f2 wheel lane
  let wsp := r.spill + BitVec.ofNat 64 (n * r.spillsz)
  { SysRegs.zero with
    tvec := r.tvec
    wsp := wsp
    wlim := wsp + BitVec.ofNat 64 r.spillsz
    frp := if r.frp = 0 then 0 else r.frp + BitVec.ofNat 64 (64 * n) }

/-! ### Firing (R267-R271) -/

/-- The pattern that fires: aged ones first, then the highest PRIO, then the lowest index (R268). -/
def Mill.fires (m : Mill) : Option Nat :=
  let rank := fun (n : Nat) => match m.pats[n]? with
    | some p => (if p.age ≥ 256 then 16 else 0) + patPrio p.entry
    | none => 0
  ((List.range m.pats.length).filter m.satisfiable).foldl (fun best n => match best with
    | none => some n
    | some b => if rank n > rank b then some n else some b) none

/-- The sluice of a mill may fire: the mill runs, and its gang is neither saving nor restoring (R355, R361, R368). -/
def State.sluiceRuns (s : State) (m : Mill) : Bool :=
  m.st == .running && !m.aborted && (match s.gang? m.gang with
    | some g => g.save.isNone && !g.restoring
    | none => false)

/-- A handler wheel's threads as they start: PC at the handler, the messages in v0-v7, `hpat` (R270). -/
def handlerThread (r : Launch) (gang f2 wheel lane pat : Nat) (pc : DWord) (msgs : List DWord) : Thread :=
  let t := { Thread.start pc false with sys := r.sys gang f2 wheel lane, hpat := pat }
  (List.range msgs.length).foldl (fun t i =>
    (t.setV (2 * i) (msgs.getD i 0).lo).setV (2 * i + 1) (msgs.getD i 0).hi) t

/-- Fire one pattern (R269): heads removed, live instances up, the lowest free handler wheel taken, ages counted.
In a frozen mill the wheel stops at its first header (R369). -/
def Mill.fire (m : Mill) (r : Launch) (gang n : Nat) : Mill :=
  match m.pats[n]?, ((List.range m.wheels.length).find? fun i => match m.wheels[i]? with
    | some w => w.freeHandler
    | none => false) with
  | some p, some w =>
    let ports := patPortList p.entry
    let msgs := ports.filterMap fun i => match m.ports[i]? with
      | some q => q.fifo.head?
      | none => none
    { m with
      ports := ports.foldl (fun ps i => modAt ps i fun q => { q with fifo := q.fifo.drop 1 }) m.ports
      pats := (List.range m.pats.length).map fun i => match m.pats[i]? with
        | some q =>
          if i = n then { q with live := q.live + 1, age := 0 }
          else if m.satisfiable i then { q with age := min (q.age + 1) 256 } else q
        | none => ⟨0, 0, 0⟩
      wheels := modAt m.wheels w fun x => { x with
        threads := (List.range 32).map fun l =>
          { handlerThread r gang m.f2 w l n (patPc p.entry) (msgs.map (·.val)) with halted := m.frozen }
        inst := some ⟨n, (msgs.map (·.stamps)).flatten, false⟩
        paused := 0 } }
  | _, _ => m

/-- PATTERN_FIRE: one decision of a mill's sluice. -/
def execPatternFire (uid : Nat) (s : State) : Out :=
  match s.mill? uid, s.gridOfMill uid with
  | some m, some g =>
    if !s.sluiceRuns m then .next s
    else match m.fires, s.gang? m.gang with
      | some n, some h => .next (s.modMill uid fun m => m.fire g.lr h.num n)
      | _, _ => .next s
  | _, _ => .next s

/-- A stamped access has performed at its scope, of which the mill that takes the message is a part as its sender is. -/
def State.stampDone (s : State) (uid : Nat) (x : Nat × Scope) : Bool :=
  match s.posted? x.1 with
  | none => true
  | some p => s.doneFor p (.wheel uid 0) x.2
/-- The threads of a wheel learn of writes by a handoff; what they knew as an earlier instance is forgotten (R234, R240). -/
def State.handOver (s : State) (a : Agent) (ids : List Nat) : State :=
  { s with posted := s.posted.map fun p =>
    let old := p.readers.filter fun r => !r.1.same a
    { p with readers := if ids.contains p.id && p.rd == 0 then old ++ (List.range 32).map fun l => (a, l, none) else old } }
/-- HANDLER_WHEEL_START: the wait of R270 is over. -/
def execHandlerWheelStart (uid w : Nat) (s : State) : Out :=
  match s.wheel? (.wheel uid w) with
  | some x =>
    match x.inst with
    | some i =>
      if i.stamps.all (s.stampDone uid) then
        .next ((s.handOver (.wheel uid w) (i.stamps.map Prod.fst)).modWheel (.wheel uid w) fun x => { x with inst := some { i with stamps := [], begun := true } })
      else .next s
    | none => .next s
  | none => .next s
/-- The accesses that an instance leaves behind keep its threads' `frp` and record counts (R353). -/
def State.keepHeld (s : State) (uid w : Nat) : State :=
  { s with posted := s.posted.map fun p =>
    if p.owner.same (.wheel uid w) && p.held.isNone then
      let t := s.thread (.wheel uid w) p.lane
      { p with held := some (t.sys.frp, t.recCount) }
    else p }
/-- HANDLER_RETIRE: every thread has ended, and its long-latency instructions have completed (R271). The wheel's claims are
released (R161). -/
def execHandlerRetire (uid w : Nat) (s : State) : Out :=
  match s.wheel? (.wheel uid w) with
  | some x =>
    match x.inst with
    | some i =>
      if x.threads.all fun t => t.exited && t.long.isEmpty then
        .next ((s.keepHeld uid w).modMill uid fun m => { m with
          wheels := modAt m.wheels w fun x => { x with inst := none }
          pats := modAt m.pats i.pat fun p => { p with live := p.live - 1 }
          claims := m.claims.filter fun c => c.2 != w + 1 })
      else .next s
    | none => .next s
  | none => .next s

/-! ### Arrivals (R262-R264) -/

/-- What a thread's message meets at a port (R263). -/
inductive Arrival where
  | taken (p : Port)
  | dropped (p : Port)
  | full
  deriving DecidableEq, Repr
def Port.arrive (p : Port) (m : Msg) : Arrival :=
  if p.fifo.length < p.depth then .taken { p with fifo := p.fifo ++ [m] }
  else if p.count then .dropped { p with drops := if p.drops = BitVec.allOnes 32 then p.drops else p.drops + 1, sticky := true }
  else .full
/-- An engine's message at a port: false when it must wait (R264). -/
def State.engineSend (s : State) (uid port : Nat) (m : Msg) : State × Bool :=
  match s.mill? uid with
  | none => (s, true)
  | some x =>
    match x.ports[port]? with
    | none => (s, true)
    | some p =>
      if p.fifo.length < p.depth then
        (s.modMill uid fun x => { x with ports := modAt x.ports port fun p => { p with fifo := p.fifo ++ [m] } }, true)
      else (s, false)

/-! ### `send` (R275, R276) -/

/-- The accesses a message is stamped with (R240): the sender's LD, ST and AT accesses, and the writes it has read or learned of (R234). One that
has performed at the stamp scope is waited for no longer, and its receiver learns of it for its own wider fences. -/
def State.stampOf (s : State) (a : Agent) (lane : Nat) (sc : Scope) : List (Nat × Scope) :=
  (s.posted.filter fun p =>
    p.set != .ho && p.set != .en &&
    ((p.owner.same a && p.lane == lane) ||
     (p.rd == 0 && p.readers.any fun r => r.1.same a && r.2.1 == lane && r.2.2 != some .ho))).map fun p => (p.id, sc)
/-- A mill counts as finished: draining, freed, aborted, or gone (R273). -/
def State.finished (s : State) (uid : Nat) : Bool :=
  match s.mill? uid with
  | some m => m.aborted || m.st == .draining || m.st == .freed
  | none => true
/-- The gang member t of an agent's mill. -/
def Ctx.member (x : Ctx) (t : Nat) : Option Nat :=
  match x.mill? with
  | none => none
  | some m => match x.s0.gang? m.gang with
    | some g => g.mills[t]?
    | none => none
/-- A port-overflow fault with INFO of its lane (R276). -/
def sendFault (sub port mill : Nat) : FaultInfo :=
  { cls := 0x10, sub := sub, info0 := BitVec.ofNat 64 (port % 256 + 256 * (mill % 256)) }
def sendGang (f : Fields) : Bool := f.sub == 1
def Ctx.sendPort (x : Ctx) (l : Nat) : Nat := (x.w l .B).toNat
def Ctx.sendMill (x : Ctx) (l : Nat) : Nat :=
  if sendGang x.f then (x.w l .C).toNat else match x.mill? with
    | some m => m.f2
    | none => 0
/-- Phase 1 (R275). -/
def Ctx.sendPhase1 (x : Ctx) (l : Nat) : Except AErr Unit :=
  let p := x.sendPort l
  let members := match x.a.mill.bind x.s0.gridOfMill with
    | some g => g.lr.gang
    | none => 0
  if p > 33 ∨ (sendGang x.f ∧ p > 31) then .error (.fault (sendFault 2 p (x.sendMill l)))
  else if sendGang x.f ∧ x.sendMill l ≥ members then .error (.fault (sendFault 3 p (x.sendMill l)))
  else pure ()
/-- The context runs a walk of the mill. -/
def Mill.walking (m : Mill) (c : Nat) : Bool :=
  match m.ctxs[c]? with
  | some x => x.walks.any Walk.live
  | none => false
/-- Phase 2 in one lane: delivered, dropped or refused; a member that is not resident is waited for. -/
def State.sendOne (s : State) (x : Ctx) (l : Nat) : Except AErr State :=
  let p := x.sendPort l
  let msg := x.dw l .A
  let uid := if sendGang x.f then x.member (x.sendMill l) else x.a.mill
  let bad := fun sub => (Except.error (.fault (sendFault sub p (x.sendMill l))) : Except AErr State)
  match uid with
  | none => bad 3
  | some u =>
    if p ≥ 32 then
      let kind := msg.toNat / 2 ^ 60
      match s.mill? u with
      | some m =>
        if (kind = 4 ∨ kind = 5) ∧ m.walking (p - 32) then
          let v : Msg := ⟨msg, s.stampOf x.a l .mill⟩
          .ok (s.modMill u fun m => { m with ctxs := modAt m.ctxs (p - 32) fun c => { c with input := c.input ++ [v] } })
        else bad 1
      | none => bad 1
    else if s.finished u then bad 3
    else match s.mill? u with
      | none => bad 3
      | some m =>
        if m.st != .running then .error .stall
        else match m.ports[p]? with
          | none => bad 2
          | some q =>
            let sc : Scope := if sendGang x.f || q.gang then .gang else .mill
            match q.arrive ⟨msg, s.stampOf x.a l sc⟩ with
            | .taken q' => .ok (s.modMill u fun m => { m with ports := setAt m.ports p q' })
            | .dropped q' => .ok (s.modMill u fun m => { m with ports := setAt m.ports p q' })
            | .full => bad 0
/-- Phase 2 over the lanes: a wait keeps what is done and what is refused, and is a stopping point (R275, R276, R361). -/
def sendAll (x : Ctx) : Body :=
  let r := x.todo.foldl (rowStep fun s l => s.sendOne x l) (x.s0, x.lost, [], none)
  match r.2.2.2, r.2.1 with
  | some (lane, e), _ => .wait r.1 lane e true r.2.2.1 r.2.1
  | none, [] => .done r.1 [] []
  | none, (l, fi) :: rest => .coll r.1 fi (l :: rest.map Prod.fst) r.2.2.1
/-- `send`: phase 1 over all participants, also over those that a restarted word has done already (DEDUCED, log 53), then phase 2. -/
def execSend (f : Fields) (s : State) : Out :=
  issue 0xC0 (fun f _ => { a := .pair, b := .word, c := if sendGang f then .word else .none, allHaz := true })
    (fun x =>
      match gather x.parts x.sendPhase1 with
      | .bad b => noneDone x b
      | _ => sendAll x) f s

/-! ### Patterns and ports by instruction (R277-R279) -/

/-- The entry of the lowest participant's quad is checked and written; its age is cleared. A refused one is every participant's fault (DEDUCED,
log 53). -/
def execPatset (f : Fields) (s : State) : Out :=
  issue 0xC1 (fun _ _ => { a := .quad, b := .word })
    (fun x =>
      let e : BitVec 128 := BitVec.ofNat 128 ((List.range 4).map fun k =>
        ((x.s0.srcGroup x.a x.f x.lowest .A 4).getD k 0).toNat * 2 ^ (32 * k)).sum
      let n := (x.w x.lowest .B).toNat % 16
      let hres := match x.a.mill.bind x.s0.gridOfMill with
        | some g => g.lr.hres
        | none => 0
      match patSub hres e, x.a.mill with
      | some k, _ => .all { cls := 0x11, sub := k }
      | none, some uid => .done (x.s0.modMill uid fun m => { m with pats := modAt m.pats n fun p => { p with entry := e, age := 0 } }) [] []
      | none, none => .done x.s0 [] []) f s

/-- How many of its fields PA, PB and PC name a port (R304, R278). -/
def WalkRec.portUses (r : WalkRec) (n : Nat) : Nat := ([r.pa, r.pb, r.pc].filter (· == n)).length
/-- A new depth is too small for the messages held, or for a live walk (R278). -/
def Mill.portcfgSub (m : Mill) (n depth : Nat) : Option Nat :=
  let occ := match m.ports[n]? with
    | some p => p.fifo.length
    | none => 0
  let walks := (m.ctxs.map (·.walks)).flatten.filter Walk.pending
  if depth < occ then some 3
  else if walks.any fun w => decide (depth < w.rc.portUses n * w.rc.look) then some 4
  else none
/-- `portcfg`; a refused word is every participant's fault (DEDUCED, log 53). -/
def execPortcfg (f : Fields) (s : State) : Out :=
  issue 0xC2 (fun _ _ => { a := .word, b := .word })
    (fun x =>
      let w := (x.w x.lowest .A).toNat
      let n := (x.w x.lowest .B).toNat % 32
      match x.mill?, x.a.mill with
      | some m, some uid =>
        match m.portcfgSub n (w % 16 + 1) with
        | some k => .all { cls := 0x11, sub := k }
        | none => .done (x.s0.modMill uid fun m => { m with ports := modAt m.ports n fun p => p.configure w }) [] []
      | _, _ => .done x.s0 [] []) f s

/-- What each participant is to read; `.clr` names the instruction by the first number it takes (R279). -/
def Ctx.portLook (x : Ctx) (l : Nat) : Look :=
  let b := (x.w l .B).toNat
  if x.f.mod.getLsbD 0 then .pattern (b % 16)
  else .port (b % 32) (if x.f.mod.getLsbD 1 then some x.s0.fresh else none)
def execPortst (f : Fields) (s : State) : Out :=
  issue 0xC3 (fun f _ => { d := .pair, b := .word, modOk := f.mod.toNat % 4 != 3 }) (fun x => eachLook x x.portLook) f s

/-- `hret` ends the thread as `exit` does (R280). -/
def execHret (f : Fields) (s : State) : Out :=
  issue 0xC4 (fun _ _ => { transfer := true }) (fun x => eachLane x fun s l => s.endThread x.a l) f s

end Sys2Proof.Machine
end

