-- ==== Sys2Proof/Machine/Flume.lean ====
section
/-! DEFINITION. The flume and the timeline counters, opcodes 0xC8-0xCA, and the flume's own events
(spec/14_flume_and_timelines.md R281-R298). -/

namespace Sys2Proof.Machine

/-! ### Tagged addresses (R202) -/

def tagSpace (x : DWord) : Space :=
  match x.toNat / 2 ^ 60 with
  | 15 => .sp
  | 14 => .pd
  | _ => .glob
/-- The address part: bits 59:0, bits 29:0, or the whole value. -/
def tagAddr (x : DWord) : Nat :=
  match tagSpace x with
  | .sp => x.toNat % 2 ^ 60
  | .pd => x.toNat % 2 ^ 30
  | .glob => x.toNat
/-- A tagged address keeps its row's rule. -/
def tagOk (x : DWord) : Bool :=
  match tagSpace x with
  | .sp => true
  | .pd => x.toNat / 2 ^ 30 % 2 ^ 30 == 0
  | .glob => x.toNat < 2 ^ 56
/-- The address of a space with its tag; one outside its field is recorded modulo 2^60, or 2^64 (DEDUCED, log 33). -/
def taggedVa (spc : Space) (a : Int) : DWord :=
  match spc with
  | .sp => BitVec.ofNat 64 (15 * 2 ^ 60 + (a % 2 ^ 60).toNat)
  | .pd => BitVec.ofNat 64 (14 * 2 ^ 60 + (a % 2 ^ 60).toNat)
  | .glob => BitVec.ofInt 64 a

/-! ### The schedule (R281-R284) -/

/-- A field of some bytes, unsigned and signed. -/
def fieldU (bs : List Byte) (off n : Nat) : Nat := natOfBytes ((bs.drop off).take n)
def fieldS (bs : List Byte) (off : Nat) : Int := (BitVec.ofNat 32 (fieldU bs off 4)).toInt
/-- An entry from its 64 bytes (R282). -/
def flEntryOf (bs : List Byte) : FlEntry where
  kind := fieldU bs 0 1
  esz := fieldU bs 1 1
  note := BitVec.ofNat 8 (fieldU bs 2 1)
  nslot := fieldU bs 3 1
  rep := fieldU bs 4 4
  stage := fieldU bs 8 4
  sstep := fieldU bs 0x0C 4
  src := BitVec.ofNat 64 (fieldU bs 0x10 8)
  dst := BitVec.ofNat 64 (fieldU bs 0x18 8)
  n0 := fieldU bs 0x20 4
  n1 := fieldU bs 0x24 4
  src1 := fieldS bs 0x28
  dst1 := fieldS bs 0x2C
  rsrc := fieldS bs 0x30
  rdst := fieldS bs 0x34
  aux := fieldU bs 0x3C 4
/-- The check of an entry: the first subcode that applies (R284). -/
def FlEntry.sub (e : FlEntry) (gang : Nat) : Option Nat :=
  if e.kind > 4 ∨ e.esz > 4 then some 1
  else if e.n0 = 0 ∨ e.n1 = 0 ∨ e.rep > 65536 then some 2
  else if !tagOk e.src || !tagOk e.dst then some 3
  else if (e.kind = 1 ∨ e.kind = 2) ∧ e.aux % 4 ≠ 0 then some 4
  else if e.kind = 4 ∧ (tagSpace e.dst ≠ .sp ∨ e.aux % 256 = 0 ∨ e.aux % 256 / 2 ^ gang ≠ 0) then some 5
  else none
/-- Repeats; 0 means 1. -/
def FlEntry.reps (e : FlEntry) : Nat := if e.rep = 0 then 1 else e.rep
def FlEntry.size (e : FlEntry) : Nat := 2 ^ e.esz
def FlEntry.elems (e : FlEntry) : Nat := e.n0 * e.n1
def FlEntry.multicast (e : FlEntry) : Bool := e.kind == 4
/-- NOTE (R283). -/
def FlEntry.notes (e : FlEntry) : Bool := e.note.getLsbD 7

/-! ### Release and numbering (R285, R286) -/

/-- The entry and repeat of an operation number, from entry `i` on. -/
def opAt : List FlEntry → Nat → Nat → Option (Nat × Nat)
  | [], _, _ => none
  | e :: l, i, n => if n ≤ e.reps then some (i, n - 1) else opAt l (i + 1) (n - e.reps)
/-- Repeat r is released; the sum is exact. -/
def Flume.released (f : Flume) (e : FlEntry) (r : Nat) : Bool := e.stage + r * e.sstep ≤ f.stage.toNat

/-- The schedule of a mill's grid. -/
def State.schedOf (s : State) (uid : Nat) : List FlEntry :=
  match s.gridOfMill uid with
  | some g => g.sched
  | none => []
def FlOp.entryIn (o : FlOp) (l : List FlEntry) : Option FlEntry := l[o.entry]?

/-- The engine agent of a mill's flume: no wheel has this index. Its lane is the operation number. -/
def flumeAgent (uid : Nat) : Agent := .wheel uid 255
/-- A gang's save has frozen its engines (R363), or a debugger has frozen the mill (R369). -/
def State.enginesFrozen (s : State) (m : Mill) : Bool :=
  m.frozen || (match s.gang? m.gang with
    | some g => g.restoring || (match g.save with
      | some q => q.frozen
      | none => false)
    | none => true)
/-- The flume moves elements and messages: the mill is on its core, not aborted, not frozen. -/
def State.flumeRuns (s : State) (m : Mill) : Bool :=
  (m.st == .running || m.st == .draining) && !m.aborted && !s.enginesFrozen m

/-- An access of an operation has not performed at the scope of its completion (R291). -/
def State.opPending (s : State) (uid : Nat) (o : FlOp) (e : FlEntry) : Bool :=
  s.posted.any fun p => p.owner == flumeAgent uid && p.lane == o.num &&
    (p.bad.isSome || !s.doneFor p (.wheel uid 0) (if e.multicast then .gang else .mill))
/-- The transfers of an operation are over: every element is done and its writes have performed (R291). -/
def State.opMoved (s : State) (uid : Nat) (o : FlOp) (e : FlEntry) : Bool :=
  !o.failed && o.done.length == e.elems && !s.opPending uid o e

/-- The next operation, when the flume may issue it (R286): released, a place free, nothing failed (R293), and after a restore
the remainder moved first (R366). -/
def State.nextOp (s : State) (m : Mill) : Option (Nat × Nat) :=
  if m.flume.halt.isSome || decide (m.flume.ops.length ≥ 16) then none
  else if decide (m.flume.resume < m.flume.next) && m.flume.ops.any fun o => decide (o.num ≤ m.flume.resume) && (match o.entryIn (s.schedOf m.uid) with
      | some e => !s.opMoved m.uid o e
      | none => false) then none
  else match opAt (s.schedOf m.uid) 0 m.flume.next with
    | none => none
    | some (i, r) => match (s.schedOf m.uid)[i]? with
      | some e => if m.flume.released e r then some (i, r) else none
      | none => none
def State.modFlume (s : State) (uid : Nat) (f : Flume → Flume) : State := s.modMill uid fun m => { m with flume := f m.flume }

/-- FLUME_ISSUE: the next released operation takes a free place. -/
def execFlumeIssue (uid : Nat) (s : State) : Out :=
  match s.mill? uid with
  | none => .next s
  | some m =>
    if !s.flumeRuns m then .next s
    else match s.nextOp m with
      | none => .next s
      | some (i, r) => .next (s.modFlume uid fun f =>
          { f with next := f.next + 1, ops := f.ops ++ [⟨f.next, i, r, [], false, false, [], [], []⟩] })

/-! ### Engine records and halts (R293, R323, R350) -/

/-- Write the engine records that wait, as far as the front end has resolved their page; a write that fails is not made. Fuel is how many
there are. -/
def State.flushGo : Nat → State → Nat → State
  | 0, s, _ => s
  | n + 1, s, uid =>
    match (s.mill? uid).map (·.lateRecs) with
    | some (r :: rest) =>
      let done := fun (s : State) => State.flushGo n (s.modMill uid fun m => { m with lateRecs := rest }) uid
      if s.asking (flumeAgent uid) 0 then s
      else match s.writeRec (.wheel uid 0) 0 r.pc r with
        | .ok s => done s
        | .error (.fault _) => done s
        | .error (.absent root page fi) =>
          if ((s.mill? uid).map fun m => m.flume.refused.contains (0, page)) == some true then done s
          else s.stallOn (flumeAgent uid) 0 (.absent root page fi)
        | .error e => s.stallOn (flumeAgent uid) 0 e
    | _ => s
def State.flushRecs (s : State) (uid : Nat) : State := State.flushGo (((s.mill? uid).map (·.lateRecs.length)).getD 0) s uid
/-- An engine record: kept by the mill, and written at `frp` of lane 0 of wheel 0 as soon as its page is there. -/
def State.engineRecord (s : State) (uid orig : Nat) (fi : FaultInfo) (pc seq : DWord) : State :=
  let r := s.engineRec uid orig fi pc seq
  (s.modMill uid fun m => { m with lastEng := r, engCount := m.engCount + 1, lateRecs := m.lateRecs ++ [r] }).flushRecs uid
/-- The operation fails: the context halts; the lowest failed operation stays named (DEDUCED, log 33). -/
def State.flumeHalt (s : State) (uid : Nat) (o : FlOp) (fi : FaultInfo) : State :=
  (s.engineRecord uid 1 { fi with info0 := BitVec.ofNat 64 o.entry } 0 (BitVec.ofNat 64 o.num)).modFlume uid fun f => { f with
    ops := f.ops.map fun q => if q.num = o.num then { q with failed := true } else q
    halt := match f.halt with
      | some (n, e) => if o.num < n then some (o.num, o.entry) else some (n, e)
      | none => some (o.num, o.entry) }

/-! ### Elements (R287-R290, R293) -/

/-- An error's fault with the address as the record names it. -/
def AErr.tagged (e : AErr) (va : DWord) : AErr :=
  match e with
  | .fault fi => .fault { fi with va := va }
  | .absent r p fi => .absent r p { fi with va := va }
  | e => e
/-- Check an engine's access at an exact address: alignment, range, translation (R293). `owner` is the mill whose scratchpad
a scratchpad address names. -/
def State.engPieces (s : State) (owner : Nat) (refused : List Nat) (k : AccKind) (spc : Space) (a : Int) (size align : Nat) :
    Except AErr (List Piece) :=
  let va := taggedVa spc a
  let top : Int := match spc with
    | .glob => 2 ^ 56
    | _ => 2 ^ 60
  if a % align != 0 then .error (.fault (accFault 0x0A 0 va k spc size))
  else if a < 0 ∨ a ≥ top then
    .error (.fault (accFault 9 (match spc with
      | .glob => 1
      | .sp => 2
      | .pd => 3) va k spc size))
  else match s.millPieces owner k refused spc (BitVec.ofInt 64 a) size with
    | .error e => .error (e.tagged va)
    | .ok ps => .ok ps

/-- Read an engine's own access for an operation: the bytes, and whether a marked word was met (R318). -/
def State.engRead (s : State) (uid op : Nat) (refused : List Nat) (spc : Space) (a : Int) (size align : Nat) :
    Except AErr (List Byte × Bool × List Piece) := do
  let ps ← s.engPieces uid refused .engRead spc a size align
  let va := taggedVa spc a
  match s.txns.find? fun t => t.owner == some (flumeAgent uid, op) && t.va == va && (match t.resp with
      | some (st, _) => st != 0
      | none => false) with
  | some t =>
    let cause := match t.resp with
      | some (3, _) => 2
      | some (2, _) => 0
      | _ => 1
    .error (.fault (accFault 0x18 cause va .engRead spc size))
  | none =>
    let bs ← ps.mapM fun p => s.readPiece (flumeAgent uid) op va.toNat p
    pure (bs.flatten, s.poisonedIn ps (s.dieOf (flumeAgent uid)), ps)

/-- Where one element is read and written: its source, none for a zero element of a bitmap expand, and whether a marked word
of the index list or bitmask was met (R288). -/
structure ElemPlace where
  src    : Option Int
  dst    : Int
  marked : Bool

/-- What an operation reads for its elements once and for all. -/
def FlOp.row? (o : FlOp) (r : Nat) : Option (Nat × Bool) := (o.rows.find? (·.1 == r)).map (·.2)
/-- The index of a row, read with the row's first element (R288). -/
def State.readRow (s : State) (uid : Nat) (refused : List Nat) (e : FlEntry) (o : FlOp) (r : Nat) : Except AErr FlOp :=
  if (o.row? r).isSome then pure o
  else do
    let (bs, bad, _) ← s.engRead uid o.num refused .sp (e.aux + 4 * (o.rep * e.n1 + r)) 4 4
    pure { o with rows := o.rows ++ [(r, natOfBytes bs, bad)] }
/-- The mask's bits up to element t, each tested once; fuel is how many are still to be tested (R288). -/
def State.readMask (s : State) (uid : Nat) (refused : List Nat) (e : FlEntry) : Nat → FlOp → Except AErr FlOp
  | 0, o => pure o
  | n + 1, o => do
    let t := o.mask.length
    let (bs, bad, _) ← s.engRead uid o.num refused .sp (e.aux + o.rep * ceilDiv e.elems 8 + t / 8) 1 1
    State.readMask s uid refused e n { o with mask := o.mask ++ [((bs.getD 0 0).getLsbD (t % 8), bad)] }
/-- What element t needs of the index list or the bitmask is read. -/
def State.readFor (s : State) (uid : Nat) (refused : List Nat) (e : FlEntry) (o : FlOp) (t : Nat) : Except AErr FlOp :=
  match e.kind with
  | 1 => s.readRow uid refused e o (t / e.n0)
  | 2 => s.readRow uid refused e o (t / e.n0)
  | 3 => s.readMask uid refused e (t + 1 - o.mask.length) o
  | _ => pure o
/-- The place of element t of an operation that has read what it needs (R288). -/
def FlOp.place (o : FlOp) (e : FlEntry) (t : Nat) : ElemPlace :=
  let r := t / e.n0
  let k := o.rep
  let c : Int := t % e.n0 * e.size
  let src0 : Int := tagAddr e.src + k * e.rsrc
  let dst0 : Int := tagAddr e.dst + k * e.rdst
  let (idx, bad) := (o.row? r).getD (0, false)
  match e.kind with
  | 1 => ⟨some (src0 + idx * e.src1 + c), dst0 + r * e.dst1 + c, bad⟩
  | 2 => ⟨some (src0 + r * e.src1 + c), dst0 + idx * e.dst1 + c, bad⟩
  | 3 =>
    let (set, bad) := o.mask.getD t (false, false)
    let j := ((o.mask.take t).filter Prod.fst).length
    ⟨if set then some (src0 + j * e.size) else none, dst0 + r * e.dst1 + c, bad⟩
  | _ => ⟨some (src0 + r * e.src1 + c), dst0 + r * e.dst1 + c, false⟩

/-- The mills a destination names: the own one, or the members of a multicast (R290); a finished member fails it. -/
def State.elemMills (s : State) (m : Mill) (e : FlEntry) (va : DWord) : Except AErr (List Nat) :=
  if !e.multicast then .ok [m.uid]
  else match s.gang? m.gang with
    | none => .ok []
    | some g =>
      let l := ((List.range 8).filter fun i => bitAt e.aux i).filterMap fun i => g.mills[i]?
      if l.any s.finished || l.length != ((List.range 8).filter fun i => bitAt e.aux i).length then
        .error (.fault (accFault 0x13 12 va .engWrite (tagSpace e.dst) e.size))
      else .ok l

/-- The pages whose resolution was refused to an operation (R221). -/
def Flume.refusedTo (f : Flume) (op : Nat) : List Nat := (f.refused.filter (·.1 == op)).map Prod.snd
/-- Check the write of an element into one mill's view (R293). -/
def State.elemCheck (s : State) (m : Mill) (op : Nat) (e : FlEntry) (a : Int) (owner : Nat) : Except AErr (List Piece) := do
  let spc := tagSpace e.dst
  let va := taggedVa spc a
  let ps ← s.engPieces owner (m.flume.refusedTo op) .engWrite spc a e.size e.size
  match s.boundPieces ps true with
  | some k => .error (.fault (accFault 0x0B k va .engWrite spc e.size))
  | none =>
    if ps.any fun p => p.tier != 3 && s.blocked p.key p.len then
      .error (.fault (accFault 0x18 0 va .engWrite spc e.size))
    else pure ps

/-- Post an element's write; one that carries a mark performs and marks its destination (R318). -/
def State.elemWrite (s : State) (uid op : Nat) (e : FlEntry) (a : Int) (bytes : List Byte) (marked : Bool) (ps : List Piece) : State :=
  let i := s.postInfo (flumeAgent uid) op 0 .st (accessField .engWrite (tagSpace e.dst) e.size)
  let s1 := (s.postBytes i (taggedVa (tagSpace e.dst) a).toNat (min e.size 8) ps bytes).fillTlb ps
  if !marked then s1
  else (s1.posted.filter fun p => decide (p.id ≥ s.fresh) && p.tag.isNone).foldl (fun s p =>
    let s := (s.before p).foldl (fun s q => s.performId q.id) s
    let s := s.settlePosted p
    (List.range p.size).foldl (fun s i => s.setMark (p.key + i)) s) s1

/-- The source bytes of an element at an address: an element of 16 bytes is two halves that are read at moments of their own (R124,
R287), which of them first by choice; the answer is the operation with a first half alone, or the element's bytes. -/
def State.elemRead (s : State) (m : Mill) (o : FlOp) (e : FlEntry) (t : Nat) (a : Int) :
    Except AErr (FlOp × Option (List Byte × Bool × List Piece)) :=
  let rd := fun (a : Int) (n : Nat) => s.engRead m.uid o.num (m.flume.refusedTo o.num) (tagSpace e.src) a n n
  if e.size < 16 then do
    let r ← rd a e.size
    pure (o, some r)
  else do
    let _ ← s.engPieces m.uid (m.flume.refusedTo o.num) .engRead (tagSpace e.src) a 16 16
    let upper := s.pick 3 t != 0
    match o.halves.find? (·.1 == t) with
    | none => do
      let (bs, bad, _) ← rd (if upper then a + 8 else a) 8
      pure ({ o with halves := o.halves ++ [(t, (if upper then [1] else [0]) ++ bs, bad)] }, none)
    | some (_, h, bad) => do
      let up := h.headD 0 == 1
      let (bs, bad', ps) ← rd (if up then a else a + 8) 8
      pure (o, some (if up then bs ++ h.drop 1 else h.drop 1 ++ bs, bad || bad', ps))

/-- One element: placed, checked, read once and written once, the source's checks and read before the destination's checks (DEDUCED, log 33).
The answer says whether it is done. -/
def State.elemRun (s : State) (m : Mill) (o : FlOp) (e : FlEntry) (t : Nat) : Except AErr (State × FlOp × Bool) := do
  let o ← s.readFor m.uid (m.flume.refusedTo o.num) e o t
  let p := o.place e t
  let (o, got) ← match p.src with
    | none => pure (o, some (List.replicate e.size (0 : Byte), false, []))
    | some a => s.elemRead m o e t a
  match got with
  | none => pure (s, o, false)
  | some (bytes, marked, rs) =>
    let mills ← s.elemMills m e (taggedVa (tagSpace e.dst) p.dst)
    let ws ← mills.mapM fun u => s.elemCheck m o.num e p.dst u
    let s := (s.countReads rs).fillTlb rs
    pure ((ws.foldl (fun s ps => s.elemWrite m.uid o.num e p.dst bytes (marked || p.marked) ps) s).dropUsed (flumeAgent m.uid) [o.num],
      o, true)

def Flume.op? (f : Flume) (n : Nat) : Option FlOp := f.ops.find? (·.num == n)
/-- FLUME_ELEMENT: element t of operation n, or the first of its halves. One that waits for a page waits for its resolution (R221). -/
def execFlumeElement (uid n t : Nat) (s : State) : Out :=
  match s.mill? uid with
  | none => .next s
  | some m =>
    match m.flume.op? n with
    | none => .next s
    | some o =>
      match o.entryIn (s.schedOf uid) with
      | none => .next s
      | some e =>
        if !s.flumeRuns m || o.failed || decide (t ≥ e.elems) || o.done.contains t ||
            s.asking (flumeAgent uid) n then .next s
        else match s.elemRun m o e t with
          | .ok (s, o, all) => .next (s.modFlume uid fun f => { f with
              ops := f.ops.map fun q => if q.num = n then
                { q with rows := o.rows, mask := o.mask, halves := o.halves, done := if all then insertNat t q.done else q.done }
                else q })
          | .error (.fault fi) => .next (s.flumeHalt uid o fi)
          | .error x => .next (s.stallOn (flumeAgent uid) n x)

/-! ### Completion (R291, R242) -/

/-- The counter rises over the operations complete beyond it, by fuel (R242). -/
def advanceTimeline : Nat → Nat → List Nat → Nat × List Nat
  | 0, n, l => (n, l)
  | fuel + 1, n, l => if l.contains (n + 1) then advanceTimeline fuel (n + 1) (l.filter (· != n + 1)) else (n, l)
def Flume.complete (f : Flume) (n : Nat) : Flume :=
  let r := advanceTimeline (f.doneOps.length + 1) f.timeline (insertNat n f.doneOps)
  { f with ops := f.ops.filter (·.num != n), timeline := r.1, doneOps := r.2 }

/-- A notice goes out for this operation: none is due above a failed one (R293). -/
def Flume.notices (f : Flume) (o : FlOp) (e : FlEntry) : Bool :=
  e.notes && (match f.halt with
    | some (n, _) => decide (o.num < n)
    | none => true)
/-- A failed write of an operation, found as it would complete (R293, R387). -/
def State.opBad (s : State) (uid n : Nat) : Option Posted :=
  s.posted.find? fun p => p.owner == flumeAgent uid && p.lane == n && p.bad.isSome
/-- The failure of a posted write halts the context. -/
def State.flumeBad (s : State) (uid : Nat) (o : FlOp) (e : FlEntry) (p : Posted) : State :=
  let cause := match p.bad with
    | some c => c
    | none => 0
  let s1 := s.flumeHalt uid o (accFault 0x18 cause p.va .engWrite (tagSpace e.dst) e.size)
  match s1.mill? uid with
  | some m => if m.flume.ops.any fun q => q.num == o.num && q.failed then s1.dropPosted p.id else s1
  | none => s1
/-- A failed write of an operation in flight; one of an operation that has failed already is over, and so is one of an operation that is
complete: it halts nothing and makes no record (DEDUCED, log 33). -/
def State.flumeLost (s : State) (uid n : Nat) (p : Posted) : State :=
  match (s.mill? uid).bind fun m => m.flume.op? n with
  | none => s.dropPosted p.id
  | some o =>
    match o.entryIn (s.schedOf uid) with
    | none => s.dropPosted p.id
    | some e => if o.failed then s.dropPosted p.id else s.flumeBad uid o e p
/-- FLUME_OP_COMPLETE. -/
def execFlumeOpComplete (uid n : Nat) (s : State) : Out :=
  match s.mill? uid with
  | none => .next s
  | some m =>
    match m.flume.op? n with
    | none => .next s
    | some o =>
      match o.entryIn (s.schedOf uid), s.opBad uid n with
      | none, _ => .next s
      | some _, some p => .next (s.flumeLost uid n p)
      | some e, none =>
        if s.opMoved uid o e && (!m.flume.notices o e || o.noticed) then .next (s.modFlume uid fun f => f.complete n)
        else .next s

/-- The messages of R283. -/
def fldone (entry rep : Nat) : DWord := BitVec.ofNat 64 (7 * 2 ^ 60 + rep * 2 ^ 32 + entry)
def readyMsg (note : BitVec 8) (slot : Nat) : DWord :=
  BitVec.ofNat 64 (4 * 2 ^ 60 + note.toNat / 32 % 2 * 2 ^ 59 + note.toNat % 2 * 2 ^ 58 + slot % 256 * 2 ^ 16)
/-- The next operation whose notice is due: the lowest that carries one and has not sent it (R291). -/
def State.noticeOp (s : State) (m : Mill) : Option (FlOp × FlEntry) :=
  (m.flume.ops.filterMap fun o => match o.entryIn (s.schedOf m.uid) with
    | some e => if m.flume.notices o e && !o.noticed then some (o, e) else none
    | none => none).head?
/-- The writes of an operation that have performed at the scope of its completion and not yet wider: a receiver of FLDONE learns of them
(R234, R241). -/
def State.opWrites (s : State) (uid : Nat) (o : FlOp) (e : FlEntry) : List (Nat × Scope) :=
  (s.posted.filter fun p => p.owner == flumeAgent uid && p.lane == o.num).map fun p => (p.id, if e.multicast then .gang else .mill)
/-- FLUME_NOTICE: sent in number order, once the transfers are over and there is room. -/
def execFlumeNotice (uid : Nat) (s : State) : Out :=
  match s.mill? uid with
  | none => .next s
  | some m =>
    if !s.flumeRuns m then .next s
    else match s.noticeOp m with
      | none => .next s
      | some (o, e) =>
        let sent := fun (s : State) => s.modFlume uid fun f => { f with
          ops := f.ops.map fun q => if q.num = o.num then { q with noticed := true } else q }
        if !s.opMoved uid o e then .next s
        else if e.note.getLsbD 6 then
          let c := e.note.toNat / 32 % 2
          if m.walking c then
            let v : Msg := ⟨readyMsg e.note (e.nslot + o.rep), []⟩
            .next (sent (s.modMill uid fun m => { m with ctxs := modAt m.ctxs c fun x => { x with input := x.input ++ [v] } }))
          else .next (s.flumeHalt uid o { cls := 0x13, sub := 11 })
        else
          let (s', ok) := s.engineSend uid (e.note.toNat % 32) ⟨fldone o.entry o.rep, s.opWrites uid o e⟩
          .next (if ok then sent s' else s)

/-! ### Instructions (R295-R298) -/

/-- The context of MOD[1:0]: 0 the flume, 1 and 2 the walk contexts. -/
def tlCtx (f : Fields) : Nat := f.mod.toNat % 4
def Ctx.counter (x : Ctx) : Nat :=
  match x.mill? with
  | some m => m.timelineOf (tlCtx x.f)
  | none => 0

/-- The stage rises to the largest value among the participants (R296). -/
def execFlstage (f : Fields) (s : State) : Out :=
  issue 0xC8 (fun _ _ => { a := .word })
    (fun x =>
      let n := x.todo.foldl (fun n l => max n (x.w l .A).toNat) 0
      match x.a.mill with
      | some uid => .done ((x.todo.foldl (fun s l => s.release uid x.a l) x.s0).modFlume uid fun f =>
          { f with stage := BitVec.ofNat 32 (max f.stage.toNat n) }) [] []
      | none => .done x.s0 [] []) f s

/-- The counter is read between issue and completion (R297). -/
def execTlrd (f : Fields) (s : State) : Out :=
  issue 0xC9 (fun f _ => { d := .pair, modOk := tlCtx f != 3 }) (fun x => eachLook x fun _ => .counter (tlCtx x.f)) f s

/-- The mill has a walk queued or running on a context (R320). -/
def Mill.busyCtx (m : Mill) (c : Nat) : Bool :=
  match m.ctxs[c]? with
  | some x => x.walks.any Walk.pending
  | none => false
/-- The fault of a blocking wait above the counter, if it would never return (R294, R320, R323). -/
def Ctx.tlFault (x : Ctx) : Option FaultInfo :=
  match x.mill?, x.s0.wheel? x.a with
  | some m, some w =>
    let c := tlCtx x.f
    if c = 0 then
      match m.flume.halt with
      | some (n, e) => some { cls := 0x13, sub := 13, info0 := BitVec.ofNat 64 e, info1 := BitVec.ofNat 64 n }
      | none => none
    else if w.handler && m.busyCtx (c - 1) then some { cls := 0x15, sub := 0 }
    else match m.ctxs[c - 1]? with
      | some y => if y.halted then some { cls := 0x12, sub := 12 } else none
      | none => none
  | _, _ => none
/-- A thread that has waited for a number knows the writes of the operations up to it (R234, R242). -/
def State.acquire (s : State) (a : Agent) (lane n : Nat) : State :=
  match a.mill with
  | none => s
  | some uid => s.readBy ((s.posted.filter fun p => p.owner == flumeAgent uid && decide (p.lane ≤ n) && p.rd == 0).map (·.id)) (a, lane, none)
/-- The participants below the counter acquire. -/
def Ctx.acquired (x : Ctx) (above : List Nat) (s : State) : State :=
  if tlCtx x.f != 0 then s
  else x.todo.foldl (fun s l => if above.contains l then s else s.acquire x.a l (x.dw l .A).toNat) s
def execTlwait (f : Fields) (s : State) : Out :=
  issue 0xCA (fun f _ => { a := .pair, modOk := tlCtx f != 3, gWrite := if f.sub = 1 then [f.d.toNat % 8] else [] })
    (fun x =>
      let above := x.todo.filter fun l => decide ((x.dw l .A).toNat > x.counter)
      if x.f.sub = 1 then
        .done (x.todo.foldl (fun s l => s.modThread x.a l fun t => t.setGuard (x.f.d.toNat % 8) (!above.contains l)) (x.acquired above x.s0)) [] []
      else if above.isEmpty then .done (x.acquired above x.s0) [] []
      else match x.tlFault with
        | some fi => .done (x.acquired above x.s0) (above.map fun l => (l, fi)) []
        | none => .wait x.s0 x.lowest .stall true []) f s

end Sys2Proof.Machine
end

