-- ==== Sys2Proof/Machine/Seed.lean ====
section
/-! DEFINITION. The seed generator, records, and the two seed instructions, opcodes 0xD5-0xD6
(spec/17_seeded_weights.md R330-R343). -/

namespace Sys2Proof.Machine

/-- One generator step: the new bit and the state after it (R330). -/
def genStep (s : Nat) : Nat × Nat :=
  let new := (s / 2 ^ 23 + s / 2 ^ 22 + s / 2 ^ 21 + s / 2 ^ 16) % 2
  (new, (s * 2 + new) % 2 ^ 24)
/-- The output bits of n steps, bit m of the number for step m. -/
def genBits : Nat → Nat → Nat
  | 0, _ => 0
  | n + 1, s => (genStep s).1 + 2 * genBits n (genStep s).2
/-- The basis of a seed: b_j[t] is bit 16j + t (R331). -/
def basisOf (seed : Nat) : Nat := genBits 64 seed
/-- The sign of b_j[t]: true stands for +1. -/
def basisAt (basis j t : Nat) : Bool := bitAt basis (16 * j + t)
/-- b_j[t] times a value. -/
def signed (plus : Bool) (v : FV) : FV := if plus then v else v.negate

/-- Coefficient j of a record, 5-bit two's complement (R332). -/
def recCoef (rc j : Nat) : Int :=
  let c := rc / 2 ^ (24 + 5 * j) % 32
  if c ≥ 16 then (c : Int) - 32 else (c : Int)
def recSeed (rc : Nat) : Nat := rc % 2 ^ 24
def recExp (rc : Nat) : Nat := rc / 2 ^ 44 % 16

/-- An integer times a power of 2, exact. -/
def intV (n : Int) (e : Int) : FV := .fin (decide (n < 0)) n.natAbs e
/-- 2^-e times a value. -/
def FV.shift (e : Int) : FV → FV
  | .fin n m k => .fin n m (k + e)
  | v => v

def execSeedx (f : Fields) (s : State) : Out :=
  issue 0xD5 (fun _ _ => { d := .pair, a := .word })
    (fun x => eachWrite x fun l => (outW 64 (basisOf ((x.w l .A).toNat % 2 ^ 24)), 0)) f s

/-! ### `seedfit` (R342, R343) -/

/-- A running sum rounded at each step (R343). -/
def stepSum (acc : Nat) (prods : List (FV × FV)) (adds : List FV) : Nat :=
  (sumOp fp32 .rne false prods (fp32.val acc :: adds)).code
/-- The coefficient of one basis vector and its clamp bit. -/
def fitCoef (e r : Nat) : Int × Bool :=
  match fp32.val r with
  | .inf n => (if n then -16 else 15, true)
  | .nan _ => (0, false)
  | .fin n m k =>
    let x := if hugeInt m (k + e - 4) then (if n then -(2 ^ 64 : Int) else 2 ^ 64) else (roundInt .rne n m (k + e - 4)).1
    let c := max (-16) (min x 15)
    (c, decide (c ≠ x))
/-- The fit of one record: its 48 bits, err and the clamp mask. -/
def fitRecord (seed e : Nat) (ws : List FV) : Nat × Nat × Nat :=
  if ws.any fun w => w.isNan || w.isInf false || w.isInf true then (seed + e * 2 ^ 44, 0x7FC00000, 0)
  else if seed = 0 then (e * 2 ^ 44, ws.foldl (fun acc w => stepSum acc [(w, w)] []) 0, 0)
  else
    let b := basisOf seed
    let r := fun (j : Nat) => (List.range 16).foldl (fun acc t => stepSum acc [] [signed (basisAt b j t) (ws.getD t (.fin false 0 0))]) 0
    let cs := (List.range 4).map fun j => fitCoef e (r j)
    let what := fun (t : Nat) => intV ((List.range 4).map fun j =>
      let c := (cs.getD j (0, false)).1
      if basisAt b j t then c else -c).sum (-(e : Int))
    let err := (List.range 16).foldl (fun acc t =>
      let d := fp32.val (sumOp fp32 .rne false [] [ws.getD t (.fin false 0 0), (what t).negate]).code
      stepSum acc [(d, d)] []) 0
    let mask := ((List.range 4).map fun j => if (cs.getD j (0, false)).2 then 2 ^ j else 0).sum
    (seed + ((List.range 4).map fun j => ((cs.getD j (0, false)).1 % 32).toNat * 2 ^ (24 + 5 * j)).sum + e * 2 ^ 44, err, mask)

/-- The sixteen BF16 targets of an octet (R342). -/
def targets (ws : List Word) : List FV :=
  (List.range 16).map fun t => bf16.val ((ws.getD (t / 2) 0).toNat / 2 ^ (16 * (t % 2)) % 2 ^ 16)
def execSeedfit (f : Fields) (s : State) : Out :=
  issue 0xD6 (fun _ _ => { d := .quad, a := .word, b := .octet, c := .word })
    (fun x => eachLong x fun l =>
      let r := fitRecord ((x.w l .A).toNat % 2 ^ 24) ((x.w l .C).toNat % 16) (targets (x.s0.srcGroup x.a x.f l .B 8))
      (outW 64 r.1 ++ [BitVec.ofNat 32 r.2.1, BitVec.ofNat 32 r.2.2], 0)) f s

end Sys2Proof.Machine
end

