-- ==== Sys2Proof/Machine/Walk.lean ====
section
/-! DEFINITION. The walk engine: its records, contexts, messages and arithmetic, its events, and opcodes 0xD0-0xD4
(spec/16_walk_engine.md R301-R329; spec/17_seeded_weights.md R334-R336). -/

namespace Sys2Proof.Machine

/-! ### Problem records (R301-R304) -/

/-- A record from its 128 bytes. -/
def walkRecOf (bs : List Byte) : WalkRec where
  m := fieldU bs 0x00 4
  n := fieldU bs 0x04 4
  k := fieldU bs 0x08 4
  flags := BitVec.ofNat 32 (fieldU bs 0x0C 4)
  tm := fieldU bs 0x10 1
  tn := fieldU bs 0x11 1
  order := fieldU bs 0x12 1
  afmt := fieldU bs 0x13 1
  bfmt := fieldU bs 0x14 1
  look := fieldU bs 0x15 1
  aslot := BitVec.ofNat 64 (fieldU bs 0x18 8)
  bslot := BitVec.ofNat 64 (fieldU bs 0x20 8)
  cslot := BitVec.ofNat 64 (fieldU bs 0x28 8)
  asn := fieldU bs 0x30 2
  bsn := fieldU bs 0x32 2
  csn := fieldU bs 0x34 2
  pa := fieldU bs 0x36 1
  pb := fieldU bs 0x37 1
  pc := fieldU bs 0x38 1
  tlist := BitVec.ofNat 64 (fieldU bs 0x40 8)
  tln := fieldU bs 0x48 4

def WalkRec.keep (r : WalkRec) : Bool := r.flags.getLsbD 0
def WalkRec.wantsEnd (r : WalkRec) : Bool := r.flags.getLsbD 1
def WalkRec.seededB (r : WalkRec) : Bool := r.bfmt == 8
/-- The format combinations of R302. -/
def WalkRec.fmtsOk (r : WalkRec) : Bool :=
  let narrow := fun (f : Nat) => f == 1 || f == 2
  (r.afmt == 0 && r.bfmt == 0) || (narrow r.afmt && narrow r.bfmt) || (r.afmt == 3 && r.bfmt == 3) ||
    (r.afmt < 3 && r.bfmt == 8)
/-- The three regions: offset and length in the allocation. -/
def WalkRec.regions (r : WalkRec) : List (Nat × Nat) :=
  [(padOffset r.aslot, r.asn * r.aSize), (padOffset r.bslot, r.bsn * r.bSize), (padOffset r.cslot, r.csn * r.cSize)]
def regionsMeet (x y : Nat × Nat) : Bool := meets x.1 x.2 y.1 y.2
def isPad (x : DWord) : Bool := tagSpace x == .sp
def big24 (n : Nat) : Bool := n == 0 || decide (n > 2 ^ 24)
/-- The first subcode of R304 that applies. A condition on TI, TJ or KS counts as not met while its fields fail. -/
def Mill.walkSub (m : Mill) (r : WalkRec) : Option Nat :=
  let dims := r.tm ≤ 2 && r.tn ≤ 2
  let sub1 := r.tm > 2 || r.tn > 2 || r.order > 4 || r.afmt > 3 || !(r.bfmt ≤ 3 || r.bfmt == 8) || r.look == 0 || r.look > 8
  let sub2 := !r.fmtsOk || r.flags.getLsbD 2 != r.seededB
  let fmts := r.afmt ≤ 3 && (r.bfmt ≤ 3 || r.bfmt == 8) && !sub2
  let portBad := fun (q : Nat) => match m.ports[q]? with
    | some p => decide (p.depth < r.portUses q * r.look)
    | none => true
  let rs := r.regions
  if big24 r.m || big24 r.n || big24 r.k || (dims && (r.ti > 65536 || r.tj > 65536)) || (fmts && r.ks > 65536) then some 0
  else if sub1 then some 1
  else if sub2 then some 2
  else if r.asn < r.look || r.asn > 256 || r.bsn < r.look || r.bsn > 256 || r.csn == 0 || r.csn > 256 then some 3
  else if !isPad r.aslot || !isPad r.bslot || !isPad r.cslot || rs.any (fun x => x.1 % 64 != 0 || decide (x.1 + x.2 > m.padBytes)) ||
      padOffset r.cslot < m.scratch * 1024 || (match rs with
        | [a, b, c] => regionsMeet a b || regionsMeet a c || regionsMeet b c
        | _ => false) then some 4
  else if r.pa > 31 || r.pb > 31 || r.pc > 31 || portBad r.pa || portBad r.pb || portBad r.pc then some 5
  else if r.order == 4 && (r.tln == 0 || r.tln > 65536 || !isPad r.tlist || padOffset r.tlist % 4 != 0 ||
      padOffset r.tlist + 4 * r.tln > m.padBytes) then some 6
  else none

/-- A walk as it is posted (R305, R306). -/
def newWalk (r : WalkRec) (ctx num base post : Nat) (pc : DWord) : Walk where
  rc := r
  ctx := ctx
  num := num
  base := base
  post := post
  st := .queued
  again := none
  list := []
  next := 0
  busy := false
  aslots := List.replicate r.asn ⟨.free, 0, 0⟩
  bslots := List.replicate r.bsn ⟨.free, 0, 0⟩
  cslots := List.replicate r.csn ⟨.free, 0, []⟩
  nextDone := 0
  freed := []
  acks := 0
  waitA := 0
  waitB := 0
  waitC := 0
  waitTok := 0
  postPc := pc

/-! ### Finding and changing walks -/

/-- The walk of a mill that is on a context, or waits to resume there. -/
def Mill.liveWalk (m : Mill) (c : Nat) : Option Walk := (m.ctx c).walks.find? Walk.live
def State.liveWalk (s : State) (uid c : Nat) : Option Walk := (s.mill? uid).bind fun m => m.liveWalk c
def State.modCtx (s : State) (uid c : Nat) (f : WalkCtx → WalkCtx) : State :=
  s.modMill uid fun m => { m with ctxs := modAt m.ctxs c f }
def State.modWalk (s : State) (uid c num : Nat) (f : Walk → Walk) : State :=
  s.modCtx uid c fun x => { x with walks := x.walks.map fun w => if w.num = num then f w else w }
/-- The walk engine of the mill may move. -/
def State.walkRuns (s : State) (m : Mill) : Bool := m.st == .running && !m.aborted && !s.enginesFrozen m

/-! ### Completion (R306, R242) -/

/-- The counter rises over complete ranges, by fuel. -/
def advanceRanges : Nat → Nat → List (Nat × Nat) → Nat
  | 0, n, _ => n
  | fuel + 1, n, l =>
    match l.find? fun r => r.1 ≤ n + 1 && n + 1 ≤ r.2 with
    | some r => advanceRanges fuel r.2 l
    | none => n
/-- Operations lo to hi of a context complete. -/
def WalkCtx.complete (x : WalkCtx) (lo hi : Nat) : WalkCtx :=
  let l := (lo, hi) :: x.doneOps
  let n := advanceRanges (l.length + 1) x.timeline l
  { x with timeline := n, doneOps := l.filter fun r => r.2 > n }

/-! ### Messages (R310) -/

def walkMsg (kind ctx b58 hi mid slot num : Nat) : DWord :=
  BitVec.ofNat 64 (kind * 2 ^ 60 + ctx % 2 * 2 ^ 59 + b58 * 2 ^ 58 + hi % 2 ^ 16 * 2 ^ 40 + mid % 2 ^ 16 * 2 ^ 24 + slot % 2 ^ 8 * 2 ^ 16 + num % 2 ^ 16)

/-- A walk is over: its slots are free, it is the last that ended. -/
def WalkCtx.close (x : WalkCtx) (num : Nat) (st : WalkState) : WalkCtx :=
  { x with walks := (x.walks.filter fun w => w.pending || w.num == num).map fun w =>
      if w.num = num then { w with st := st, again := none, busy := false } else w }
/-- A walk ends (R314, R322): all its operations complete, WALKEND waits for its port. -/
def WalkCtx.endWalk (x : WalkCtx) (w : Walk) (cancelled : Bool) : WalkCtx :=
  let x := (x.close w.num .ended).complete (w.base + 1) (w.base + w.rc.tiles)
  if w.rc.wantsEnd then { x with wends := x.wends ++ [(w.rc.pc, walkMsg 6 w.ctx (natOfBool cancelled) 0 0 0 w.num)] } else x

/-- A walk halts at once (R323), with its record. -/
def State.haltWalk (s : State) (uid : Nat) (w : Walk) (sub : Nat) (info : DWord) : State :=
  let low := ((List.range (w.freed.length + 1)).find? fun t => !w.freed.contains t).getD 0
  (s.engineRecord uid (2 + w.ctx) { cls := 0x12, sub := sub, info0 := info } w.postPc (BitVec.ofNat 64 (w.base + low + 1))).modCtx uid w.ctx
    fun x => { x.close w.num .halted with halted := true, input := [] }

/-! ### NEEDs, DONEs and WALKENDs -/

/-- A message of a context goes to a port: behind the context's WALKENDs that still wait for it (R262, R264). -/
def State.walkSend (s : State) (uid c port : Nat) (m : Msg) : State × Bool :=
  if ((s.mill? uid).map fun x => (x.ctx c).wends.any (·.1 == port)) == some true then (s, false) else s.engineSend uid port m

/-- The engine's read of its mill's scratchpad. -/
def State.padRead (s : State) (uid off n : Nat) : List Byte := s.viewBytes (s.engineOf uid) 0 (padKey uid off) n
/-- Read the entry of tile t when the list has not been read so far (R308): false when the walk halts. -/
def State.readTile (s : State) (uid : Nat) (w : Walk) (t : Nat) : State × Bool :=
  if (w.tile? t).isSome then (s, true)
  else
    let e := natOfBytes (s.padRead uid (padOffset w.rc.tlist + 4 * t) 4)
    if e % 2 ^ 16 ≥ w.rc.ti ∨ e / 2 ^ 16 ≥ w.rc.tj then (s.haltWalk uid w 8 (BitVec.ofNat 64 (t + e * 2 ^ 32)), false)
    else (s.modWalk uid w.ctx w.num fun w => { w with list := w.list ++ [(t, e)] }, true)

def freeSlot (l : List OpSlot) : Option Nat := (List.range l.length).find? fun n => match l[n]? with
  | some x => x.st == .free
  | none => false
/-- One operand of a pair is held or asked for: false when its message must wait. -/
def State.needOne (s : State) (uid : Nat) (w : Walk) (isB : Bool) (idx k : Nat) : State × Bool :=
  let l := if isB then w.bslots else w.aslots
  if (slotOf l idx k).isSome then (s, true)
  else match freeSlot l with
    | none => (s, false)
    | some n =>
      let (s', ok) := s.walkSend uid w.ctx (if isB then w.rc.pb else w.rc.pa)
        ⟨walkMsg (if isB then 2 else 1) w.ctx 0 idx k n w.num, []⟩
      if !ok then (s, false)
      else (s'.modWalk uid w.ctx w.num fun w =>
        if isB then { w with bslots := setAt w.bslots n ⟨.needed, idx, k⟩ }
        else { w with aslots := setAt w.aslots n ⟨.needed, idx, k⟩ }, true)
/-- The operands of pair n (R309). -/
def State.needPair (s : State) (uid c n : Nat) : State × Bool :=
  match s.liveWalk uid c with
  | none => (s, false)
  | some w =>
    let (t, k) := w.pairOf n
    let (s, ok) := s.readTile uid w t
    match ok, s.liveWalk uid c with
    | true, some w =>
      match w.tile? t with
      | none => (s, false)
      | some (i, j) =>
        let (s, ok) := s.needOne uid w false i k
        match ok, s.liveWalk uid c with
        | true, some w => s.needOne uid w true j k
        | _, _ => (s, false)
    | _, _ => (s, false)
/-- The first pair that has not finished executing. -/
def Walk.first (w : Walk) : Nat := if w.busy then w.next - 1 else w.next
/-- The window (R309). -/
def Walk.window (w : Walk) : List Nat := (List.range w.rc.look).filterMap fun i =>
  if w.first + i < w.total then some (w.first + i) else none
def State.needAll (s : State) (uid c : Nat) (w : Walk) : State :=
  (w.window.foldl (fun (r : State × Bool) n => if r.2 then r.1.needPair uid c n else r) (s, true)).1

/-- The bytes [off, off + n) of an allocation meet a poisoned row (R318). -/
def State.rowMarked (s : State) (uid off n : Nat) : Bool :=
  match s.mill? uid with
  | some m => m.rowMarks.any fun x => meets x.1 x.2 off n
  | none => false
/-- The marks of rows go as their slot starts over (R313, R329). -/
def State.clearRows (s : State) (uid off n : Nat) : State :=
  s.modMill uid fun m => { m with rowMarks := m.rowMarks.filter fun x => !meets x.1 x.2 off n }
/-- A row carries its mark, or a word of it an error. -/
def State.rowBad (s : State) (uid off n : Nat) : Bool := s.rowMarked uid off n || s.poisoned (padKey uid off) n
/-- A row of the slot is poisoned (R313). -/
def State.slotPoisoned (s : State) (uid : Nat) (r : WalkRec) (slot : Nat) : Bool :=
  s.rowBad uid (padOffset r.cslot + slot * r.cSize) (4 * r.tmRows * r.tnCols)
/-- DONE in tile order, while fewer than LOOK slots are DONE, by fuel (R313). -/
def State.sendDones : Nat → State → Nat → Nat → State
  | 0, s, _, _ => s
  | fuel + 1, s, uid, c =>
    match s.liveWalk uid c with
    | none => s
    | some w =>
      let n := w.nextDone % w.rc.csn
      match w.cslots[n]?, w.tile? w.nextDone with
      | some x, some (i, j) =>
        if x.st = .full ∧ x.tile = w.nextDone ∧ (w.cslots.filter (·.st == .done)).length < w.rc.look then
          let (s', ok) := s.walkSend uid c w.rc.pc ⟨walkMsg 3 w.ctx (natOfBool (s.slotPoisoned uid w.rc n)) i j n w.num, []⟩
          if !ok then s
          else State.sendDones fuel (s'.modWalk uid c w.num fun w =>
            { w with cslots := setAt w.cslots n { x with st := .done }, nextDone := w.nextDone + 1 }) uid c
        else s
      | _, _ => s
/-- WALKENDs go out in order as their ports have room (R322, R264). -/
def State.sendEnds : Nat → State → Nat → Nat → State
  | 0, s, _, _ => s
  | fuel + 1, s, uid, c =>
    match ((s.mill? uid).map fun m => (m.ctx c).wends) with
    | some ((p, v) :: rest) =>
      let (s', ok) := s.engineSend uid p ⟨v, []⟩
      if ok then State.sendEnds fuel (s'.modCtx uid c fun x => { x with wends := rest }) uid c else s
    | _ => s

/-- A cancelling walk has nothing left to receive. -/
def Walk.quiet (w : Walk) : Bool :=
  !w.busy && !(w.aslots ++ w.bslots).any (fun x => x.st == .needed) && !w.cslots.any (fun x => x.st == .done)
/-- What the engine does of its own accord on a context, as far as it can now. -/
def State.walkPump (s : State) (uid c : Nat) : State :=
  match s.mill? uid with
  | none => s
  | some m =>
    let s := s.flushRecs uid
    if !s.walkRuns m then s
    else
      let s := State.sendEnds ((m.ctx c).wends.length + 1) s uid c
      let s := match m.liveWalk c with
        | none => s
        | some w =>
          match w.st with
          | .running => State.sendDones 257 (s.needAll uid c w) uid c
          | .cancelling => if w.quiet then s.modCtx uid c fun x => x.endWalk w true else s
          | _ => s
      State.sendEnds ((m.ctx c).wends.length + 2) s uid c

/-! ### Starting (R305) -/

/-- Walks on a core: with the mill each belongs to. -/
def State.coreWalks (s : State) (core : Nat) : List (Nat × Walk) :=
  ((s.mills.filter fun m => m.core == core && m.st == .running).map fun m =>
    ((m.ctxs.map (·.walks)).flatten).map fun w => (m.uid, w)).flatten
/-- Entries of a core's queue in use: from the post until the walk ends. -/
def State.queueUsed (s : State) (core : Nat) : Nat := ((s.coreWalks core).filter fun p => p.2.pending).length
/-- The oldest queued walk that names a context of a core. -/
def State.oldest (s : State) (core c : Nat) : Option (Nat × Walk) :=
  ((s.coreWalks core).filter fun p => p.2.ctx == c && p.2.st == .queued).foldl (fun b p => match b with
    | none => some p
    | some q => if p.2.post < q.2.post then some p else some q) none
/-- WALK_START. -/
def execWalkStart (uid c : Nat) (s : State) : Out :=
  match s.mill? uid with
  | none => .next s
  | some m =>
    if !s.walkRuns m then .next s
    else if (s.coreWalks m.core).any fun p => p.2.ctx == c && p.2.onCtx then .next (s.walkPump uid c)
    else match s.oldest m.core c with
      | some (u, w) =>
        if u ≠ uid then .next (s.walkPump uid c)
        else if (m.ctxs.map (·.walks)).flatten.any (fun v => v.onCtx &&
            v.rc.regions.any fun x => w.rc.regions.any fun y => regionsMeet x y) then .next (s.walkPump uid c)
        else
          .next ((s.modWalk uid c w.num fun w => { w with st := w.again.getD .running, again := none }).walkPump uid c)
      | none => .next (s.walkPump uid c)

/-! ### K-steps (R309, R311, R313, R316) -/

/-- The engine's own write of its scratchpad: stores that it already sees there come first. -/
def State.padWrite (s : State) (uid off : Nat) (bs : List Byte) : State :=
  let k := padKey uid off
  let r := s.engineOf uid
  let s := (s.posted.filter fun p => p.rd == 0 && p.overlaps k bs.length && p.seenBy r).foldl (fun s p => s.performId p.id) s
  s.settleBytes 0 k bs none

def takeSlot (l : List OpSlot) (idx k : Nat) : List OpSlot := l.map fun x => if x.holds idx k then { x with st := .inuse } else x
/-- The next k-step of a context of a core could begin. -/
def State.ctxReady (s : State) (core c : Nat) : Option Walk :=
  (s.mills.filter fun m => m.core == core && s.walkRuns m).findSome? fun m =>
    (m.liveWalk c).bind fun w => if w.cause == some 3 then some w else none
/-- The array's turn (R307): while both contexts are ready, the one served last goes on to the end of its tile, and then the other. -/
def State.arrayTurn (s : State) (core c : Nat) : Bool :=
  match s.ctxReady core (1 - c), sget 0 s.served core with
  | some w, n =>
    if n = 1 + c then (match s.ctxReady core c with
      | some v => v.next % max 1 v.rc.ks != 0
      | none => false)
    else if n = 1 + (1 - c) then w.next % max 1 w.rc.ks == 0
    else true
  | none, _ => true
/-- The token goes back to the ring as the cluster's burst ends: no array of the cluster is in a k-step (DEDUCED, log 53). -/
def State.releaseToken (s : State) (core : Nat) : State :=
  if s.mills.any fun m => clusterOfCore m.core == clusterOfCore core && (m.ctxs.any fun c => c.walks.any fun w => w.busy) then s
  else { s with holders := s.holders.filter (· != clusterOfCore core) }
/-- The contents an accumulator slot starts a tile with (R313). -/
def State.accStart (s : State) (uid : Nat) (r : WalkRec) (n : Nat) : List Byte :=
  let size := 4 * r.tmRows * r.tnCols
  if r.keep then s.padRead uid (padOffset r.cslot + n * r.cSize) size else List.replicate size 0
/-- KSTEP_BEGIN: the next pair of the walk enters the array. -/
def execKstepBegin (uid c : Nat) (s : State) : Out :=
  let s := s.walkPump uid c
  match s.mill? uid with
  | none => .next s
  | some m =>
    match m.liveWalk c with
    | none => .next s
    | some w =>
      let (t, k) := w.pairOf w.next
      match w.tile? t with
      | none => .next s
      | some (i, j) =>
        if !s.walkRuns m || w.st != .running || decide (w.next ≥ w.total) || w.cause != some 3 ||
            (s.coreWalks m.core).any (fun p => p.2.busy) || !s.arrayTurn m.core c || !s.tokenFree m.core then .next s
        else
          let n := t % w.rc.csn
          let start := s.accStart uid w.rc n
          let s := s.modWalk uid c w.num fun w => { w with
            aslots := takeSlot w.aslots i k
            bslots := takeSlot w.bslots j k
            cslots := if k = 0 then setAt w.cslots n ⟨.accumulating, t, start⟩ else w.cslots
            busy := true
            next := w.next + 1 }
          let s := { s with
            served := sput 0 s.served m.core (1 + c)
            holders := if s.holders.contains (clusterOfCore m.core) then s.holders else s.holders ++ [clusterOfCore m.core] }
          let off := padOffset w.rc.cslot + n * w.rc.cSize
          .next (if k = 0 ∧ !w.rc.keep then (s.padWrite uid off start).clearRows uid off start.length else s)

/-- Element format by code: BF16, E4M3, E5M2, E2M1 (R301), and its bits. -/
def operandFmt (c : Nat) : Fmt :=
  match c with
  | 0 => bf16
  | 1 => e4m3
  | 2 => e5m2
  | _ => e2m1
def operandBits (c : Nat) : Nat :=
  match c with
  | 0 => 16
  | 3 => 4
  | _ => 8
/-- Bytes of one row of a slot's data, and where its scale code for element t lies (R303). -/
def rowLen (fmt tk : Nat) : Nat := tk * operandBits fmt / 8
def scaleAt (fmt tk rows row t : Nat) : Nat := rows * rowLen fmt tk + row * (tk / 32) + t / 32
/-- Element t of a row (or column) of a dense slot, scaled (R316). -/
def operandAt (bs : List Byte) (fmt tk rows row t : Nat) : FV :=
  let b := operandBits fmt
  let code := fieldU bs (row * rowLen fmt tk + t * b / 8) ((b + 7) / 8) / 2 ^ (t * b % 8) % 2 ^ b
  let v := (operandFmt fmt).val code
  if fmt = 0 then v else scaleV (fieldU bs (scaleAt fmt tk rows row t) 1) v
/-- The bytes of a slot that an operand's row is read from, as (offset, length). -/
def rowReads (fmt tk rows row : Nat) : List (Nat × Nat) :=
  (row * rowLen fmt tk, rowLen fmt tk) :: (if fmt = 0 then [] else [(scaleAt fmt tk rows row 0, tk / 32)])
/-- Record (q, c) of a seeded slot, and the scale of column c (R334). -/
def recordAt (bs : List Byte) (tn q c : Nat) : Nat := fieldU bs (6 * (q * tn + c)) 6
def colScale (bs : List Byte) (tn c : Nat) : FV := bf16.val (fieldU bs (12 * tn + 2 * c) 2)
/-- The step of a seeded k-step: `act t` is the activation of position 32ks + t, zero from K on (R336). -/
def seededStep (r : WalkRec) (bs : List Byte) (ks c : Nat) (act : Nat → FV) : FV :=
  let term := fun (q : Nat) =>
    let rc := recordAt bs r.tnCols q c
    if 32 * ks + 16 * q ≥ r.k ∨ recSeed rc = 0 then none
    else
      let b := basisOf (recSeed rc)
      let sj := fun (j : Nat) => (exactSum .rne ((List.range 16).map fun t => signed (basisAt b j t) (act (16 * q + t)))).1
      some (FV.shift (-(recExp rc : Int)) (exactSum .rne ((List.range 4).map fun j => mulV (intV (recCoef rc j) 0) (sj j))).1)
  (exactSum .rne ((List.range 2).filterMap term)).1
/-- One accumulator element after a k-step: the only rounding (R316). -/
def accElement (w : Walk) (ab bb cb : List Byte) (i j ks r c : Nat) : Nat :=
  let q := w.rc
  if i * q.tmRows + r ≥ q.m ∨ j * q.tnCols + c ≥ q.n then 0
  else
    let acc := fp32.val (fieldU cb (4 * (r * q.tnCols + c)) 4)
    let a := fun (t : Nat) => operandAt ab q.afmt q.tk q.tmRows r t
    let live := fun (t : Nat) => decide (ks * q.tk + t < q.k)
    let v := if q.seededB then
        mulV (seededStep q bb ks c fun t => if live t then a t else .fin false 0 0) (colScale bb q.tnCols c)
      else (exactSum .rne (((List.range q.tk).filter live).map fun t => mulV (a t) (operandAt bb q.bfmt q.tk q.tnCols c t))).1
    (finish fp32 .rne false (exactSum .rne [acc, v]).1).code

/-- Marked bytes among some parts of a slot. -/
def State.marked (s : State) (uid base : Nat) (l : List (Nat × Nat)) : Bool :=
  l.any fun p => s.poisoned (padKey uid (base + p.1)) p.2
/-- Rows of the tile, and columns, that the matrix has. -/
def Walk.rows (w : Walk) (i : Nat) : Nat := min w.rc.tmRows (w.rc.m - i * w.rc.tmRows)
def Walk.cols (w : Walk) (j : Nat) : Nat := min w.rc.tnCols (w.rc.n - j * w.rc.tnCols)
/-- A marked word of the B slot is read (R318, R335). -/
def State.colsMarked (s : State) (uid : Nat) (w : Walk) (bbase j ks : Nat) : Bool :=
  (List.range (w.cols j)).any fun c =>
    if w.rc.seededB then
      s.marked uid bbase ((12 * w.rc.tnCols + 2 * c, 2) :: ((List.range 2).filterMap fun q =>
        if 32 * ks + 16 * q < w.rc.k then some (6 * (q * w.rc.tnCols + c), 6) else none))
    else s.marked uid bbase (rowReads w.rc.bfmt w.rc.tk w.rc.tnCols c)
/-- The rows a k-step poisons, or finds poisoned (R318). -/
def State.poisonRows (s : State) (uid : Nat) (w : Walk) (abase bbase cbase i j ks : Nat) : List Nat :=
  let all := s.colsMarked uid w bbase j ks
  (List.range (w.rows i)).filter fun r =>
    all || s.marked uid abase (rowReads w.rc.afmt w.rc.tk w.rc.tmRows r) || s.rowBad uid (cbase + 4 * w.rc.tnCols * r) (4 * w.rc.tnCols)

/-- The result of a k-step, from the sums before it, is written: a poisoned row is all canonical NaN, and marked (R316, R318). -/
def State.kstepWrite (s : State) (uid : Nat) (w : Walk) (t k i j sa sb : Nat) : State :=
  let abase := padOffset w.rc.aslot + sa * w.rc.aSize
  let bbase := padOffset w.rc.bslot + sb * w.rc.bSize
  let cbase := padOffset w.rc.cslot + t % w.rc.csn * w.rc.cSize
  let row := 4 * w.rc.tnCols
  let ab := s.padRead uid abase w.rc.aSize
  let bb := s.padRead uid bbase w.rc.bSize
  let cb := (w.cslots.getD (t % w.rc.csn) ⟨.free, 0, []⟩).vals
  let bad := s.poisonRows uid w abase bbase cbase i j k
  let out := ((List.range w.rc.tmRows).map fun r => ((List.range w.rc.tnCols).map fun c =>
    bytesOfNat 4 (if bad.contains r then 0x7FC00000 else accElement w ab bb cb i j k r c)).flatten).flatten
  let s := (s.padWrite uid cbase out).modWalk uid w.ctx w.num fun w =>
    { w with cslots := modAt w.cslots (t % w.rc.csn) fun x => { x with vals := out } }
  let s := s.modMill uid fun m => { m with rowMarks := m.rowMarks ++ (bad.map fun r => (cbase + row * r, row)).filter fun x => !m.rowMarks.contains x }
  bad.foldl (fun s r => (List.range row).foldl (fun s b => s.setMark (padKey uid (cbase + row * r + b))) s) s

/-- Operands of the window. -/
def Walk.uses (w : Walk) (isB : Bool) (x : OpSlot) : Bool :=
  w.window.any fun n =>
    let (t, k) := w.pairOf n
    match w.tile? t with
    | some (i, j) => k == x.k && (if isB then j else i) == x.idx
    | none => false
/-- After a k-step: INUSE slots that no pair of the window uses are free (R311). -/
def Walk.releaseSlots (w : Walk) : Walk :=
  { w with
    aslots := w.aslots.map fun x => if x.st = .inuse ∧ !w.uses false x then { x with st := .free } else x
    bslots := w.bslots.map fun x => if x.st = .inuse ∧ !w.uses true x then { x with st := .free } else x }
/-- A cancelled walk at a k-step boundary: operands received and tiles not DONE are abandoned (R322). -/
def Walk.abandon (w : Walk) : Walk :=
  let drop := fun (x : OpSlot) => if x.bound then { x with st := .free } else x
  { w with
    aslots := w.aslots.map drop
    bslots := w.bslots.map drop
    cslots := w.cslots.map fun x => if x.bound then { x with st := .free } else x }

/-- The k-step in the array finishes. -/
def State.endStep (s : State) (uid c : Nat) (w : Walk) : State :=
  let (t, k) := w.pairOf (w.next - 1)
  match w.tile? t with
  | none => s
  | some (i, j) =>
    match slotOf w.aslots i k, slotOf w.bslots j k with
    | some sa, some sb =>
      let s := s.kstepWrite uid w t k i j sa sb
      s.modWalk uid c w.num fun w =>
        let w := { w with busy := false }
        if w.st = .cancelling then w.abandon
        else
          if k + 1 = w.rc.ks then { w with cslots := setAt w.cslots (t % w.rc.csn) ⟨.full, t, []⟩ } else w
    | _, _ => s
/-- The list entries of the window are read as it moves on (R308), and the slots it does not use are free. -/
def State.moveWindow (s : State) (uid c : Nat) : State :=
  match s.liveWalk uid c with
  | none => s
  | some w =>
    if w.st != .running then s
    else
      let r := w.window.foldl (fun (r : State × Bool) n =>
        if r.2 then match r.1.liveWalk uid c with
          | some w => r.1.readTile uid w (w.pairOf n).1
          | none => r
        else r) (s, true)
      if r.2 then r.1.modWalk uid c w.num Walk.releaseSlots else r.1
/-- KSTEP_END. A freeze lets the k-step in the array finish (R363 step 5). -/
def execKstepEnd (uid c : Nat) (s : State) : Out :=
  match s.mill? uid with
  | none => .next s
  | some m =>
    match m.liveWalk c with
    | none => .next (s.walkPump uid c)
    | some w =>
      if m.st == .running && !m.aborted && w.busy then
        .next ((((s.endStep uid c w).releaseToken m.core).moveWindow uid c).walkPump uid c)
      else .next (s.walkPump uid c)

/-! ### READY and ACCFREE (R312, R313, R322, R323) -/

/-- The input message of a kind whose stamped accesses have performed (DEDUCED, log 34). -/
def State.readyInput (s : State) (uid : Nat) (x : WalkCtx) (kind : Nat) : Option Msg :=
  match x.input with
  | v :: _ => if v.val.toNat / 2 ^ 60 = kind ∧ v.stamps.all (s.stampDone uid) then some v else none
  | [] => none
def State.dropInput (s : State) (uid c : Nat) : State := s.modCtx uid c fun x => { x with input := x.input.drop 1 }
/-- One operand slot is READY; in a cancelling walk the operand is discarded. -/
def Walk.takeReady (w : Walk) (isB : Bool) (n : Nat) : Walk :=
  let f := fun (x : OpSlot) => { x with st := if w.st = .cancelling then .free else .ready }
  if isB then { w with bslots := modAt w.bslots n f } else { w with aslots := modAt w.aslots n f }
/-- READY. -/
def execReady (uid c : Nat) (s : State) : Out :=
  match s.mill? uid with
  | none => .next s
  | some m =>
    match m.st == .running && !m.aborted, s.readyInput uid (m.ctx c) 4 with
    | true, some v =>
      match m.liveWalk c with
      | none => .next (s.dropInput uid c)
      | some w =>
        let isB := v.val.getLsbD 58
        let n := v.val.toNat / 2 ^ 16 % 256
        match (if isB then w.bslots else w.aslots)[n]? with
        | some x =>
          if x.st = .needed then .next ((((s.handEngine uid (v.stamps.map Prod.fst)).dropInput uid c).modWalk uid c w.num fun w => w.takeReady isB n).walkPump uid c)
          else .next (s.haltWalk uid w 7 v.val)
        | none => .next (s.haltWalk uid w 7 v.val)
    | _, _ => .next (s.walkPump uid c)

/-- A DONE slot is freed: its operation completes, and with the last tile the walk ends (R313, R314). -/
def State.takeFree (s : State) (uid c n tile : Nat) (w : Walk) : State :=
  let s := s.modWalk uid c w.num fun w =>
    { w with cslots := modAt w.cslots n fun x => { x with st := .free }, acks := w.acks + 1 }
  let freed := insertNat tile w.freed
  let s := (s.modWalk uid c w.num fun w => { w with freed := freed }).modCtx uid c fun x =>
    x.complete (w.base + tile + 1) (w.base + tile + 1)
  if w.st = .cancelling then s
  else
    if freed.length = w.rc.tiles then s.modCtx uid c fun x => x.endWalk w false else s
/-- ACCFREE. -/
def execAccfree (uid c : Nat) (s : State) : Out :=
  match s.mill? uid with
  | none => .next s
  | some m =>
    match m.st == .running && !m.aborted, s.readyInput uid (m.ctx c) 5 with
    | true, some v =>
      match m.liveWalk c with
      | none => .next (s.dropInput uid c)
      | some w =>
        let n := v.val.toNat / 2 ^ 16 % 256
        match w.cslots[n]? with
        | some x =>
          if x.st = .done then .next (((s.dropInput uid c).takeFree uid c n x.tile w).walkPump uid c)
          else .next (s.haltWalk uid w 7 v.val)
        | none => .next (s.haltWalk uid w 7 v.val)
    | _, _ => .next (s.walkPump uid c)

/-! ### Instructions (R324-R329) -/

/-- MOD[2] of `wpost`; MOD[0] of the others. -/
def postCtx (f : Fields) : Nat := f.mod.toNat / 4 % 2
def walkCtx (f : Fields) : Nat := f.mod.toNat % 2

/-- The record joins the queue (R305, R306). -/
def State.postWalk (s : State) (x : Ctx) (uid c : Nat) (r : WalkRec) : State × Nat :=
  let y := match s.mill? uid with
    | some m => m.ctx c
    | none => WalkCtx.start
  let s1 := { s with fresh := s.fresh + 1 }
  (s1.modCtx uid c fun y => { y with
    posted := y.posted + 1
    tiles := y.tiles + r.tiles
    walks := y.walks ++ [newWalk r c (y.posted + 1) y.tiles s.fresh x.pc] }, y.tiles + r.tiles)
/-- The record of a `wpost` that waits for room: it was read, and passed, as the word issued (R301, R325). -/
def Ctx.waitingRec (x : Ctx) : Option WalkRec :=
  match (x.s0.wheel? x.a).bind Wheel.posting with
  | some (pc, r) => if pc = x.pc then some r else none
  | none => none
/-- The record, read and checked, with the pieces it was read from; one that waits is not read again. -/
def Ctx.postRec (x : Ctx) : Except AErr (WalkRec × List Piece) :=
  match x.waitingRec with
  | some r => .ok (r, [])
  | none => match x.s0.load x.a x.lowest .load (spaceOf x.f) (x.addrBO x.lowest) 128 128 with
    | .error e => .error e
    | .ok (ps, bs) => .ok (walkRecOf bs, ps)
def execWpost (f : Fields) (s : State) : Out :=
  issue 0xD0 (fun f a => { d := .pair, a := .pair, b := .word, modOk := spaceOk f a })
    (fun x =>
      match x.postRec, x.mill?, x.a.mill, x.s0.wheel? x.a with
      | .error (.fault fi), _, _, _ => .all fi
      | .error e, _, _, _ => .wait (x.s0.stallWheel x.a) x.lowest e false []
      | .ok (r, ps), some m, some uid, some w =>
        match (if x.waitingRec.isSome then none else m.walkSub r) with
        | some k => .all { cls := 0x12, sub := k }
        | none =>
          let s := (x.s0.countReads ps).fillTlb ps
          if x.s0.queueUsed m.core ≥ Config.walkQueue then
            if w.handler && (m.busyCtx 0 || m.busyCtx 1) then .all { cls := 0x15, sub := 1 }
            else .wait (s.modWheel x.a fun w => { w with posting := some (x.pc, r) }) x.lowest .stall true []
          else
            let (s, n) := s.postWalk x uid (postCtx x.f) r
            .done (x.todo.foldl (fun s l => (s.release uid x.a l).putD x.a x.f l x.lowest (outW 64 n)) s) [] []
      | _, _, _, _ => .done x.s0 [] []) f s

/-- The value is read between issue and completion (R326). -/
def execWstat (f : Fields) (s : State) : Out :=
  issue 0xD1 (fun f _ => { d := .pair, modOk := decide (f.mod.toNat / 2 % 16 ≤ 6) })
    (fun x => eachLook x fun _ => .walk (walkCtx x.f) (x.f.mod.toNat / 2 % 16)) f s

/-- Cancel a mill's walks on a context (R322): queued ones end at once, in posting order; the running one stops at its next
k-step boundary. -/
def State.cancelWalks (s : State) (uid c : Nat) : State :=
  match s.mill? uid with
  | none => s
  | some m =>
    let queued := (m.ctx c).walks.filter fun w => w.st == .queued && w.again.isNone
    let s := queued.foldl (fun s w => s.modCtx uid c fun x => x.endWalk w true) s
    let s := match m.liveWalk c with
      | none => s
      | some w => s.modWalk uid c w.num fun w =>
        let w := if w.again.isSome then { w with again := some .cancelling } else { w with st := .cancelling }
        if w.busy then w else w.abandon
    s.walkPump uid c
def execWcancel (f : Fields) (s : State) : Out :=
  issue 0xD2 (fun _ _ => {})
    (fun x => match x.a.mill with
      | some uid => .done (x.s0.cancelWalks uid (walkCtx x.f)) [] []
      | none => .done x.s0 [] []) f s

/-- The check of one participant of `accld` (R328), and the place of its four values. -/
def Ctx.accPlace (x : Ctx) (l : Nat) : Except AErr (Nat × Nat) :=
  match x.a.mill, x.mill?.bind fun m => m.liveWalk (walkCtx x.f) with
  | some uid, some w =>
    let a := (x.w l .A).toNat
    let b := (x.w l .B).toNat
    let c := (x.w l .C).toNat
    let off := padOffset w.rc.cslot + a * w.rc.cSize + 4 * (b * w.rc.tnCols + c)
    match w.cslots[a]? with
    | none => .error (.fault { cls := 0x12, sub := 10 })
    | some y =>
      if b ≥ w.rc.tmRows ∨ c % 4 ≠ 0 ∨ c + 4 > w.rc.tnCols then .error (.fault { cls := 0x12, sub := 10 })
      else if y.st ≠ .done then .error (.fault { cls := 0x12, sub := 11 })
      else if x.s0.rowBad uid (padOffset w.rc.cslot + a * w.rc.cSize + 4 * b * w.rc.tnCols) (4 * w.rc.tnCols) then .error (.fault { cls := 0x0C, sub := 0 })
      else .ok (uid, off)
  | _, _ => .error (.fault { cls := 0x12, sub := 9 })
def execAccld (f : Fields) (s : State) : Out :=
  issue 0xD3 (fun _ _ => { d := .quad, a := .word, b := .word, c := .word })
    (fun x =>
      match gather x.todo x.accPlace with
      | .bad b => noneDone x b
      | .wait l e => .wait x.s0 l e false []
      | .ok oks => .done (oks.foldl (fun s p =>
          let (s, ids) := s.postLoads (s.postInfo x.a p.1 x.pc .ld (accessField .load .sp 16)) p.2.2 4 [plainPiece (padKey p.2.1 p.2.2) 16]
          let dsts := s.dstsOf x.a x.f p.1 4
          s.startLong x.a x.f p.1 x.lowest dsts (dsts.map fun _ => 0) 0 none 4 (ids.map fun n => (n, none))) x.s0) [] []) f s

/-- The slot of the lowest participant is stored over with zeros (R329). -/
def execAccclr (f : Fields) (s : State) : Out :=
  issue 0xD4 (fun _ _ => { a := .word })
    (fun x =>
      let l := x.lowest
      let n := (x.w l .A).toNat
      match x.a.mill, x.mill?.bind fun m => m.liveWalk (walkCtx x.f) with
      | some uid, some w =>
        match w.cslots[n]? with
        | none => .all { cls := 0x12, sub := 10 }
        | some y =>
          let off := padOffset w.rc.cslot + n * w.rc.cSize
          let size := 4 * w.rc.tmRows * w.rc.tnCols
          if y.bound then .all (accFault 0x0B 2 (BitVec.ofNat 64 off) .store .sp size)
          else .done ((x.s0.postPiece (x.s0.postInfo x.a l x.pc .st (accessField .store .sp size)) off 8
            (plainPiece (padKey uid off) size) (List.replicate size 0)).clearRows uid off size |>.clearMarks (padKey uid off) size) [] []
      | _, _ => .all { cls := 0x12, sub := 9 }) f s

end Sys2Proof.Machine
end

