-- ==== Sys2Proof/Machine/Sched.lean ====
section
/-! DEFINITION. Launch records, enqueueing, placement, finishing and freeing of mills, slices, and opcodes 0x95-0x97
(spec/08_parallel_machine.md R146-R174, R435; spec/09 R198-R201; spec/13 R273; spec/20 R356-R358). -/

namespace Sys2Proof.Machine

/-! ### Launch records (R150, R153, R165) -/

def launchOf (bs : List Byte) : Launch where
  entry := BitVec.ofNat 64 (fieldU bs 0x00 8)
  wid := BitVec.ofNat 64 (fieldU bs 0x08 8)
  ext := (List.range 6).map fun k => fieldU bs (0x10 + 4 * k) 4
  wheels := fieldU bs 0x28 1
  hres := fieldU bs 0x29 1
  gang := fieldU bs 0x2A 1
  minwin := fieldU bs 0x2B 1
  scratch := fieldU bs 0x2C 2
  acc := fieldU bs 0x2E 2
  param := BitVec.ofNat 64 (fieldU bs 0x30 8)
  tvec := BitVec.ofNat 64 (fieldU bs 0x38 8)
  sched := BitVec.ofNat 64 (fieldU bs 0x40 8)
  schedn := fieldU bs 0x48 4
  pats := BitVec.ofNat 64 (fieldU bs 0x50 8)
  pcfg := BitVec.ofNat 64 (fieldU bs 0x58 8)
  deadline := fieldU bs 0x60 6
  budget := fieldU bs 0x68 4
  eng := fieldU bs 0x6C 4
  rtotal := fieldU bs 0x70 8
  rmin := fieldU bs 0x78 4
  rdiv := fieldU bs 0x7C 4
  spill := BitVec.ofNat 64 (fieldU bs 0x80 8)
  spillsz := fieldU bs 0x88 4
  frp := BitVec.ofNat 64 (fieldU bs 0x90 8)
/-- The seed grid's values (R165). -/
def Launch.seed (r : Launch) : Launch := { r with wheels := 1, gang := 1, wid := 5, ext := [32, 1, 1, 1, 1, 1] }

/-! ### Pipes (R147, R148, R435) -/

/-- A wheel's pool in registers per lane. -/
def Launch.pool (r : Launch) : Nat := 8 + 24 * r.minwin
/-- A pipe's resident wheels and registers in use. -/
abbrev PipeUse := Nat × Nat
/-- The pipe that the next wheel takes: most registers free, then fewest wheels, then the lowest number. -/
def pickPipe (ps : List PipeUse) (pool : Nat) : Option Nat :=
  ((List.range ps.length).filter fun i =>
    let p := ps.getD i (0, 0)
    p.1 < Config.wheelsPerPipe && p.2 + pool ≤ Config.regsPerLane).foldl (fun b i => match b with
      | none => some i
      | some j =>
        let p := ps.getD i (0, 0)
        let q := ps.getD j (0, 0)
        if p.2 < q.2 ∨ (p.2 = q.2 ∧ p.1 < q.1) then some i else some j) none
/-- The pipes of a mill's wheels, in wheel order; none when some wheel finds no pipe. -/
def assignPipes (pool : Nat) : Nat → List PipeUse → Option (List Nat)
  | 0, _ => some []
  | n + 1, ps =>
    match pickPipe ps pool with
    | none => none
    | some i => (assignPipes pool n (modAt ps i fun p => (p.1 + 1, p.2 + pool))).map fun l => i :: l
def emptyPipes : List PipeUse := List.replicate Config.pipesPerCore (0, 0)
def Launch.nWheels (r : Launch) : Nat := r.wheels + r.hres

/-- A widths and values failure of the identifier (R153 subcode 1). -/
def Launch.identBad (r : Launch) : Bool :=
  r.width 0 > 5 || r.width 1 > 4 || r.width 2 > 3 || decide (((List.range 6).map r.width).sum > 64) ||
  (List.range 6).any (fun k => r.extOf k == 0 || decide (r.extOf k > 2 ^ r.width k)) ||
  r.extOf 1 != r.wheels || r.extOf 2 != r.gang
/-- A range or alignment failure (R153 subcode 2). -/
def Launch.rangeBad (r : Launch) : Bool :=
  r.wheels == 0 || r.wheels > 16 || r.hres > 15 || r.nWheels > 16 || r.gang == 0 || r.gang > 8 || r.minwin == 0 || r.minwin > 21 ||
  r.scratch + r.acc > Config.scratchKiB || r.entry.toNat % 4 != 0 || r.spill.toNat % 4 != 0 || r.spillsz % 4 != 0 ||
  r.frp.toNat % 64 != 0
/-- The record's own checks past its reading: the first subcode (R153). -/
def Launch.sub (r : Launch) (engOpen : Bool) : Option Nat :=
  if r.identBad then some 1
  else if r.rangeBad then some 2
  else if (assignPipes r.pool r.nWheels emptyPipes).isNone then some 3
  else if r.rtotal != 0 && (r.rmin == 0 || r.rdiv == 0) then some 4
  else if !engOpen then some 5
  else none

/-! ### Enqueueing (R153, R165-R167) -/

/-- How an enqueue reads memory: address and length. -/
abbrev Reads := DWord → Nat → Except AErr (List Byte)
/-- A read that fails for good becomes the check's fault; a page not present is the front end's first. -/
def AErr.asCheck (e : AErr) (cls sub : Nat) : AErr :=
  match e with
  | .fault fi => .fault { fi with cls := cls, sub := sub }
  | .absent r p fi => .absent r p { fi with cls := cls, sub := sub }
  | e => e
def imageRead (rd : Reads) (cls sub : Nat) (va : DWord) (n : Nat) : Except AErr (List Byte) :=
  match rd va n with
  | .ok bs => .ok bs
  | .error e => .error (e.asCheck cls sub)
def checkFault {α : Type} (cls sub : Nat) (va : DWord) : Except AErr α := .error (.fault { cls := cls, sub := sub, va := va })

/-- The first failing pattern of an image (R266). -/
def patImageSub (hres : Nat) (l : List (BitVec 128)) : Option Nat := (l.filterMap (patSub hres)).head?
/-- What an enqueue has read and checked. -/
structure Enqueued where
  lr      : Launch
  params  : List Word
  patImg  : List (BitVec 128)
  portImg : List (BitVec 32)
  sched   : List FlEntry

/-- What an enqueue has read of memory: address and length. -/
def Enqueued.reads (e : Enqueued) (addr : DWord) : List (DWord × Nat) :=
  [(addr, 256), (e.lr.param, 64), (e.lr.pats, 256), (e.lr.pcfg, 128), (e.lr.sched, 64 * e.lr.schedn)].filter fun r => r.1 != 0 && r.2 != 0
/-- The pattern and port images (R265, R261). -/
def readImages (rd : Reads) (r : Launch) : Except AErr (List (BitVec 128) × List (BitVec 32)) := do
  let pats ← if r.pats = 0 then pure [] else imageRead rd 0x11 5 r.pats 256
  let l := if r.pats = 0 then [] else (List.range 16).map fun i => BitVec.ofNat 128 (fieldU pats (16 * i) 16)
  match patImageSub r.hres l with
  | some k => checkFault 0x11 k r.pats
  | none =>
    let cfg ← if r.pcfg = 0 then pure [] else imageRead rd 0x11 5 r.pcfg 128
    pure (l, if r.pcfg = 0 then [] else (List.range 32).map fun i => BitVec.ofNat 32 (fieldU cfg (4 * i) 4))
/-- The flume schedule (R284); with SCHED 0 the grid has none (R150). -/
def readSched (rd : Reads) (r : Launch) : Except AErr (List FlEntry) := do
  if r.sched = 0 then pure []
  else if r.sched.toNat % 64 != 0 || r.schedn > 4096 then checkFault 0x13 0 r.sched
  else
    let bs ← if r.schedn = 0 then pure [] else imageRead rd 0x13 0 r.sched (64 * r.schedn)
    let es := (List.range r.schedn).map fun i => flEntryOf ((bs.drop (64 * i)).take 64)
    match (es.filterMap fun e => e.sub r.gang).head? with
    | some k => checkFault 0x13 k r.sched
    | none => pure es
/-- Read and check a record and all it names, in the order of R153. -/
def State.readLaunch (s : State) (part : Nat) (seed : Bool) (rd : Reads) (addr : DWord) : Except AErr Enqueued := do
  if addr.toNat % 256 != 0 then checkFault 0x14 0 addr
  else
    let bs ← imageRead rd 0x14 0 addr 256
    let r := if seed then (launchOf bs).seed else launchOf bs
    let ps ← if r.param = 0 then pure (List.replicate 64 0) else imageRead rd 0x14 0 r.param 64
    match r.sub (s.engOf part r.eng).isSome with
    | some k => checkFault 0x14 k addr
    | none =>
      let (pats, cfg) ← readImages rd r
      let es ← readSched rd r
      pure ⟨r, (List.range 16).map fun i => BitVec.ofNat 32 (fieldU ps (4 * i) 4), pats, cfg, es⟩

/-- The partition of a grid's gang. -/
def State.partOfGang (s : State) (g : Gang) : Option Nat := (s.grid? g.grid).map (·.part)
/-- Entries of a partition's launch queue in use: grids with a gang never placed (R166). -/
def State.launchUsed (s : State) (part : Nat) : Nat :=
  (s.gangs.filter fun g => g.st == .unplaced && s.partOfGang g == some part).length
def State.launchFull (s : State) (part : Nat) : Bool := s.launchUsed part ≥ 4096
/-- Enqueue a checked grid: one entry, the spawn-tree count, and its first gang in the ready order (DEDUCED, log 35). -/
def State.enqueue (s : State) (part queue cmd : Nat) (seed : Bool) (e : Enqueued) : State :=
  ({ s with
    grids := s.grids ++ [⟨s.fresh, part, queue, cmd, seed, e.lr, e.params, e.patImg, e.portImg, e.sched, 0, e.lr.gangs, 0, false⟩]
    gangs := s.gangs ++ [⟨s.fresh + 1, s.fresh, 0, .unplaced, s.fresh, 0, 0, false, none, false, []⟩]
    fresh := s.fresh + 2 } : State).modCmd cmd fun c => { c with tree := c.tree + 1 }

/-- The partition's cores lie on one die. -/
def Partition.oneDie (p : Partition) : Bool :=
  (((List.range 52).filter fun c => p.clusters.getLsbD c).map fun c => c / 13).dedup.length ≤ 1
/-- The front end's read on a thread's behalf: what has performed at package scope, or at die scope when the partition lies on
one die (R199). -/
def State.spawnRead (s : State) (a : Agent) (lane part : Nat) : Reads := fun va n => do
  let ps ← s.pieces a lane .load .glob va n
  let r : Reader := ⟨none, none, none, if (s.part part).oneDie then s.dieOf a else none⟩
  if s.poisonedIn ps r.die then .error (.fault (accFault 0x0C 1 va .load .glob n))
  else (ps.mapM fun p =>
    if p.tier = 3 then s.readPiece a lane va.toNat p else .ok (s.viewBytes r p.kid p.key p.len)).map List.flatten

def isTry (f : Fields) : Bool := f.sub == 1
/-- `spawn` in one lane. -/
def State.spawnOne (s : State) (x : Ctx) (g : Grid) (l : Nat) : Except AErr State :=
  let k := x.f.d.toNat % 8
  if s.launchFull g.part then
    if isTry x.f then .ok (s.modThread x.a l fun t => t.setGuard k false) else .error .stall
  else
    match s.readLaunch g.part false (s.spawnRead x.a l g.part) (x.dw l .A) with
    | .error e => .error e
    | .ok e =>
      let s := (e.reads (x.dw l .A)).foldl (fun t r => match t.pieces x.a l .load .glob r.1 r.2 with
        | .ok ps => t.countReads ps
        | .error _ => t) s
      let s := s.enqueue g.part g.queue g.cmd false e
      .ok (if isTry x.f then s.modThread x.a l fun t => t.setGuard k true else s)
/-- One lane after the lower ones: done is a lane whose grid is enqueued, not one that a full queue has refused (R198). -/
def spawnStep (x : Ctx) (g : Grid) (r : State × List (Nat × FaultInfo) × List Nat × Option (Nat × AErr)) (l : Nat) :
    State × List (Nat × FaultInfo) × List Nat × Option (Nat × AErr) :=
  let t := rowStep (fun s l => s.spawnOne x g l) r l
  if r.1.launchFull g.part then (t.1, t.2.1, r.2.2.1, t.2.2.2) else t
/-- Lanes in increasing order; a wait keeps what is enqueued and what has failed, and on a full queue it is a stopping point (R198). -/
def spawnAll (x : Ctx) (g : Grid) : Body :=
  let r := x.todo.foldl (spawnStep x g) (x.s0, x.lost, [], none)
  match r.2.2.2, r.2.1 with
  | some (lane, e), _ => .wait r.1 lane e (r.1.launchFull g.part) r.2.2.1 r.2.1
  | none, [] => .done r.1 [] []
  | none, (l, fi) :: rest => .coll r.1 fi (l :: rest.map Prod.fst) r.2.2.1
def execSpawn (f : Fields) (s : State) : Out :=
  issue 0x95 (fun f _ => { a := .pair, gWrite := if isTry f then [f.d.toNat % 8] else [] })
    (fun x => match x.a.mill.bind x.s0.gridOfMill with
      | some g => spawnAll x g
      | none => .done x.s0 [] []) f s

/-- One grab of a range unit: start and count, and the unit after it (R168). -/
def Grid.grab (g : Grid) : Nat × Nat × Grid :=
  let rem := g.lr.rtotal - g.cursor
  let n := if rem = 0 then 0 else min rem (max g.lr.rmin (ceilDiv rem g.lr.rdiv))
  (g.cursor, n, { g with cursor := g.cursor + n })
def State.grabFor (s : State) (x : Ctx) (g : Nat) (lanes : List Nat) : State :=
  match s.grid? g with
  | none => s
  | some gr =>
    let (st, n, gr') := gr.grab
    lanes.foldl (fun s l => s.longD x.a x.f l x.lowest (outW 64 st ++ outW 64 n) 0) (s.modGrid g fun _ => gr')
/-- Each grab is served as it issues, the lanes of a word from the lowest up (DEDUCED, log 53). -/
def execGrab (f : Fields) (s : State) : Out :=
  issue 0x96 (fun _ _ => { d := .quad })
    (fun x => match x.a.mill.bind x.s0.gridOfMill with
      | none => .done x.s0 [] []
      | some g =>
        if x.f.mod.getLsbD 0 then .done (x.s0.grabFor x g.uid x.todo) [] []
        else .done (x.todo.foldl (fun s l => s.grabFor x g.uid [l]) x.s0) [] []) f s

/-- The slice ends with the clause that holds the `yield` (R201). -/
def execYield (f : Fields) (s : State) : Out :=
  issue 0x97 (fun _ _ => {})
    (fun x => .done (x.todo.foldl (fun s l => s.modThread x.a l fun t =>
      { t with clause := t.clause.map fun c => { c with yld := true } }) x.s0) [] []) f s

/-! ### Placement (R169-R171, R435, R358) -/

/-- A mill holds its core: running or draining. -/
def Mill.holds (m : Mill) : Bool := m.st == .running || m.st == .draining
def State.millsOn (s : State) (core : Nat) : List Mill := s.mills.filter fun m => m.core == core && m.holds
/-- The registers per lane of a mill's pools. -/
def State.poolOf (s : State) (m : Mill) : Nat :=
  match s.gridOfMill m.uid with
  | some g => g.lr.pool
  | none => 0
/-- Each pipe's wheels and registers in use on a core. -/
def State.pipesOf (s : State) (core : Nat) : List PipeUse :=
  (s.millsOn core).foldl (fun ps m => m.wheels.foldl (fun ps w => modAt ps w.pipe fun p => (p.1 + 1, p.2 + s.poolOf m)) ps) emptyPipes
/-- The pipes a mill's wheels would take on a core that can take it with `walks` saved walks; none when it cannot (R169,
R358). Cores vacated under class 0x21 take no placement (R360). -/
def State.coreFits (s : State) (core : Nat) (r : Launch) (walks : Nat) : Option (List Nat) :=
  let ms := s.millsOn core
  if ms.length ≥ Config.millsPerCore ∨ (ms.map fun m => m.scratch + m.acc).sum + r.scratch + r.acc > Config.scratchKiB ∨
      s.queueUsed core + walks > Config.walkQueue ∨ s.board.vacated.contains core then none
  else assignPipes r.pool r.nWheels (s.pipesOf core)
/-- Cores for the members of a gang in one cluster, each the lowest that fits and is not taken yet: (core, pipes). -/
def State.clusterFits (s : State) (cl : Nat) (r : Launch) : List Nat → List Nat → Option (List (Nat × List Nat))
  | [], _ => some []
  | walks :: rest, used =>
    match (List.range 8).findSome? fun i =>
      let c := 8 * cl + i
      if used.contains c then none else (s.coreFits c r walks).map fun ps => (c, ps) with
    | none => none
    | some (c, ps) => (s.clusterFits cl r rest (c :: used)).map fun l => (c, ps) :: l
/-- The clusters of a partition, increasing. -/
def Partition.clusterList (p : Partition) : List Nat := (List.range 52).filter fun c => p.clusters.getLsbD c

/-- The members of a gang to place: none for a gang never placed, else its unfinished mills. -/
def State.unfinished (s : State) (g : Gang) : List Mill := (g.mills.filterMap s.mill?).filter fun m => m.st == .evicted
/-- The saved walks of each member to place (R358). -/
def State.gangWalks (s : State) (g : Gang) (r : Launch) : List Nat :=
  if g.st = .unplaced then List.replicate r.gang 0
  else (s.unfinished g).map fun m => (((m.ctxs.map (·.walks)).flatten.filter Walk.pending).length)
/-- Where a gang fits, the lowest cluster first, outside one that is reserved for another. -/
def State.gangFits (s : State) (part : Nat) (g : Gang) (barred : Option Nat) : Option (List (Nat × List Nat)) :=
  match s.grid? g.grid with
  | none => none
  | some gr => (s.part part).clusterList.findSome? fun cl =>
    if barred == some cl then none else s.clusterFits cl gr.lr (s.gangWalks g gr.lr) []

/-- The DEADLINE key of a gang, and its effective key (R170, R357). -/
def State.keyOf (s : State) (g : Gang) : Nat :=
  match s.grid? g.grid with
  | some gr => gr.lr.deadline
  | none => 0
def State.effKey (s : State) (g : Gang) : Nat := if g.starve ≥ 64 then 0 else s.keyOf g
def Gang.waiting (g : Gang) : Bool := g.st == .unplaced || g.st == .evicted
/-- g stands before h in the ready order. -/
def State.readyBefore (s : State) (g h : Gang) : Bool :=
  s.effKey g < s.effKey h || (s.effKey g == s.effKey h && (g.order < h.order || (g.order == h.order && g.num < h.num)))
def insertGang (s : State) (g : Gang) : List Gang → List Gang
  | [] => [g]
  | h :: l => if s.readyBefore g h then g :: h :: l else h :: insertGang s g l
/-- The ready order of a partition (R170). -/
def State.readyOrder (s : State) (part : Nat) : List Gang :=
  (s.gangs.filter fun g => g.waiting && s.partOfGang g == some part).foldl (fun l g => insertGang s g l) []

/-- A thread of a main wheel as it starts (R149, R152, R154). -/
def startThread (r : Launch) (gang f2 wheel lane : Nat) : Thread :=
  { Thread.start r.entry (decide (lane ≥ r.extOf 0)) with sys := r.sys gang f2 wheel lane }
/-- The wheels of a mill that has just been placed. -/
def startWheels (r : Launch) (gang f2 : Nat) (pipes : List Nat) : List Wheel :=
  (List.range r.nWheels).map fun w =>
    { threads := (List.range 32).map fun l => if w < r.wheels then startThread r gang f2 w l else Thread.start 0 true
      handler := decide (w ≥ r.wheels)
      pipe := pipes.getD w 0
      fences := Fences.start
      paused := 0
      inst := none
      saveFrom := none, bufPc := none, posting := none }
/-- BUDGET, or 800,000 (R356). -/
def Launch.slice (r : Launch) : Nat := if r.budget = 0 then Config.defaultBudget else r.budget
/-- A mill as it is placed: parameters in s0-s15, its images in ports and patterns, everything else at its start (R151, R225,
R285, R306). -/
def startMill (g : Grid) (uid gang gangNum f2 core : Nat) (pipes : List Nat) : Mill where
  uid := uid
  gang := gang
  f2 := f2
  core := core
  st := .running
  aborted := false
  wheels := startWheels g.lr gangNum f2 pipes
  sregs := (List.range 16).foldl (fun m i => sput 0 m i (g.params.getD i 0)) []
  claims := []
  uniPoison := []
  behind := []
  tables := List.replicate 8 ((List.range 32).map fun i => BitVec.ofNat 8 i)
  ports := (List.range 32).map fun i => if g.portImg.isEmpty then Port.default else Port.default.configure (g.portImg.getD i 0).toNat
  pats := (List.range 16).map fun i => ⟨g.patImg.getD i 0, 0, 0⟩
  flume := Flume.start
  ctxs := [WalkCtx.start, WalkCtx.start]
  bud := g.lr.slice
  closed := false
  lastEng := FaultRec.zero
  engCount := 0
  scratch := g.lr.scratch
  acc := g.lr.acc
  claimed := false
  frozen := false
  err := none
  rowMarks := []
  lateRecs := []
  area := none

/-- Bytes of a grid's spill area: a share for every slot number (R152). -/
def Launch.spillBytes (r : Launch) : Nat := r.spillsz * (r.gangs * r.gang * 512)
/-- What an engagement's mills use of the cores counts at its RELEASE (R413). -/
def State.modEng (s : State) (part num : Nat) (f : Engagement → Engagement) : State :=
  s.modPart part fun p => { p with engs := p.engs.map fun e => if e.num = num then f e else e }
def Engagement.uses (e : Engagement) (r : Launch) (root : Nat) (cores : List (Nat × List Nat)) : Engagement :=
  { e with
    pads := cores.foldl (fun l c => insertNat c.1 l) e.pads
    pools := cores.foldl (fun l c => c.2.foldl (fun l p => insertNat (c.1 * 8 + p) l) l) e.pools
    spills := if r.spillsz = 0 ∨ e.spills.contains (root, r.spill.toNat, r.spillBytes) then e.spills
      else e.spills ++ [(root, r.spill.toNat, r.spillBytes)] }
/-- Place a gang that has never been placed: its mills start, and the next gang of the grid takes its place in the order. -/
def State.placeNew (s : State) (gr : Grid) (g : Gang) (cores : List (Nat × List Nat)) : State :=
  let n := cores.length
  let uids := (List.range n).map fun i => s.fresh + i
  let ms := (List.range n).map fun i => startMill gr (s.fresh + i) g.uid g.num i (cores.getD i (0, [])).1 (cores.getD i (0, [])).2
  let s := s.modGang g.uid fun g => { g with st := .resident, age := 0, starve := 0, mills := uids }
  let s := { s.modGrid gr.uid fun x => { x with placed := g.num + 1 } with mills := s.mills ++ ms, fresh := s.fresh + n }
  if g.num + 1 < gr.lr.gangs then
    { s with
      gangs := s.gangs ++ [⟨s.fresh, gr.uid, g.num + 1, .unplaced, g.order, 0, g.starve, false, none, false, []⟩]
      fresh := s.fresh + 1 }
  else s
/-- Place an evicted gang again: its unfinished mills take cores and pipes, and wait for their restore (R358, R368). -/
def State.placeAgain (s : State) (g : Gang) (cores : List (Nat × List Nat)) : State :=
  let ms := s.unfinished g
  let s := s.modGang g.uid fun g => { g with st := .resident, age := 0, starve := 0, restoring := true }
  (List.range ms.length).foldl (fun s i =>
    match ms[i]? with
    | none => s
    | some m =>
      let c := cores.getD i (0, [])
      s.modMill m.uid fun m => { m with
        st := .running
        core := c.1
        wheels := (List.range m.wheels.length).filterMap fun w => m.wheels[w]?.map fun x => { x with pipe := c.2.getD w 0 } }) s
def State.place (s : State) (g : Gang) (cores : List (Nat × List Nat)) : State :=
  match s.grid? g.grid with
  | none => s
  | some gr =>
    let s := s.modEng gr.part gr.lr.eng fun e => e.uses gr.lr (s.queue gr.queue).root.toNat cores
    if g.st = .unplaced then (s.placeNew gr g cores).landInbox else s.placeAgain g cores

/-- The cores of a cluster that could take one mill of a gang (R171); of an evicted gang, its first unfinished mill with its saved walks
(DEDUCED, log 53). -/
def State.freeCores (s : State) (cl : Nat) (g : Gang) : Nat :=
  match s.grid? g.grid with
  | none => 0
  | some gr => ((List.range 8).filter fun i => (s.coreFits (8 * cl + i) gr.lr ((s.gangWalks g gr.lr).headD 0)).isSome).length
/-- The cluster to reserve: most free cores, the lowest on a tie. -/
def State.reserveFor (s : State) (part : Nat) (g : Gang) : Option Nat :=
  (s.part part).clusterList.foldl (fun b cl => match b with
    | none => some cl
    | some c => if s.freeCores cl g > s.freeCores c g then some cl else some c) none
/-- The reservation in force for the head: an earlier one ends when another gang heads the order; at age 16 the head gets
one. -/
def State.settleReservation (s : State) (part : Nat) (head : Gang) : State :=
  let keep := match (s.part part).resv with
    | some r => r.gang == head.uid
    | none => false
  if keep then s
  else s.modPart part fun p => { p with resv := if head.age ≥ 16 then (s.reserveFor part head).map fun c => ⟨head.uid, c⟩ else none }
/-- GANG_PLACEMENT: one decision of a partition's scheduler. -/
def execGangPlacement (part : Nat) (s : State) : Out :=
  if !(s.part part).valid || s.board.gated then .next s
  else match s.readyOrder part with
    | [] => .next s
    | head :: rest =>
      let s := s.settleReservation part head
      match s.gangFits part head none with
      | some cores => .next ((s.place head cores).modPart part fun p => { p with resv := none })
      | none =>
        let barred := (s.part part).resv.map (·.cluster)
        match rest.findSome? fun g => (s.gangFits part g barred).map fun c => (g, c) with
        | none => .next s
        | some (g, cores) =>
          let s := (s.place g cores).modGang head.uid fun h => { h with age := h.age + 1 }
          .next (match s.gang? head.uid with
            | some h => s.settleReservation part h
            | none => s)

/-! ### Pauses, finishing, freeing (R172-R174, R273) -/

/-- PAUSE_EXPIRY: the cycles left of an agent's pause pass. -/
def execPauseExpiry (a : Agent) (s : State) : Out :=
  let n := match a with
    | .fe k => (match s.fe[k]? with
      | some c => c.paused
      | none => 0)
    | _ => (match s.wheel? a with
      | some w => w.paused
      | none => 0)
  .next (s.pass n)

/-- A released operation that carries a NOTE is incomplete (R273); a failed one counts as complete (R294). -/
def Flume.noteOpen (f : Flume) (sched : List FlEntry) : Bool :=
  (f.ops.any fun o => !o.failed && (match o.entryIn sched with
    | some e => e.notes
    | none => false)) ||
  (f.halt.isNone && (List.range sched.length).any fun i =>
    match sched[i]? with
    | some e =>
      let first := 1 + ((sched.take i).map FlEntry.reps).sum
      let r := f.next - first
      e.notes && decide (r < e.reps) && f.released e r
    | none => false)
/-- The conditions of R273. -/
def State.mayFinish (s : State) (m : Mill) : Bool :=
  m.st == .running && !m.aborted &&
  m.wheels.all (fun w => if w.handler then w.inst.isNone else w.threads.all (·.exited)) &&
  !(m.ctxs.map (·.walks)).flatten.any Walk.pending &&
  !m.flume.noteOpen (s.schedOf m.uid) &&
  !((List.range m.pats.length).any m.satisfiable)
/-- MILL_FINISH: the mill drains; one with a halted flume context or walk is in error with its engine record (R354). -/
def execMillFinish (uid : Nat) (s : State) : Out :=
  match s.mill? uid with
  | none => .next s
  | some m =>
    if !s.mayFinish m then .next s
    else if m.flume.halt.isSome || m.ctxs.any (·.halted) then .next (s.millError uid m.lastEng)
    else .next (s.modMill uid fun m => { m with st := .draining })

/-- Nothing that the mill issued is unacknowledged (R174). -/
def State.drained (s : State) (m : Mill) : Bool :=
  !(s.posted.any fun p => p.mill == some m.uid && p.rd == 0) &&
  !(s.txns.any fun t => t.mill == some m.uid && t.posted.isSome && t.resp.isNone) &&
  m.flume.ops.all (·.failed) && (m.aborted || (s.nextOp m).isNone)
/-- MILL_FREE. -/
def execMillFree (uid : Nat) (s : State) : Out :=
  match s.mill? uid with
  | none => .next s
  | some m => if (m.st == .draining || (m.st == .evicted && m.aborted)) && s.drained m then .next (s.freeMill uid) else .next s

/-! ### Slices (R356, R357) -/

/-- A thread of the gang is halted by a debugger (R357). -/
def State.gangHalted (s : State) (g : Gang) : Bool :=
  (g.mills.filterMap s.mill?).any fun m => m.wheels.any fun w => w.threads.any fun t => t.halted || t.haltDue
/-- The slice of a resident gang is over. -/
def State.sliceOver (s : State) (g : Gang) : Bool :=
  g.st == .resident && g.save.isNone && !g.restoring &&
  (g.yield || (g.mills.filterMap s.mill?).any fun m => m.st == .running && m.bud == 0)
/-- A pre-emption is requested of a gang: its sluices stop firing; a request during a save is merged (R360, R361). -/
def State.preempt (s : State) (gang cls sub : Nat) : State :=
  s.modGang gang fun g => if g.save.isSome then g else { g with save := some ⟨BitVec.ofNat 8 cls, BitVec.ofNat 8 sub, false⟩ }
/-- The slice renews: budgets, and the starvation counts of gangs held back. -/
def State.renew (s : State) (g : Gang) (part : Nat) : State :=
  let key := s.keyOf g
  let s1 : State := { s with mills := s.mills.map fun m => if m.gang = g.uid then { m with bud := match s.grid? g.grid with
    | some gr => gr.lr.slice
    | none => m.bud } else m }
  { s1 with gangs := s1.gangs.map fun h =>
      if h.waiting && s.partOfGang h == some part && s.effKey h > key then { h with starve := min 64 (h.starve + 1) } else h }
/-- The slice of a gang ends, if it is over: the one test of R357. -/
def State.endSlice (s : State) (gang : Nat) : State :=
  match s.gang? gang with
  | none => s
  | some g =>
    match s.partOfGang g with
    | none => s
    | some part =>
      if !s.sliceOver g then s
      else
        let s := s.modGang gang fun g => { g with yield := false }
        let due := (s.readyOrder part).any fun h => s.effKey h ≤ s.keyOf g
        if due && !s.gangHalted g then s.preempt gang 0x20 0 else s.renew g part
/-- The slices that are over end at that moment: nothing issues between `bud` reaching 0, or the end of a `yield`'s clause, and the test (R201,
R357). -/
def State.endSlices (s : State) : State := (s.gangs.filter s.sliceOver).foldl (fun s g => s.endSlice g.uid) s
/-- SLICE_END. -/
def execSliceEnd (gang : Nat) (s : State) : Out := .next (s.endSlice gang)

end Sys2Proof.Machine
end

