-- ==== Sys2Proof/Machine/Save.lean ====
section
/-! DEFINITION. Pre-emption: requests, the save vector, the freeze, the image, and the restore; opcode 0xE0
(spec/20_faults_and_preemption.md R360-R368, R372). -/

namespace Sys2Proof.Machine

/-- PREEMPT_REQUEST: class 0x21, subcode 0 the front end's, which also takes the cores out of placement, 1 a debugger's
(R360). A gang with a wheel halted by a debugger is never pre-empted (R357). -/
def execPreemptRequest (gang sub : Nat) (s : State) : Out :=
  match s.gang? gang with
  | none => .next s
  | some g =>
    if g.st != .resident || g.restoring || sub > 1 || s.gangHalted g then .next s
    else
      let s := s.preempt gang 0x21 sub
      if sub = 1 then .next s
      else .next { s with board := { s.board with vacated :=
        ((g.mills.filterMap s.mill?).filter Mill.holds).foldl (fun l m => insertNat m.core l) s.board.vacated } }

/-! ### Entering the save vector (R361, R362) -/

/-- A thread that waits at `syncw` stands at that `syncw` again, not waiting. -/
def Thread.atSync (t : Thread) : Thread :=
  match t.waiting, t.syncAt with
  | true, some (pc, c) => { t with pc := pc, clause := some c, waiting := false, syncAt := none }
  | _, _ => t
/-- A stopping point: a clause header is due, or the thread waits at one of the instructions of R361. -/
def Thread.stoppable (t : Thread) : Bool := t.clause.isNone || t.blocked || t.waiting
/-- The thread may enter now: no resolution is outstanding and no fence slot of its wheel is held (R222, R248). -/
def State.mayEnterSave (s : State) (a : Agent) (lane : Nat) : Bool :=
  let t := s.thread a lane
  !t.exited && !t.stopped && t.due.isNone && t.saveDepth.isNone && t.stoppable && (s.fences a).slots.all Option.isNone &&
    !s.asking a lane

/-- The save is done in this thread (R372). -/
def Thread.saveOver (t : Thread) : Thread := { t with saveDone := true }
/-- A collective's completed lanes become the restart mask of the depth just entered (R349, R361). -/
def Thread.keepArmed (t : Thread) (m : Option Restart) (pc : DWord) : Thread :=
  match m with
  | some m => if m.pc = pc then { t with masks := ⟨t.depth, pc, m.done, []⟩ :: t.masks.filter (·.depth != t.depth) } else t
  | none => t
/-- The hardware save: `wspill` then `savedone` in the window just entered; its own fault escalates with its own record. -/
def State.hardSave (s : State) (a : Agent) (lane : Nat) (pc : DWord) : Except AErr State :=
  match s.riseDepth a lane pc s.fresh with
  | .error e => .error e
  | .ok t =>
    match t.spillAll a lane pc s.fresh with
    | (s, none) => .ok (s.modThread a lane Thread.saveOver)
    | (s, some (.fault fi)) => .ok (s.escalate a lane (s.mkRec a lane fi pc 0) false)
    | (_, some e) => .error e
/-- Enter the save vector as a trap without a record; `tpc` is the thread's PC. A `yield` that waits for the end of the interrupted clause waits
no more: the save ends the slice (R201, DEDUCED, log 53). -/
def State.enterSave (s : State) (a : Agent) (lane : Nat) (q : SaveReq) : Except AErr State :=
  if !s.allReady a lane then .error .stall
  else
    let armed := (s.thread a lane).armed
    let s1 := (s.modThread a lane Thread.atSync).trapStatus a lane q.cls.toNat q.sub.toNat
    let pc := (s1.thread a lane).pc
    let rec0 := s1.mkRec a lane { cls := q.cls.toNat, sub := q.sub.toNat } pc 0
    let mark := fun (s : State) => (s.modThread a lane fun t => { t.keepArmed armed pc with saveDepth := some t.depth }).modWheel a
      fun w => { w with saveFrom := some (w.saveFrom.getD s.clk) }
    match s1.vector a lane q.cls.toNat with
    | .error (.fault _) => .ok (s1.escalate a lane rec0 true)
    | .error e => .error e
    | .ok (some hpc, s1) =>
      match s1.enterHandler a lane pc hpc s.fresh with
      | .ok s2 => .ok ((mark s2).dropUsed a [lane])
      | .error (.fault _) => .ok (s1.escalate a lane rec0 true)
      | .error e => .error e
    | .ok (none, s1) =>
      match s1.hardSave a lane pc with
      | .ok s2 => .ok (mark s2)
      | .error (.fault _) => .ok (s1.escalate a lane rec0 true)
      | .error e => .error e
/-- One thread enters the save vector if it may. -/
def State.saveEntry (s : State) (a : Agent) (lane : Nat) : State :=
  match s.saving a with
  | none => s
  | some q =>
    if q.frozen || !s.mayEnterSave a lane then s
    else match s.enterSave a lane q with
      | .ok s => s.releaseSync a
      | .error e => s.stallOn a lane e
/-- SAVE_VECTOR_ENTRY. -/
def execSaveVectorEntry (a : Agent) (lane : Nat) (s : State) : Out := .next (s.saveEntry a lane)

/-- Inside the save vector: at the depth it was entered at, or deeper (R372). -/
def Thread.inSave (t : Thread) : Bool :=
  match t.saveDepth with
  | some d => 0 < d && d ≤ t.depth
  | none => false
/-- `savedone` (R372). -/
def execSavedone (f : Fields) (s : State) : Out :=
  issue 0xE0 (fun _ _ => {})
    (fun x => .done (x.todo.foldl (fun s l =>
      if (s.saving x.a).isSome && (x.thread l).inSave then s.modThread x.a l Thread.saveOver else s) x.s0) [] []) f s

/-! ### Freeze, close, image (R363-R366) -/

def State.resident (s : State) (g : Gang) : List Mill := (g.mills.filterMap s.mill?).filter fun m => m.st == .running
/-- SAVE_FREEZE: step 2 holds, so step 3. -/
def execSaveFreeze (gang : Nat) (s : State) : Out :=
  match s.gang? gang with
  | none => .next s
  | some g =>
    match g.save with
    | none => .next s
    | some q =>
      if (s.resident g).all fun m => m.wheels.all Wheel.saved then
        .next (s.modGang gang fun g => { g with save := some { q with frozen := true } })
      else .next s
/-- The gang of a mill is frozen in a save. -/
def State.frozenSave (s : State) (m : Mill) : Bool :=
  match (s.gang? m.gang).bind (·.save) with
  | some q => q.frozen
  | none => false
/-- A write of the mill's own that must perform before the image: one to its scratchpad, or a flume element's (R363, R366). -/
def State.ownWrites (s : State) (uid : Nat) : Bool :=
  s.posted.any fun p => p.mill == some uid && p.rd == 0 && p.bad.isNone && p.settled.isNone &&
    (padOf p.key == some uid || p.owner == flumeAgent uid)
/-- SAVE_CLOSE: the drain counter is 0 and the mill's own writes have performed (step 4). -/
def execSaveClose (uid : Nat) (s : State) : Out :=
  match s.mill? uid with
  | none => .next s
  | some m =>
    if m.st == .running && s.frozenSave m && s.drainOf uid == 0 && !s.ownWrites uid then
      .next (s.modMill uid fun m => { m with closed := true })
    else .next s

/-- What a thread keeps of an eviction (R364): the rest is zero, invalid, empty, clear. -/
def Thread.evict (t : Thread) : Thread :=
  { t with
    clause := none
    stack := []
    latch := [⟨0, 0, false⟩, ⟨0, 0, false⟩, ⟨0, 0, false⟩]
    long := []
    loopBuf := []
    bufMode := false
    regPoison := []
    refused := []
    blocked := false
    armed := none
    due := none }
/-- A restored running walk goes to the head of its context's queue (R365). -/
def Walk.evict (w : Walk) : Walk := if w.onCtx then { w with again := some w.st, st := .queued, post := 0 } else w
/-- Repeats of an entry that a stage value releases. -/
def FlEntry.releasedReps (e : FlEntry) (stage : Nat) : Nat :=
  if stage < e.stage then 0 else if e.sstep = 0 then e.reps else min e.reps ((stage - e.stage) / e.sstep + 1)
/-- The last operation up to which every one is released; operations issue in order, so the remainder ends there (R366). -/
def releasedTo (stage : Nat) : List FlEntry → Nat
  | [] => 0
  | e :: l => if e.releasedReps stage = e.reps then e.reps + releasedTo stage l else e.releasedReps stage
/-- A mill leaves its core with its context save area, and the flume remainder named (R364-R366). -/
def Mill.evict (m : Mill) (sched : List FlEntry) (area : Nat × Nat) : Mill :=
  { m with
    st := .evicted
    area := some area
    behind := []
    wheels := m.wheels.map fun w =>
      { w with
        threads := w.threads.map Thread.evict
        fences := ⟨[none, none, none, none], w.fences.gen, none⟩
        paused := 0
        posting := none
        saveFrom := none }
    ctxs := m.ctxs.map fun c => { c with walks := c.walks.map Walk.evict }
    flume := { m.flume with resume := max (m.flume.next - 1) (releasedTo m.flume.stage.toNat sched) } }
/-- An evicted gang rejoins the ready order (R358). -/
def State.rejoin (s : State) (gang : Nat) : State :=
  match s.gang? gang with
  | none => s
  | some g =>
    if (s.resident g).isEmpty then
      { s.modGang gang fun g => { g with st := .evicted, save := none, order := s.fresh, age := 0, starve := 0, yield := false } with
        fresh := s.fresh + 1 }
    else s
/-- The most that a mill's context save area holds (R364): the model takes as much. -/
def Mill.areaBytes (m : Mill) : Nat := m.padBytes + 128 * 1024
/-- The areas of a partition's save pool in use. -/
def State.areas (s : State) (part : Nat) : List (Nat × Nat) :=
  (s.mills.filter fun m => m.st != .freed && (match s.gridOfMill m.uid with
    | some g => g.part == part
    | none => false)).filterMap (·.area)
/-- A free place of the pool, the lowest (DESIGN CHOICE, log 54). -/
def State.takeArea (s : State) (part bytes : Nat) : Option Nat :=
  let p := s.part part
  let used := s.areas part
  ((ceilDiv p.saveBase.toNat 64 * 64 :: used.map fun a => a.1 + a.2).filter fun b =>
    b + bytes ≤ p.saveBase.toNat + p.saveSize.toNat && !used.any fun a => meets a.1 a.2 b bytes).foldl (fun m b => match m with
      | none => some b
      | some x => some (min x b)) none
/-- The lowest key-ID of an engagement (R412). -/
def Engagement.lowKid (e : Engagement) : Nat := e.kids.foldl min (e.kids.headD 0)
/-- The area is written whole: its lines are encrypted under a key-ID, hold no marks, and count (R414, R421); how the image lies in it is the
implementation's own (DESIGN CHOICE, log 54). -/
def State.sealArea (s : State) (kid : Nat) (area : Nat × Nat) : State :=
  let t := (s.zeroRange area.1 area.2).monitorAll area.1 area.2 kid true
  { t with lineKeys := (List.range (area.2 / 16)).foldl (fun m i => sput 0 m (area.1 / 16 + i) (s.kidGen kid)) t.lineKeys }
/-- A restored mill's area is read, and is zeroed as the mill gives it back (R226, R376, R378, R414). -/
def State.openArea (s : State) (m : Mill) : State :=
  match m.area, (s.gridOfMill m.uid).bind fun g => s.engOf g.part g.lr.eng with
  | some a, some e => (s.monitorAll a.1 a.2 e.lowKid false).zeroRange a.1 a.2
  | some a, none => s.zeroRange a.1 a.2
  | none, _ => s
/-- SAVE_IMAGE: the mill's state goes to its context save area, under its engagement's lowest key-ID, and the mill leaves its core (steps 5
and 6). With no room in the pool the step waits (DESIGN CHOICE, log 54). -/
def execSaveImage (uid : Nat) (s : State) : Out :=
  match s.mill? uid, s.gridOfMill uid with
  | some m, some g =>
    if m.st == .running && m.closed && s.frozenSave m && !(m.ctxs.map (·.walks)).flatten.any (·.busy) then
      match s.takeArea g.part m.areaBytes, s.engOf g.part g.lr.eng with
      | some base, some e =>
        let area := (base, m.areaBytes)
        let s := (s.sealArea e.lowKid area).modEng g.part g.lr.eng fun e =>
          { e with saves := if e.saves.contains area then e.saves else e.saves ++ [area] }
        let s := { s.modMill uid fun m => m.evict g.sched area with posted := s.posted.filter fun p => !(p.rd != 0 && p.mill == some uid) }
        .next (s.rejoin m.gang)
      | _, _ => .next s
    else .next s
  | _, _ => .next s

/-- SAVE_TIMEOUT: the save limit has passed since the wheel's first entry (R362). -/
def execSaveTimeout (uid w : Nat) (s : State) : Out := .next (s.lateSave uid w)

/-! ### Restore (R367, R368, R433) -/

/-- A saved thread stands at its saved depth, its window pending. -/
def Thread.restore (t : Thread) : Thread :=
  { t with winPending := true, low := t.depth, saveDepth := none, saveDone := false, clause := none, entryDue := true }
/-- The thread enters its restore vector, or the hardware fills and returns (R368 step 5). -/
def State.restoreThread (s : State) (a : Agent) (lane : Nat) : Except AErr State :=
  let s := s.modThread a lane Thread.restore
  let pc := (s.thread a lane).pc
  let fail := fun (s : State) (fi : FaultInfo) (dbl : Bool) => s.escalate a lane (s.mkRec a lane fi pc 0) dbl
  match s.vector a lane 0x22 with
  | .error (.fault fi) => .ok (fail s fi true)
  | .error e => .error e
  | .ok (some hpc, s) =>
    match notAbsent (s.fetchHeader a lane hpc) with
    | .error (.fault fi) => .ok (fail s fi true)
    | .error e => .error e
    | .ok _ => .ok ((s.keepFetch a lane hpc).modThread a lane fun t => { t with pc := hpc, restAt := some t.depth })
  | .ok (none, s) =>
    match (do (← s.fillCurrent a lane).returnFrom a lane) with
    | .error (.fault fi) => .ok (fail s fi false)
    | .error e => .error e
    | .ok s => .ok s
/-- The threads to restore: every one that was saved. -/
def State.savedThreads (s : State) (g : Gang) : List (Agent × Nat) :=
  ((s.resident g).map fun m => ((List.range m.wheels.length).map fun w =>
    ((List.range 32).filter fun l => (s.thread (.wheel m.uid w) l).saveDone).map fun l => (Agent.wheel m.uid w, l)).flatten).flatten
def State.restoreAll (s : State) : List (Agent × Nat) → Except (Agent × Nat × AErr) State
  | [] => .ok s
  | (a, lane) :: l =>
    match s.restoreThread a lane with
    | .error e => .error (a, lane, e)
    | .ok s => s.restoreAll l
/-- The saved walks that were not running queue behind the core's own, in their order. -/
def State.requeue (s : State) (uid : Nat) : State :=
  let n := s.fresh
  { s.modMill uid fun m => { m with ctxs := m.ctxs.map fun c => { c with walks := c.walks.map fun w =>
      if w.st = .queued ∧ w.again.isNone then { w with post := n + w.post } else w } } with fresh := n + n + 1 }
/-- RESTORE: steps 2 to 5; a page that must be resolved first holds the whole restore (DEDUCED, log 37). -/
def execRestore (gang : Nat) (s : State) : Out :=
  match s.gang? gang with
  | none => .next s
  | some g =>
    if !g.restoring then .next s
    else
      let ms := s.resident g
      let slice := match s.grid? g.grid with
        | some gr => gr.lr.slice
        | none => 0
      let s1 := (ms.foldl (fun s m => ((s.openArea m).requeue m.uid).modMill m.uid fun m =>
        { m with bud := slice, closed := false, area := none }) s).landInbox
      match s1.restoreAll (s1.savedThreads g) with
      | .error (a, lane, e) => .next (s.stallOn a lane e)
      | .ok s2 => .next (s2.modGang gang fun g => { g with restoring := false })

end Sys2Proof.Machine
end

