-- ==== Sys2Proof/Machine/Debug.lean ====
section
/-! DEFINITION. What a debugger does through the front end: claims, halts, freezes, resumes, reads
(spec/20_faults_and_preemption.md R369, R370). -/

namespace Sys2Proof.Machine

/-- BREAKPOINT_CLAIM: the breakpoints of a mill, or an address match in it. -/
def execBreakpointClaim (uid : Nat) (c : Claim) (s : State) : Out :=
  match s.mill? uid, c with
  | none, _ => .next s
  | some _, .breakpoints on => .next (s.modMill uid fun m => { m with claimed := on })
  | some _, .address on pc =>
    .next { s with watch := (s.watch.filter (· != (uid, pc))) ++ (if on then [(uid, pc)] else []) }

/-- The mill runs, and its gang neither saves nor restores. -/
def State.debuggable (s : State) (uid : Nat) : Bool :=
  match s.mill? uid with
  | some m => m.st == .running && !s.restoring m.gang && (match s.gang? m.gang with
      | some g => g.save.isNone
      | none => false)
  | none => false
/-- DEBUG_HALT: the thread stops now if its header is due, the others of the wheel at their next header; the debugger's trigger
latches a snapshot (R404). -/
def execDebugHalt (a : Agent) (lane : Nat) (s : State) : Out :=
  match a.mill with
  | none => .next s
  | some uid =>
    if !s.debuggable uid || (s.thread a lane).exited then .next s
    else .next (s.haltWheel a []).latch
/-- DEBUG_FREEZE: every wheel stops at its headers, the flume issues nothing and no k-step begins. -/
def execDebugFreeze (uid : Nat) (s : State) : Out :=
  match s.mill? uid with
  | none => .next s
  | some m =>
    if !s.debuggable uid then .next s
    else .next ((List.range m.wheels.length).foldl (fun s w => s.haltWheel (.wheel uid w) [])
      (s.modMill uid fun m => { m with frozen := true }))
/-- DEBUG_RESUME: a halted thread goes on where it stopped, and with it its mill (DEDUCED, log 36); one that waits at `syncw` counts as waiting
again (R193). -/
def execDebugResume (a : Agent) (lane : Nat) (s : State) : Out :=
  let t := s.thread a lane
  match a.mill with
  | none => .next s
  | some uid =>
    if !t.halted && !t.haltDue then .next s
    else .next (((s.modThread a lane fun t => { t with halted := false, haltDue := false, resumed := some t.pc }).modMill uid
      fun m => { m with frozen := false }).releaseSync a)

/-! ### DEBUG_READ (R370) -/

/-- The thread stands halted: where it met a breakpoint, at its next clause header, or blocked in an instruction that is a clause boundary
(R298, R361). -/
def Thread.stands (t : Thread) : Bool := t.halted || (t.haltDue && t.stoppable)
/-- Every register of a thread: PC, window, guards, latch entries with their validity, system registers (R18), completion flags. -/
def State.registers (s : State) (a : Agent) (lane : Nat) : List DWord :=
  let t := s.thread a lane
  [t.pc] ++ ((List.range 32).map fun n => (t.getV n).setWidth 64) ++ [t.guards.setWidth 64] ++
  (t.latch.zipIdx.map fun e => dwordOf (e.1.val.toNat + if t.latchOk e.2 then 2 ^ 32 else 0)) ++
  ((List.range 0x0F).filterMap fun i => s.sysGet a lane i) ++
  [dwordOf ((List.range 12).map fun i => if t.long.any fun o => o.flag == some i then 2 ^ i else 0).sum]
/-- A wheel's fence slots: generation, or 0 for a free one. -/
def Wheel.slotValues (w : Wheel) : List DWord := w.fences.slots.map fun x => match x with
  | some y => dwordOf y.gen
  | none => 0
def Port.values (p : Port) : List DWord :=
  [dwordOf p.fifo.length] ++ p.fifo.map (·.val) ++ [p.drops.setWidth 64, if p.sticky then 1 else 0]
def Pattern.values (p : Pattern) : List DWord :=
  [p.entry.setWidth 64, (p.entry >>> 64).setWidth 64, dwordOf p.live, dwordOf p.age]
/-- The words of an accumulator slot's bytes, each with its error mark. -/
def State.accWords (s : State) (uid base size : Nat) : List DWord :=
  (List.range (size / 4)).map fun i =>
    let k := padKey uid (base + 4 * i)
    dwordOf (natOfBytes (memGetList s.mem k 4) + if s.poisoned k 4 then 2 ^ 32 else 0)
def State.ctxRead (s : State) (uid : Nat) (c : WalkCtx) : List DWord :=
  [dwordOf c.timeline] ++ (match c.shown with
    | some w => (List.range 7).map (fun k => dwordOf (w.stat k)) ++
      ((List.range w.cslots.length).map fun n => s.accWords uid (padOffset w.rc.cslot + n * w.rc.cSize) (4 * w.rc.tmRows * w.rc.tnCols)).flatten
    | none => [])
/-- The front end's queue heads and command table. -/
def State.feRead (s : State) : List DWord :=
  s.queues.map (fun q => dwordOf q.2.head) ++
    (s.cmds.map fun c => [dwordOf c.queue, dwordOf c.opcode, c.seq.setWidth 64, dwordOf c.tree]).flatten
def State.millRead (s : State) (m : Mill) : List DWord :=
  (m.wheels.zipIdx.map fun w => ((List.range w.1.threads.length).flatMap fun l =>
    if (s.thread (.wheel m.uid w.2) l).stands then s.registers (.wheel m.uid w.2) l else []) ++ w.1.slotValues).flatten ++
  (List.range 64).map (fun n => (sget 0 m.sregs n).setWidth 64) ++
  (m.ctxs.map (s.ctxRead m.uid)).flatten ++ (m.ports.map Port.values).flatten ++ (m.pats.map Pattern.values).flatten ++
  [m.flume.stage.setWidth 64, dwordOf m.flume.timeline, dwordOf (s.drainOf m.uid)] ++ s.feRead
/-- No lane of a wheel may issue: each that could stands halted. -/
def State.wheelStill (s : State) (uid w : Nat) : Bool :=
  (s.group (.wheel uid w)).all (fun l => (s.thread (.wheel uid w) l).stands) &&
  (s.group (.buf uid w)).all fun l => (s.thread (.buf uid w) l).stands
/-- DEBUG_READ: with the mill frozen, every wheel stopped and no k-step in its array. -/
def execDebugRead (uid : Nat) (s : State) : Out :=
  match s.mill? uid with
  | none => .next s
  | some m =>
    if m.frozen && (List.range m.wheels.length).all (s.wheelStill uid) &&
        !(m.ctxs.map (·.walks)).flatten.any (·.busy) then
      .next { s with debugOut := s.millRead m }
    else .next s

end Sys2Proof.Machine
end

