-- ==== Sys2Proof/Machine/Scrub.lean ====
section
/-! DEFINITION. Zeroing storage, destroying engagements, and stopping a partition's work; the attestation key that signs
(spec/10_memory_levels.md R225; spec/24 R394, R408-R413). -/

namespace Sys2Proof.Machine

/-! ### Zeroing (R225) -/

/-- Lines of a fetch response on its way no longer count: the message only carries its clock (R225). -/
def State.voidFetches (s : State) (p : Nat → Nat → Bool) : State :=
  { s with xmsgs := s.xmsgs.map fun m => match m.kind with
    | .fetch line kid _ => if p line kid then { m with kind := .beacon } else m
    | _ => m }
/-- What a fetch might still return of some words is forgotten. -/
def State.forgetCode (s : State) (p : Nat → Nat → Bool) : State :=
  { s with code := s.code.map fun e => match e with
    | .wrote _ kid key _ _ => if p key kid then .cinv (Config.nCores + Config.nFeCores) [] else e
    | _ => e }
/-- Marked words that the caches hold of their own lines go with the lines (R225, R420). -/
def State.dropMarks (s : State) (p : Nat → Nat → Bool) : State :=
  { s with dies := s.dies.map fun x => { x with
    marks := x.marks.filter fun e => !p (e.1 / 1024) (e.1 % 1024)
    l1Marks := x.l1Marks.filter fun e => !p (e.2.1 / 1024) (e.2.1 % 1024) } }
/-- The lines that dies hold copies of, by a test on line and key-ID, are dropped, with those on their way (R225). -/
def State.dropWhere (s : State) (p : Nat → Nat → Bool) : State :=
  (List.range 4).foldl (fun s d =>
    (((s.die d).copies.map Prod.fst).filter fun e => p (e / 1024) (e % 1024)).foldl (fun s e => s.dropCopy d (e / 1024) (e % 1024)) s)
    ((s.voidFetches p).dropMarks p)
/-- Copies of a range, whoever's, and what a fetch might still return of it. -/
def State.dropRange (s : State) (lo n : Nat) : State :=
  (s.dropWhere fun ln _ => meets (ln * 128) 128 lo n).forgetCode fun key _ => decide (lo ≤ key ∧ key < lo + n)
/-- Copies under some key-IDs, wherever their lines lie (R225). -/
def State.dropKids (s : State) (kids : List Nat) : State :=
  (s.dropWhere fun _ kid => kids.contains kid).forgetCode fun _ kid => kids.contains kid
/-- Overwrite storage with zero (R413): no die keeps a copy. -/
def State.scrubRange (s : State) (r : Nat × Nat) : State := (s.dropRange r.1 r.2).zeroRange r.1 r.2

/-! ### What an engagement's storage is (R413) -/

/-- The leaves of a page table from a node at a level, the larger ones once for their group (R214-R216). -/
def State.leavesOf (s : State) : Nat → Nat → List Leaf
  | level, node => ((List.range 512).map fun i =>
      let first := i - i % groupLen level
      let e1 := s.tableEntry (node + 16 * first)
      if level ≤ 2 ∧ entV e1 ∧ entLeaf e1 ∧ entSize e1 = bigSize level then (if i = first then [leafOf e1] else [])
      else
        let e := s.tableEntry (node + 16 * i)
        if !entV e then []
        else if entLeaf e then (if ownSize level = some (entSize e) then [leafOf e] else [])
        else match level with
          | 0 => []
          | l + 1 => State.leavesOf s l (bitsOf e 51 13 * 8192)).flatten
/-- The page frames that the page tables of a partition map under some key-IDs: (tier, base, size). -/
def State.framesOf (s : State) (part : Nat) (kids : List Nat) : List (Nat × Nat × Nat) :=
  let roots := ((List.range (s.part part).qCount).map fun k => (s.queue ((s.part part).qFirst + k)).root.toNat).dedup
  (((roots.map fun r => s.leavesOf 4 r).flatten.filter fun l => l.tier ≤ 1 && kids.contains l.kid).map fun l =>
    (l.tier, l.frame * 4096, pageBytes l.size)).dedup
/-- The pages of a spill area in host memory, which the key-IDs do not name: (key, bytes). -/
def State.spillRanges (s : State) (a : Nat × Nat × Nat) : List (Nat × Nat) :=
  (splitPages (a.2.2 / 4096 + 2) a.2.1 0 a.2.2).filterMap fun t =>
    match walkGo s (t.1 % 2 ^ 57) 4 a.1 with
    | .leaf l _ => if l.tier = 2 then some (hostKey (l.frame * 4096 + t.1 % pageBytes l.size), t.2.2) else none
    | _ => none
/-- The pieces of a spill area on pages of other devices, with their addresses: zeros are written there as any write is (R385). -/
def State.spillAway (s : State) (a : Nat × Nat × Nat) : List (Nat × Piece) :=
  (splitPages (a.2.2 / 4096 + 2) a.2.1 0 a.2.2).filterMap fun t =>
    match walkGo s (t.1 % 2 ^ 57) 4 a.1 with
    | .leaf l _ =>
      let pa := l.frame * 4096 + t.1 % pageBytes l.size
      if l.tier = 3 then some (t.1, { plainPiece pa t.2.2 with tier := 3, node := l.node, pa := pa }) else none
    | _ => none
/-- The agent as which a queue's commands read and write memory (R436). -/
def cmdAgent (q : Nat) : Agent := .fe (Config.nFeCores + q)
/-- What RELEASE overwrites: frames, spill areas in host memory, context save areas, pond granules. -/
structure Scrubbed where
  frames : List (Nat × Nat × Nat)
  ranges : List (Nat × Nat)
  deriving DecidableEq, Repr
def State.scrubList (s : State) (part : Nat) (e : Engagement) : Scrubbed :=
  let fs := s.framesOf part e.kids
  ⟨fs, fs.map (·.2) ++ (e.spills.map s.spillRanges).flatten ++ e.saves ++ e.granules.map fun g => (2 ^ 53 + 64 * g, 64)⟩
/-- The monitors of a partition log what they have counted under an engagement's key-IDs (R414). -/
def Partition.logRelease (p : Partition) (kids : List Nat) : Partition :=
  (List.range p.monitors.length).foldl (fun p i => kids.foldl (fun p k =>
    match p.monitors[i]? with
    | none => p
    | some m =>
      let c := sget (0, 0) m.counts k
      if c = (0, 0) then p else p.appendLog i 3 k c.1 c.2) p) p
/-- Steps 2 to 4 of RELEASE: cached lines invalidated, storage overwritten, keys destroyed, key-IDs free. Pages of other devices are written by
the queue's command. -/
def State.scrubEng (s : State) (part q : Nat) (e : Engagement) : State :=
  let away := (e.spills.map s.spillAway).flatten
  let s := (s.scrubList part e).ranges.foldl (fun s r => s.scrubRange r) (s.dropKids e.kids)
  let s := away.foldl (fun s t => s.postBytes (s.postInfo (cmdAgent q) 0 0 .st (accessField .store .glob 8)) t.1 8 [t.2] (List.replicate t.2.len 0)) s
  let s := { s with kidGens := e.kids.foldl (fun m k => sput 0 m k 0) s.kidGens }
  s.modPart part fun p => { p with engs := p.engs.filter (·.num != e.num) }

/-! ### Stopping a partition (R394, R408) -/

/-- The agent of one of the partition's queues, which its commands read and write memory as (R436). -/
def Partition.commands (p : Partition) (a : Agent) : Bool :=
  match a with
  | .fe n => Config.nFeCores + p.qFirst ≤ n && n < Config.nFeCores + p.qFirst + p.qCount
  | _ => false
/-- Every grid of a partition is aborted, what its mills have posted performs, and the mills drain (R355, R174): one that has nothing left to be
acknowledged is freed, one that has writes out to another device, or pushes, is freed when these are (DEDUCED, log 44). -/
def State.stopGrids (s : State) (part : Nat) : State :=
  let gs := s.grids.filter (·.part == part)
  let s := gs.foldl (fun s g => s.abortGrid g.uid) s
  let mine := fun (m : Mill) => match s.gang? m.gang with
    | some g => gs.any fun x => x.uid == g.grid
    | none => false
  let uids := (s.mills.filter mine).map (·.uid)
  let s := (s.posted.filter fun p => p.rd == 0 && p.tag.isNone && (match p.mill with
    | some u => uids.contains u
    | none => (s.part part).commands p.owner)).foldl (fun s p => s.settlePosted p) s
  let s := { s with posted := s.posted.filter fun p => !(p.bad.isSome && match p.mill with
    | some u => uids.contains u
    | none => false) }
  uids.foldl (fun s u => match s.mill? u with
    | some m => if s.drained m then s.freeMill u else s
    | none => s) s
/-- Every engagement goes without a receipt, scrubbed as RELEASE does. -/
def State.dropEngs (s : State) (part : Nat) : State := (s.part part).engs.foldl (fun s e => s.scrubEng part (s.part part).qFirst e) s
/-- The pond shares of a partition are zeroed (R225). -/
def State.zeroPond (s : State) (part : Nat) : State :=
  (List.range 4).foldl (fun s d =>
    let sh := (s.part part).pond.getD d (0, 0)
    s.zeroRange (pondKey d (sh.1 * 2 ^ 20)) (sh.2 * 2 ^ 20)) s
def State.queuesOf (s : State) (part : Nat) : List Nat := (List.range (s.part part).qCount).map fun k => (s.part part).qFirst + k
/-- The queues of a partition are disabled, STATE 2 (R400, R408). -/
def State.disableQueues (s : State) (part : Nat) : State :=
  (s.queuesOf part).foldl (fun s q =>
    (s.modQueue q fun x => { x with state := 2, ctrl := x.ctrl &&& 0xFE }).putStatus q 0x08 (bytesOfNat 4 2)) s
/-- On entry to ERROR (R408). The host hears of it from the trust source (R402). -/
def State.enterError (s : State) (part : Nat) : State :=
  let s := (((s.stopGrids part).disableQueues part).dropEngs part).modPart part fun p => { p with tdisp := .error }
  s.hostRecord part 0x8002 2 0xFFFF 0 []
/-- A partition ends: nothing of it is left, and its entry is not valid (R394). The wake latch, and the events of the bits set in it,
stay (R397, R419). -/
def State.destroyPart (s : State) (part : Nat) : State :=
  let s := (((s.stopGrids part).disableQueues part).dropEngs part).zeroPond part
  let qs := s.queuesOf part
  { s with
    cmds := s.cmds.filter fun c => !qs.contains c.queue
    waitTl := s.waitTl.filter fun w => !qs.contains w.1
    queues := s.queues.filter fun e => !qs.contains e.1
    evq := s.evq.filter fun e => match e with
      | .escalated q _ _ => !qs.contains q
      | .gridDone c => !s.cmds.any fun x => x.uid == c && qs.contains x.queue
      | .cmdDone c => !s.cmds.any fun x => x.uid == c && qs.contains x.queue
      | _ => true }.modPart part fun p =>
    { p with valid := false, tdisp := .unlocked, ring := Partition.zero.ring, log := [], logNext := 1, logDrops := 0, resv := none }

/-! ### Keys that sign (R410, R411) -/

/-- Make an attestation key and certify it with one identity signature; with the identity counter past its end, none. -/
def Trust.newKey (t : Trust) : Trust :=
  if t.identity > 2 ^ 20 - 1 then { t with attLive := false }
  else { t with identity := t.identity + 1, attGen := t.attGen + 1, attIndex := 0, attCert := t.identity + 1, attLive := true }
/-- The key that signs next: a fresh one once 65,536 indices are used. -/
def Trust.ready (t : Trust) : Trust := if t.attLive && decide (t.attIndex ≥ 65536) then t.newKey else t
/-- An attestation signature over some bytes, with a leaf index that is used once; none without a live key. -/
def Trust.sign (t : Trust) (bs : List Byte) : Option (List Byte) × Trust :=
  let t := t.ready
  if t.attLive then (some (Config.signature t.attGen t.attIndex bs), { t with attIndex := t.attIndex + 1 })
  else (none, t)
/-- Exactly n bytes of a list. -/
def fitBytes (n : Nat) (bs : List Byte) : List Byte := (bs ++ List.replicate n 0).take n

end Sys2Proof.Machine
end

