-- ==== Sys2Proof/Machine/Dies.lean ====
section
/-! DEFINITION. Messages between the compute dies, and pages on the move (spec/23_dies_and_devices.md R379-R384;
spec/10_memory_levels.md R224). -/

namespace Sys2Proof.Machine

/-! ### Cross-die messages -/

/-- x is at least y in serial-number arithmetic modulo 2^48 (R381). -/
def serialGe (x y : Nat) : Bool := decide ((x + 2 ^ 48 - y) % 2 ^ 48 < 2 ^ 47)
/-- The next message from a die to another: they travel in sequence order (R381). -/
def State.nextX (s : State) (src dst : Nat) : Option XMsg := s.xmsgs.find? fun m => m.src == src && m.dst == dst
/-- Its causal cover holds at the receiver (R382); a beacon changes nothing and waits for nothing. -/
def State.covered (s : State) (m : XMsg) : Bool :=
  match m.kind with
  | .beacon => true
  | _ => (List.range 4).all fun k => k == m.src || k == m.dst ||
      serialGe ((s.die m.dst).kn.getD k 0) (m.clk.getD k 0)
/-- The message has been applied (R382). -/
def State.applied (s : State) (m : XMsg) : State :=
  { s.modDie m.dst fun d => { d with kn := setAt d.kn m.src m.num } with
    xmsgs := s.xmsgs.filter fun x => !(x.src == m.src && x.dst == m.dst && x.num == m.num && x.kind == m.kind) }

/-- REMOTE_WRITE: a write or operation of another die performs at its home, which has room for the pushes (R380-R382). -/
def execRemoteWrite (src dst : Nat) (s : State) : Out :=
  match s.nextX src dst with
  | none => .next s
  | some m =>
    match m.kind with
    | .write id =>
      match s.posted? id with
      | some p => if !s.covered m || !s.roomHome p then .next s else .next ((s.applied m).settlePosted p)
      | none => if !s.covered m then .next s else .next (s.applied m)
    | _ => .next s

/-- A copy takes some bytes of its line. -/
def patchLine (line : List Byte) (off : Nat) (bs : List Byte) : List Byte :=
  (List.range line.length).map fun i => if off ≤ i ∧ i < off + bs.length then bs.getD (i - off) 0 else line.getD i 0
/-- A die's copy of the line as read under the writing key-ID takes the bytes; one read under another key-ID no longer says what the line
holds, and goes (R212). -/
def State.patchCopy (s : State) (d key kid : Nat) (bs : List Byte) : State :=
  let s := ((s.copyKids d (lineOf key)).filter fun k => k != kid % 1024).foldl (fun s k => s.dropCopy d (lineOf key) k) s
  match s.copyOf d (lineOf key) kid with
  | none => s
  | some l => s.modDie d fun x =>
    let base := lineOf key * 128
    let whole := fun (e : Nat × Nat) => e.1 == copyKey (lineOf key) kid &&
      decide (key ≤ base + 8 * e.2 ∧ base + 8 * e.2 + 8 ≤ key + bs.length)
    { x with
      copies := sput [] x.copies (copyKey (lineOf key) kid) (patchLine l (key % 128) bs)
      marks := x.marks.filter fun e => !whole e }
/-- PUSH: the receiver's copy of the line is updated; a write all of whose pushes are applied is over (R382-R384). -/
def execPush (src dst : Nat) (s : State) : Out :=
  match s.nextX src dst with
  | none => .next s
  | some m =>
    match m.kind with
    | .push key kid bs _ posted =>
      if !s.covered m then .next s
      else
        let t := (s.applied m).patchCopy dst key kid bs
        let t := s.logCode t kid key bs.length (posted.map s.writeOf)
        .next (match posted with
          | some id => if t.pushing id then t else t.endPosted id
          | none => t).sweep
    | _ => .next s

/-- FETCH_RESPONSE: the receiver holds a copy of the line as read under the key-ID, with the words that were marked (R212, R382, R420); or the
read that waits for it has its bytes (R238, R382). -/
def execFetchResponse (src dst : Nat) (s : State) : Out :=
  match s.nextX src dst with
  | none => .next s
  | some m =>
    match m.kind with
    | .fetch line kid bs =>
      if !s.covered m then .next s
      else .next ((s.applied m).modDie dst fun d => { d with
        copies := sput [] d.copies (copyKey line kid) bs
        marks := d.marks.filter (·.1 != copyKey line kid) ++ (s.homeMarks (line * 128) 128).map fun b => (copyKey line kid, b % 128 / 8) })
    | .answer id bs =>
      if !s.covered m then .next s
      else .next (match s.posted? id with
        | some p => ((s.applied m).modThread p.owner p.lane fun t => t.fillPart id bs).dropPosted id
        | none => s.applied m)
    | .reply tag bs =>
      if !s.covered m then .next s
      else .next { s.applied m with txns := s.txns.map fun t => if t.tag = tag then { t with resp := some (0, bs) } else t }
    | _ => .next s

/-- A beacon carries the sender's SEQ, which it does not advance (R382) (DEDUCED, log 40). -/
def State.sendBeacon (s : State) (src dst : Nat) : State :=
  let n := (s.die src).seq
  { s.modDie src fun d => { d with sentTo := setAt d.sentTo dst n } with xmsgs := s.xmsgs ++ [⟨src, dst, n, [], .beacon⟩] }
/-- CLOCK_BEACON: the beacon that is next arrives, or one is sent to a die that has had no message since SEQ advanced. -/
def execClockBeacon (src dst : Nat) (s : State) : Out :=
  match s.nextX src dst with
  | some m =>
    if m.kind = .beacon then .next (s.applied m)
    else if src < 4 ∧ dst < 4 ∧ src ≠ dst ∧ (s.die src).sentTo.getD dst 0 ≠ (s.die src).seq then .next (s.sendBeacon src dst)
    else .next s
  | none =>
    if src < 4 ∧ dst < 4 ∧ src ≠ dst ∧ (s.die src).sentTo.getD dst 0 ≠ (s.die src).seq then .next (s.sendBeacon src dst)
    else .next s

/-- DROPS_ITS_COPY: a die evicts its copies of a line (R380). -/
def execDropsItsCopy (die line : Nat) (s : State) : Out := .next (s.dropLine die line)

/-! ### Moving a page (R224) -/

/-- Where the bytes of a page lie; none on another device, whose memory is not the package's. -/
def Leaf.base (l : Leaf) : Option Nat :=
  match l.tier with
  | 0 => some (l.frame * 4096)
  | 1 => some (l.frame * 4096)
  | 2 => some (hostKey (l.frame * 4096))
  | _ => none
/-- A leaf as an entry holds it (R215); the reserved bits are zero (R4). -/
def Leaf.entry (l : Leaf) : Nat :=
  let bit := fun (b : Bool) (i : Nat) => if b then 2 ^ i else 0
  3 + bit l.r 2 + bit l.w 3 + bit l.x 4 + bit l.sc 5 + l.tier % 4 * 2 ^ 6 + bit l.cmp 8 + bit l.mov 9 + l.frame % 2 ^ 40 * 2 ^ 12 +
    l.kid % 2 ^ 10 * 2 ^ 52 + l.size % 8 * 2 ^ 64 + l.node % 2 ^ 12 * 2 ^ 68
/-- The leaf with the place of another (step 4). -/
def Leaf.movedTo (l new : Leaf) : Leaf :=
  { l with frame := new.frame, tier := new.tier, node := new.node, cmp := new.cmp, mov := false }
/-- The front end writes a page-table entry, in clear as the walker reads it, at its home, which pushes it to the copies (R217, R380). -/
def State.putEntry (s : State) (entry : Nat) (l : Leaf) : State := (s.monitorAll entry 16 0 true).settleFree 0 0 entry (bytesOfNat 16 l.entry)
/-- It can: no marked line that it would merge into, and room for the pushes (R381, R421). -/
def State.entryReady (s : State) (entry : Nat) : Bool :=
  !s.blocked entry 16 && (match homeOf entry with
    | some h => s.roomX h 3
    | none => true)
/-- The TLB holds a copy of a leaf: the page at this address, or the same frame under another root. -/
def TlbEntry.copies (t : TlbEntry) (root va : Nat) (l : Leaf) : Bool :=
  (t.root == root && meets t.base (pageBytes t.leaf.size) va (pageBytes l.size)) ||
  (t.leaf.tier == l.tier && t.leaf.node == l.node && t.leaf.frame == l.frame && t.leaf.size == l.size)
/-- Every TLB copy of a leaf is shot down. -/
def State.shootDown (s : State) (root va : Nat) (l : Leaf) : State :=
  { s with tlb := s.tlb.filter fun t => !t.copies root va l, tlb2 := s.tlb2.filter fun t => !t.copies root va l }
/-- PAGE_MOVE: step 1. The leaf takes MOV; the place of the new leaf is what the front end will commit. -/
def execPageMove (root va lo hi : Nat) (s : State) : Out :=
  match walkGo s (va % 2 ^ 57) 4 root with
  | .fail _ => .next s
  | .poison => .next s
  | .leaf l entry =>
    let new := lo % 2 ^ 64 + hi % 2 ^ 64 * 2 ^ 64
    let size := pageBytes l.size
    if l.mov || !s.entryReady entry || !(entV new && entLeaf new && entSize new == l.size && (l.movedTo (leafOf new)).wellFormed) then .next s
    else
      let base := va - va % size
      let mv : PageMove := ⟨root, base, entry, size, l.entry, BitVec.ofNat 64 lo, BitVec.ofNat 64 hi, 0, []⟩
      .next (({ s with moves := s.moves ++ [mv] }.putEntry entry { l with mov := true }).shootDown root base l)

/-- Every write translated before has performed, and nothing about the two places is under way (step 2). -/
def State.moveReady (s : State) (mv : PageMove) (src dst : Option Nat) : Bool :=
  let quiet := fun (k : Option Nat) => match k with
    | none => !(s.posted.any fun p => p.rd == 0 && p.bad.isNone && p.tag.isSome && meets p.va.toNat p.size mv.va mv.size)
    | some b => !(s.posted.any fun p => p.rd == 0 && p.bad.isNone && p.overlaps b mv.size) &&
        !(s.xmsgs.any fun m => match m.kind with
          | .push key _ bs _ _ => meets key bs.length b mv.size
          | .fetch line _ _ => meets (line * 128) 128 b mv.size
          | _ => false)
  quiet src && quiet dst
/-- The 64-byte lines of a range that hold anything, or a mark. -/
def State.usedLines (s : State) (base size : Nat) : List Nat :=
  ((s.mem.filterMap fun (c : Nat × Byte) => if base ≤ c.1 ∧ c.1 < base + size then some (c.1 / 64) else none) ++
   (s.lineKeys.filterMap fun (c : Nat × Nat) => if base ≤ c.1 * 16 ∧ c.1 * 16 < base + size then some (c.1 / 4) else none) ++
   s.poison.filterMap fun u =>
     let ln := if 2 ^ 60 ≤ u then u - 2 ^ 60 else u / 8
     if base ≤ ln * 64 ∧ ln * 64 < base + size then some ln else none).dedup
/-- The key generation that a page's bytes are stored under at a place; host memory has none. -/
def State.genAt (s : State) (l : Leaf) : Nat := if l.tier ≤ 1 then s.kidGen l.kid else 0
/-- The page's bytes and error marks at its new place (step 3). -/
def State.copyPage (s : State) (src dst size gen gen' : Nat) : State :=
  let s1 := (s.dropRange dst size).zeroRange dst size
  (s.usedLines src size).foldl (fun t ln =>
    let bs := (List.range 64).map fun i => s.plain gen (ln * 64 + i)
    let key := dst + (ln * 64 - src)
    let t := t.storeBytes gen' key bs
    (List.range 8).foldl (fun t i => if s.poisoned (ln * 64 + 8 * i) 8 then t.setMark (key + 8 * i) else t) t) s1
/-- The place takes a page's bytes. -/
def State.takePage (s : State) (dst size gen : Nat) (bs : List Byte) : State :=
  ((s.dropRange dst size).zeroRange dst size).storeBytes gen dst bs
/-- The partition whose page tables a root names. -/
def State.partOfRoot (s : State) (root : Nat) : Nat :=
  ((List.range s.parts.length).find? fun p => (s.part p).valid && (List.range (s.part p).qCount).any fun i =>
    (s.queue ((s.part p).qFirst + i)).root.toNat == root).getD 0
/-- The page is asked for at the device that holds it, line by line (R389). -/
def State.askPage (s : State) (mv : PageMove) (l : Leaf) : State × List Nat :=
  (List.range (mv.size / 128)).foldl (fun r i =>
    (r.1.remoteRead none none none 0 (BitVec.ofNat 64 (mv.va + 128 * i)) l.node (l.frame * 4096 + 128 * i) 128 (s.partOfRoot mv.root),
      r.2 ++ [r.1.newTag.1])) (s, [])
/-- The page is written to the device that is to hold it. -/
def State.sendPage (s : State) (mv : PageMove) (l : Leaf) (bs : List Byte) : State × List Nat :=
  (List.range (mv.size / 128)).foldl (fun r i =>
    let (tag, t) := r.1.newTag
    let pa := l.frame * 4096 + 128 * i
    (t.request ⟨tag, none, none, 0, BitVec.ofNat 64 (mv.va + 128 * i), 128, none, none⟩ l.node (pa / 128)
      { flitBlank 2 1 with addr := pa, srcPart := s.partOfRoot mv.root, mask := BitVec.allOnes 128, data := (bs.drop (128 * i)).take 128 },
      r.2 ++ [tag])) (s, [])
/-- What the device has answered: a line that it has refused is not the package's to know (DESIGN CHOICE, log 54). -/
def State.askedPage (s : State) (tags : List Nat) : List Byte :=
  (tags.zipIdx.map fun t => match (s.txns.find? (·.tag == t.1)).bind (·.resp) with
    | some (0, bs) => bs
    | _ => (List.range 128).map fun i => (Config.freeWord (s.free + 128 * t.2 + i)).setWidth 8).flatten
/-- No answer is outstanding. -/
def State.pageAnswered (s : State) (tags : List Nat) : Bool := s.txns.all fun t => !tags.contains t.tag || t.resp.isSome
/-- Steps 4 and 5: the leaf is rewritten, and stale copies of it are shot down. -/
def State.commitMove (s : State) (k : Nat) (mv : PageMove) (old new : Leaf) : State :=
  ({ s with moves := s.moves.eraseIdx k, txns := s.txns.filter fun t => !mv.tags.contains t.tag }.putEntry mv.entry new).shootDown mv.root mv.va old
/-- The copy goes on with a device's transactions. -/
def State.moveOn (s : State) (k stage : Nat) (mv : PageMove) (r : State × List Nat) : State :=
  { r.1 with
    moves := setAt s.moves k { mv with stage := stage, tags := r.2 }
    txns := r.1.txns.filter fun t => !mv.tags.contains t.tag }
/-- The bytes of a page of the package, to be sent on. -/
def State.pageBytesAt (s : State) (a size gen : Nat) : List Byte := (List.range size).map fun i => s.plain gen (a + i)
/-- What the copy reads and writes of the package's memory counts (R414). -/
def State.countMove (s : State) (mv : PageMove) (l : Leaf) (write : Bool) : State :=
  match l.base with
  | some a => if l.tier ≤ 1 then s.monitorAll a mv.size l.kid write else s
  | none => s
/-- PAGE_MOVE_COMMIT: steps 2 to 5. A page of another device is read, and one for another device written, by the flits of the link, in a step
each; the commit waits for their responses. A page with a marked line does not leave for another device (DESIGN CHOICE, log 54). -/
def execPageMoveCommit (k : Nat) (s : State) : Out :=
  match s.moves[k]? with
  | none => .next s
  | some mv =>
    let old := leafOf mv.src
    let new := old.movedTo (leafOf (mv.lo.toNat + mv.hi.toNat * 2 ^ 64))
    if !s.entryReady mv.entry then .next s
    else if mv.stage = 0 then
      if !s.moveReady mv old.base new.base then .next s
      else match old.base, new.base with
        | some a, some b =>
          .next ((((s.countMove mv old false).countMove mv new true).copyPage a b mv.size (s.genAt old) (s.genAt new)).commitMove k mv old new)
        | some a, none =>
          if s.poisoned a mv.size then .next s
          else .next (s.moveOn k 2 mv ((s.countMove mv old false).sendPage mv new (s.pageBytesAt a mv.size (s.genAt old))))
        | none, _ => .next (s.moveOn k 1 mv (s.askPage mv old))
    else if !s.pageAnswered mv.tags then .next s
    else if mv.stage = 1 then
      let bs := s.askedPage mv.tags
      let s := { s with free := s.free + mv.size }
      match new.base with
      | some b => .next (((s.countMove mv new true).takePage b mv.size (s.genAt new) bs).commitMove k mv old new)
      | none => .next (s.moveOn k 2 mv (s.sendPage mv new bs))
    else .next (s.commitMove k mv old new)

end Sys2Proof.Machine
end

