-- ==== Sys2Proof/Machine/FaultOps.lean ====
section
/-! DEFINITION. `frec` and `drnwait`, opcodes 0xE2 and 0xE3 (spec/20_faults_and_preemption.md R371-R374). -/

namespace Sys2Proof.Machine

/-- The record that `frec` reads: the thread's last, or with `.eng` the mill's last engine record (R352). -/
def Ctx.lastRecord (x : Ctx) (l : Nat) : FaultRec :=
  if x.f.mod.getLsbD 2 then (match x.mill? with
    | some m => m.lastEng
    | none => FaultRec.zero)
  else (x.thread l).lastRec
/-- Sixteen bytes of a record as four registers (R373). -/
def recordWords (r : FaultRec) (sel : Nat) : List Word :=
  (List.range 4).map fun i => BitVec.ofNat 32 (natOfBytes ((r.bytes.drop (16 * sel + 4 * i)).take 4))
def execFrec (f : Fields) (s : State) : Out :=
  issue 0xE2 (fun _ _ => { d := .quad })
    (fun x => eachLong x fun l => (recordWords (x.lastRecord l) (x.f.mod.toNat % 4), 0)) f s

/-- The wheel waits until the drain counter is at most the limit (R374). -/
def execDrnwait (f : Fields) (s : State) : Out :=
  issue 0xE3 (fun _ _ => { d := .word, a := .word })
    (fun x =>
      let n := match x.a.mill with
        | some uid => x.s0.drainOf uid
        | none => 0
      if n > (x.w x.lowest .A).toNat then .wait x.s0 x.lowest .stall true []
      else eachWrite x fun _ => ([BitVec.ofNat 32 n], 0)) f s

end Sys2Proof.Machine
end

