-- ==== Sys2Proof/Machine/Header.lean ====
section
/-! DEFINITION. The clause header: what a thread meets there, the WAIT mask, and the clause it opens
(spec/02_sequential_machine.md R21-R25; spec/20 R353, R361, R369). -/

namespace Sys2Proof.Machine

/-- How a lane stands at a header: in a clause that should not hold one (R25), due to enter the save vector (R361), to stop for a
debugger (R369), to take a posted fault (R353); before a malformed header (R21), or ready to open the clause. -/
inductive HeaderCheck where
  | inside | save | halt | posted | malformed | go
  deriving DecidableEq, Repr

/-- A save has not yet reached the thread. -/
def State.saveDue (s : State) (a : Agent) (lane : Nat) : Bool :=
  match s.saving a with
  | some q => !q.frozen && (s.thread a lane).saveDepth.isNone
  | none => false
/-- A posted fault is due: one that was recorded while the mill was evicted waits for the `rfe` of the restore vector (R353). -/
def Thread.postedDue (t : Thread) : Bool :=
  match t.posted with
  | [] => false
  | p :: _ => !(p.written && t.restAt.isSome)
/-- A malformed header faults before its WAIT flags count (DEDUCED, log 39). -/
def State.headerCheck (s : State) (a : Agent) (h : Header) (lane : Nat) : HeaderCheck :=
  let t := s.thread a lane
  if t.clause.isSome then .inside
  else if s.saveDue a lane then .save
  else if t.haltDue then .halt
  else if t.postedDue then .posted
  else if !h.ok then .malformed
  else .go

/-- The thread takes its first posted fault; the record counts when the fault is taken, unless it was written on arrival. -/
def State.takePosted (s : State) (a : Agent) (lane : Nat) : State :=
  let t := s.thread a lane
  match t.posted with
  | [] => s
  | p :: l =>
    let r := if p.written then p.fr else { p.fr with seq := BitVec.ofNat 64 (t.recCount + 1) }
    (s.modThread a lane fun t => { t with posted := l }).takeTrap a lane ⟨r, t.pc, none, !p.written⟩

/-- The clause opens (R21, R22). -/
def Thread.openClause (t : Thread) (h : Header) : Thread :=
  { t.settle with
    clause := some ⟨t.pc, 0, h.count.toNat, h.set0, h.set1, false⟩
    pc := t.pc + 8 }
/-- The lanes open the clause together once every flag of WAIT is clear in each of them (R22, R155). -/
def State.openClauses (s : State) (a : Agent) (h : Header) (lanes : List Nat) : State :=
  if lanes.any fun l => (s.thread a l).waits h.wait then s
  else lanes.foldl (fun s l => s.modThread a l fun t =>
    match a with
    | .fe _ => t.openClause h
    | _ => (t.remember [(t.pc, (encodeHeader h).setWidth 64)]).openClause h) s

/-- CLAUSE_HEADER. -/
def execClauseHeader (h : Header) (st : State) : Out :=
  let a := st.cur
  if (st.threads a).isEmpty then .fault .noAgent
  else
    let s := st.leaveBuffers a
    match s.group a with
    | [] => .next s
    | l0 :: rest =>
      let group := l0 :: rest
      let pc := (s.thread a l0).pc
      let sel := fun (k : HeaderCheck) => group.filter fun l => s.headerCheck a h l == k
      let traps := (sel .inside).map (fun l => (l, ({ cls := 4, sub := 3 } : FaultInfo), (none : Option (BitVec 32)))) ++
        (sel .malformed).map fun l => (l, { cls := 1, sub := 2 }, none)
      let s1 := (sel .save).foldl (fun s l => s.saveEntry a l) (s.takeTraps a pc traps)
      let s1 := (sel .halt).foldl (fun s l => s.haltLane a l) s1
      let s1 := (sel .posted).foldl (fun s l => s.takePosted a l) s1
      .next (((s1.openClauses a h (sel .go)).releaseSync a).releaseClaims a)

end Sys2Proof.Machine
end

