-- ==== Sys2Proof/Machine/Host.lean ====
section
/-! DEFINITION. The front end's events and the host's commands (spec/24_front_end_and_trust.md R395-R401, R404, R405, R412, R413,
R436; spec/08 R165-R167; spec/10 R219). -/

namespace Sys2Proof.Machine

/-! ### Doorbells and front-end cores (R397, R401) -/

/-- DOORBELL: TAIL is stored and the queue's wake bit set; while it was clear a wake event is queued. A gated package starts to wake.
-/
def execDoorbell (q tail : Nat) (s : State) : Out :=
  if !s.board.power || (s.partOfQueue q).isNone then .next s
  else
    let s1 := s.modQueue q fun x => { x with tail := tail % 2 ^ 32 }
    .next { s1 with
      wake := insertNat q s.wake
      evq := if s.wake.contains q then s.evq else s.evq ++ [.doorbell q]
      board := { s.board with waking := s.board.waking || s.board.gated } }

/-- The queue whose lock an event carries. -/
def State.lockOf (s : State) (e : FeEvent) : Option Nat :=
  match e with
  | .doorbell q => some q
  | .escalated q _ _ => some q
  | .gridDone c => (s.cmd? c).map (·.queue)
  | .cmdDone c => (s.cmd? c).map (·.queue)
  | .faultReq _ q => q
  | _ => none
/-- A core's run holds the lock until it ends. -/
def State.locked (s : State) (q : Nat) : Bool :=
  s.fe.any fun c => c.run.isSome && c.lock == some q
/-- The oldest event of the queue whose ordering lock is free; what comes while its 4,096 entries are in use waits for one
(DESIGN CHOICE, log 54). -/
def State.nextEvent (s : State) : Option FeEvent :=
  (s.evq.take Config.eventQueue).find? fun e => match s.lockOf e with
    | some q => !s.locked q
    | none => true
/-- An instruction in flight whose results nobody will take (R108). -/
def LongOp.discarded (o : LongOp) : LongOp := { o with flag := none, writes := [], touch := [], flags := 0 }
/-- A run starts on a core, at a multiple of 4 (R13): `xroot` and `xkey` read 0 (R34), what the run before left in flight is discarded as it completes (R108), and
the other registers are as that run left them (DESIGN CHOICE, log 4). -/
def Thread.startRun (t : Thread) (pc : DWord) : Thread :=
  { t with
    pc := pc &&& ~~~3, clause := none, exited := false, stopped := false, entryDue := true
    long := t.long.map LongOp.discarded
    sys := { t.sys with xroot := 0, xkey := 0 } }

/-- Commands of the queue that have started and are not complete. -/
def State.openCmds (s : State) (q : Nat) : List Cmd := s.cmds.filter fun c => c.queue == q && !c.done
/-- A queue whose enable bit is clear stops once its started commands are complete (R400). -/
def State.settleDisable (s : State) (q : Nat) : State :=
  let x := s.queue q
  if x.state = 2 ∨ x.ctrl.getLsbD 0 ∨ !(s.openCmds q).isEmpty then s
  else (s.modQueue q fun x => { x with state := 2 }).putStatus q 0x08 (bytesOfNat 4 2)
/-- A command completes, which is an event of the front end too (R401). -/
def State.endCmd (s : State) (uid : Nat) : State :=
  match s.cmd? uid with
  | none => s
  | some c =>
    let s := (s.completeCmd uid).settleDisable c.queue
    { s with evq := s.evq ++ [.cmdDone uid] }
/-- A LAUNCH completes with the last grid of its spawn tree (R167). -/
def State.endTree (s : State) (uid : Nat) : State :=
  match s.cmd? uid with
  | none => s
  | some c => if c.tree = 0 && !c.done then s.endCmd uid else s

/-- TAIL is read; one too far ahead of HEAD is an error (R397). -/
def State.takeDoorbell (s : State) (q : Nat) : State :=
  let x := s.queue q
  let s := { s.modQueue q fun x => { x with seen := x.tail } with wake := s.wake.filter (· != q) }
  if (x.tail + 2 ^ 32 - x.head) % 2 ^ 32 > 2 ^ x.logsz - 1 then s.queueError q 0 (FaultRec.simple 0x14 0) else s
/-- What the front end does with an event on the host's behalf. -/
def State.serveEvent (s : State) (e : FeEvent) : State :=
  match e with
  | .doorbell q => s.takeDoorbell q
  | .gridDone c => s.endTree c
  | .escalated q seq r => if (s.partOfQueue q).isNone then s else s.queueError q seq r
  | _ => s
/-- FRONT_END_EVENT: an idle core takes the oldest event whose lock is free, and its run starts. -/
def execFrontEndEvent (core : Nat) (s : State) : Out :=
  if !s.board.up || s.board.gated || core ≥ Config.nFeCores || !(s.thread (.fe core) 0).exited then .next s
  else match s.nextEvent with
    | none => .next s
    | some e =>
      let s1 := { s with evq := s.evq.erase e }
      .next ((s1.serveEvent e).modFe core fun c => { c with run := some e, lock := s.lockOf e, thread := c.thread.startRun (Config.feEntry core) })

/-! ### Commands (R398, R399) -/

/-- The command at HEAD, in the queue's ring in host memory. -/
def State.readCmd (s : State) (q : Nat) : Cmd :=
  let x := s.queue q
  let bs := memGetList s.mem (hostKey (x.base.toNat + 64 * (x.head % 2 ^ x.logsz))) 64
  { uid := s.fresh, queue := q, opcode := fieldU bs 0 1, flags := BitVec.ofNat 8 (fieldU bs 1 1), seq := BitVec.ofNat 32 (fieldU bs 4 4)
    args := (List.range 3).map fun i => BitVec.ofNat 64 (fieldU bs (8 + 8 * i) 8)
    tree := 0, done := false, err := none, phase := 0, old := false, names := none, body := [] }
/-- SERIAL (R398). -/
def Cmd.serial (c : Cmd) : Bool := c.flags.getLsbD 1
/-- A started command that holds the next one back (R399). -/
def Cmd.blocks (c : Cmd) : Bool := !c.done && (c.opcode != 1 || c.serial)
/-- The front end may start the command at HEAD: the queue runs and holds one, and nothing started holds it back. -/
def State.mayStart (s : State) (q : Nat) : Bool :=
  let x := s.queue q
  s.board.up && !s.board.gated && x.state == 0 && x.ctrl.getLsbD 0 && x.head != x.seen && !(s.openCmds q).any Cmd.blocks &&
    !s.evq.any fun e => match e with
      | .escalated p _ _ => p == q
      | _ => false
def Cmd.arg (c : Cmd) (i : Nat) : DWord := c.args.getD i 0

/-- The command at HEAD starts: HEAD moves past it. -/
def State.startCmd (s : State) (c : Cmd) : State :=
  let h := ((s.queue c.queue).head + 1) % 2 ^ 32
  ({ s.modQueue c.queue fun x => { x with head := h, refused := [] } with
     cmds := s.cmds ++ [{ c with uid := s.fresh }], fresh := s.fresh + 1 }).putStatus c.queue 0 (bytesOfNat 4 h)
/-- A started command fails: it is over, and the queue is in error (R400). -/
def State.failStarted (s : State) (uid : Nat) (c : Cmd) (r : FaultRec) : State :=
  ((s.modCmd uid fun c => { c with done := true, err := some r }).queueError c.queue c.seq r).settleDisable c.queue
def cmdRec (fi : FaultInfo) : FaultRec :=
  { FaultRec.simple fi.cls fi.sub with va := fi.va, access := fi.access }
/-- The command at HEAD fails. -/
def State.failCmd (s : State) (c : Cmd) (fi : FaultInfo) : State := (s.startCmd c).failStarted s.fresh c (cmdRec fi)
/-- Why the command at HEAD does not start: a fault fails it, anything else waits. -/
def State.notYet (s : State) (c : Cmd) (e : AErr) : State :=
  match e with
  | .fault fi => s.failCmd c fi
  | e => s.stallOn (cmdAgent c.queue) 0 e

/-- Run the command at HEAD when it is the one of an event's row; an OPCODE not listed fails (R398). `again` continues a
command of that row that has started. -/
def command (op q : Nat) (start : Nat → Cmd → State → State) (again : Nat → Cmd → State → State) (s : State) : Out :=
  match s.partOfQueue q with
  | none => .next s
  | some p =>
    match (s.openCmds q).find? fun c => c.opcode == op && (op != 1) with
    | some c => .next (again p c s)
    | none =>
      if !s.mayStart q then .next s
      else
        let c := s.readCmd q
        if c.opcode = 0 ∨ c.opcode > 7 then .next (s.failCmd c { cls := 1, sub := 0 })
        else if c.opcode ≠ op then .next s
        else .next (start p c s)

/-! ### Memory of commands (R436) -/

/-- The pieces of a command's access; `space` may narrow the key-IDs. -/
def State.cmdPieces (s : State) (q : Nat) (spc : AddrSpace) (k : AccKind) (va : DWord) (n : Nat) : Except AErr (List Piece) :=
  if n = 0 then .ok []
  else if !vaOk va then .error (.fault (accFault 9 1 va k .glob n))
  else s.globalPieces spc k (s.queue q).refused va.toNat n
/-- The lines that a command's read of memory brings count (R414). -/
def State.countCmd (s : State) (p q : Nat) (va : DWord) (n : Nat) : State :=
  match s.cmdPieces q (s.cmdSpace p q) .load va n with
  | .ok ps => s.countReads ps
  | .error _ => s
/-- What a command reads, at package scope. -/
def State.cmdRead (s : State) (p q : Nat) (va : DWord) (n : Nat) : Except AErr (List Byte) := do
  let ps ← s.cmdPieces q (s.cmdSpace p q) .load va n
  s.readAll (cmdAgent q) 0 .load .glob va n ps
/-- Post what a command writes; it performs at once where it can. -/
def State.cmdWrite (s : State) (q : Nat) (va : DWord) (ps : List Piece) (g : Nat) (bs : List Byte) : State :=
  let s1 := s.postBytes (s.postInfo (cmdAgent q) 0 0 .st (accessField .store .glob 8)) va.toNat g ps bs
  (s1.posted.filter fun p => decide (s.fresh ≤ p.id)).foldl (fun s p => s.performId p.id) s1
/-- A command's writes: none still waiting, the cause of one that failed. -/
def State.cmdBad (s : State) (q : Nat) : Option Posted := s.posted.find? fun p => p.owner == cmdAgent q && p.bad.isSome
def State.cmdWaits (s : State) (q : Nat) : Bool := s.posted.any fun p => p.owner == cmdAgent q
/-- A command whose writes are out completes when they have performed; one that failed fails it (DEDUCED, log 42). -/
def State.finishWrites (s : State) (c : Cmd) : State :=
  match s.cmdBad c.queue with
  | some p =>
    { s with posted := s.posted.filter fun x => x.owner != cmdAgent c.queue }.failStarted c.uid c
      (cmdRec { cls := 0x18, sub := p.bad.getD 0, va := p.va, access := p.access })
  | none => if s.cmdWaits c.queue then s else s.endCmd c.uid

/-! ### LAUNCH (R165) -/

/-- LAUNCH: the seed grid is enqueued. While the launch queue is full the command stays at HEAD, its record unread (DEDUCED, log 53). -/
def execLaunch (q : Nat) (s : State) : Out :=
  command 1 q (fun p c s =>
    if s.launchFull p then s
    else match s.readLaunch p true (fun va n => s.cmdRead p q va n) (c.arg 0) with
      | .ok e =>
        let t := e.reads (c.arg 0) |>.foldl (fun t r => t.countCmd p q r.1 r.2) s
        (t.startCmd c).enqueue p q s.fresh true e
      | .error e => s.notYet c e) (fun _ _ s => s) s

/-! ### SIGNAL, WAITTL (R398, R399, R436) -/

/-- The command that ARG2 of a SIGNAL names as it starts: the most recently started of the queue since its restart. -/
def State.signalled (s : State) (c : Cmd) : Option Nat :=
  (s.cmds.filter fun x => x.queue == c.queue && !x.old && x.seq == (c.arg 2).setWidth 32).getLast?.map (·.uid)
/-- The command that a SIGNAL names is complete, as none is that it does not name. -/
def State.signalReady (s : State) (c : Cmd) : Bool :=
  match c.names.bind s.cmd? with
  | some x => x.done
  | none => true
/-- The word's address is a multiple of 8. -/
def wordAligned (va : DWord) (k : AccKind) : Except AErr Unit :=
  if va.toNat % 8 != 0 then .error (.fault (accFault 0x0A 0 va k .glob 8)) else .ok ()
/-- A started SIGNAL: its value is written once the command that it names is complete, and it completes with that write. -/
def State.stepSignal (s : State) (p : Nat) (c : Cmd) : State :=
  if c.phase ≠ 0 then s.finishWrites c
  else if !s.signalReady c then s
  else match (do wordAligned (c.arg 0) .store; s.cmdPieces c.queue (s.cmdSpace p c.queue) .store (c.arg 0) 8) with
    | .error (.fault fi) => s.failStarted c.uid c (cmdRec fi)
    | .error e => s.stallOn (cmdAgent c.queue) 0 e
    | .ok ps =>
      ((s.modCmd c.uid fun c => { c with phase := 1 }).cmdWrite c.queue (c.arg 0) ps 8 (bytesOfNat 8 (c.arg 1).toNat)).finishWrites c
def execSignal (q : Nat) (s : State) : Out :=
  command 2 q (fun p c s =>
    let c := { c with names := s.signalled c }
    (s.startCmd c).stepSignal p { c with uid := s.fresh }) (fun p c s => s.stepSignal p c) s

/-- WAITTL starts: the front end watches its word. -/
def execWaittl (q : Nat) (s : State) : Out :=
  command 3 q (fun p c s =>
    match (do wordAligned (c.arg 0) .load; s.cmdPieces q (s.cmdSpace p q) .load (c.arg 0) 8) with
    | .error e => s.notYet c e
    | .ok _ => { s.startCmd c with waitTl := s.waitTl ++ [(q, c.arg 0, c.arg 1)] }) (fun _ _ s => s) s
/-- The response to a command's read of another device, when it was refused (R386). -/
def State.cmdRefused (s : State) (q : Nat) : Option Nat :=
  s.txns.findSome? fun t => match t.owner, t.resp with
    | some (a, _), some (st, _) => if a == cmdAgent q && st != 0 then some (causeOf st) else none
    | _, _ => none
/-- WAITTL_SATISFIED: the word is read at system scope; at the value, the command completes. -/
def execWaittlSatisfied (q : Nat) (s : State) : Out :=
  match s.partOfQueue q, s.waitTl.find? (·.1 == q), (s.openCmds q).find? (·.opcode == 3) with
  | some p, some w, some c =>
    let past := fun (s : State) => { s with
      waitTl := s.waitTl.filter (·.1 != q)
      txns := s.txns.filter fun t => !(match t.owner with
        | some (a, _) => a == cmdAgent q
        | none => false) }
    match s.cmdRefused q with
    | some k => .next ((past s).failStarted c.uid c (cmdRec { cls := 0x18, sub := k, va := w.2.1 }))
    | none =>
      match s.cmdRead p q w.2.1 8 with
      | .error (.fault fi) => .next ((past s).failStarted c.uid c (cmdRec fi))
      | .error e => .next (s.stallOn (cmdAgent q) 0 e)
      | .ok bs =>
        let t := s.countCmd p q w.2.1 8
        if natOfBytes bs ≥ w.2.2.toNat then .next ((past t).endCmd c.uid)
        else .next { past t with waitTl := s.waitTl }
  | _, _, _ => .next s

/-! ### ENGAGE, RELEASE (R412, R413) -/

/-- Key-IDs of a partition that no engagement holds. -/
def Partition.freeKids (p : Partition) : List Nat :=
  ((List.range p.keyCount).map fun i => p.keyFirst + i).filter fun k => !p.engs.any fun e => e.kids.contains k
/-- The engagement opens: each key-ID takes a key that has never been in use. -/
def State.openEng (s : State) (p num : Nat) (kids : List Nat) : State :=
  let s := kids.foldl (fun s k => { s with kidGens := sput 0 s.kidGens k (s.trust.keyGens + 1), trust := { s.trust with keyGens := s.trust.keyGens + 1 } }) s
  s.modPart p fun q => { q with engs := q.engs ++ [⟨num, kids, [], [], [], [], [], 0⟩] }
/-- ENGAGE: the engagement opens with the lowest free key-IDs (DESIGN CHOICE, log 43). -/
def execEngage (q : Nat) (s : State) : Out :=
  command 4 q (fun p c s =>
    let num := (c.arg 0).toNat
    let n := (c.arg 1).toNat
    let free := (s.part p).freeKids
    if (s.engOf p num).isSome || num > 65535 || n == 0 || n > 16 || n > free.length then s.failCmd c { cls := 0x14, sub := 5 }
    else ((s.startCmd c).openEng p num (free.take n)).endCmd s.fresh) (fun _ _ s => s) s

/-- The receipt's length: 0x90 bytes and the signature. -/
def receiptBytes : Nat := 0x90 + 2692
/-- The signed part of a receipt (R413). How many cache lines were written back, and how the list of ranges is written for its hash,
the spec does not give. -/
def receiptHead (identity : Nat) (e : Engagement) (x : Scrubbed) (lines : DWord) : List Byte :=
  let tier := fun (t : Nat) => (x.frames.filter fun f => f.1 == t).length
  [0x53, 0x52, 0x43, 0x31] ++ bytesOfNat 4 e.num ++ bytesOfNat 8 identity ++
  ([e.pools.length, e.pads.length, e.granules.length, lines.toNat, tier 0, tier 1, e.spills.length, e.saves.length].map (bytesOfNat 8)).flatten ++
  bytesOfNat 32 (Config.shake256 (Config.rangeList x.ranges)).toNat ++ bytesOfNat 32 e.logHead.toNat
/-- The buffer's pages carry no key-ID of the engagement (R436). -/
def State.receiptSpace (s : State) (p q : Nat) (e : Engagement) : AddrSpace :=
  { s.cmdSpace p q with kids := some (((List.range (s.part p).keyCount).map fun i => (s.part p).keyFirst + i).filter fun k => !e.kids.contains k) }
/-- Steps 2 to 4, once every mill has drained; the receipt is made, signed by the key whose certification it names. -/
def State.releaseEng (s : State) (p : Nat) (c : Cmd) (e : Engagement) : State :=
  let s := s.modPart p fun x => x.logRelease e.kids
  let e := (s.engOf p e.num).getD e
  let x := s.scrubList p e
  let s := s.scrubEng p c.queue e
  let (lines, s) := s.choose
  if (c.arg 2).toNat < receiptBytes then s.modCmd c.uid fun c => { c with phase := 1 }
  else
    let t := s.trust.ready
    let head := receiptHead t.attCert e x lines
    let (sig, t) := t.sign head
    let (n, s) := s.choose
    let sig := match sig with
      | some bs => fitBytes 2692 bs
      | none => Config.noSignature n.toNat 2692
    { s with trust := t }.modCmd c.uid fun c => { c with phase := 1, body := head ++ sig }
/-- The bytes that a started command holds are written to its buffer: a page that is not there is resolved through the host driver, and
another failure fails the command (R436). -/
def State.writeBody (s : State) (p : Nat) (c : Cmd) (va : DWord) (n : Nat) : State :=
  match s.cmdPieces c.queue (s.cmdSpace p c.queue) .store va n with
  | .error (.fault fi) => s.failStarted c.uid c (cmdRec fi)
  | .error err => s.stallOn (cmdAgent c.queue) 0 err
  | .ok ps =>
    (s.cmdWrite c.queue va ps 8 (c.body.take n)).modCmd c.uid fun c => { c with phase := 2, body := [] }
/-- RELEASE continues: it waits for the mills, then scrubs, then writes its receipt, then completes. An engagement that another RELEASE has
ended meanwhile is not open (R413). Zeros on their way to another device are acknowledged before the receipt (DEDUCED, log 44). -/
def State.stepRelease (s : State) (p : Nat) (c : Cmd) : State :=
  match c.phase with
  | 0 => match s.engOf p (c.arg 0).toNat with
    | none => s.failStarted c.uid c (FaultRec.simple 0x14 5)
    | some e => if s.grids.any fun g => g.part == p && g.lr.eng == e.num then s else s.releaseEng p c e
  | 1 =>
    if (s.cmdBad c.queue).isSome then s.finishWrites c
    else if s.cmdWaits c.queue then s
    else if (c.arg 2).toNat < receiptBytes then s.failStarted c.uid c (FaultRec.simple 0x16 1)
    else s.writeBody p c (c.arg 1) receiptBytes
  | _ => s.finishWrites c
def execRelease (q : Nat) (s : State) : Out :=
  command 5 q (fun p c s =>
    match s.engOf p (c.arg 0).toNat with
    | none => s.failCmd c { cls := 0x14, sub := 5 }
    | some e =>
      match s.cmdPieces q (s.receiptSpace p q e) .store (c.arg 1) (min (c.arg 2).toNat receiptBytes) with
      | .error err => s.notYet c err
      | .ok _ =>
        let s1 := s.startCmd c
        (s1.grids.filter fun g => g.part == p && g.lr.eng == e.num).foldl (fun s g => s.abortGrid g.uid) s1)
    (fun p c s => s.stepRelease p c) s

/-! ### SNAPSHOT, FLUSH -/

/-- SNAPSHOT continues once every block has latched: what fits of the image is written whole entries at a time, ARG0 its address and ARG1 its
size (DEDUCED, log 14). -/
def State.stepSnapshot (s : State) (p : Nat) (c : Cmd) : State :=
  match c.phase with
  | 0 => s
  | 1 =>
    let n := min c.body.length ((c.arg 1).toNat / 64 * 64)
    let s := if n < c.body.length then s.modCmd c.uid fun c => { c with err := some (FaultRec.simple 0x16 0) } else s
    s.writeBody p c (c.arg 0) n
  | _ => s.finishWrites c
/-- SNAPSHOT: its trigger, and the image after the latch (R404). -/
def execSnapshot (q : Nat) (s : State) : Out :=
  command 6 q (fun _ c s => (s.startCmd c).latch.takeImages) (fun p c s => s.stepSnapshot p c) s

/-- FLUSH: no TLB holds the range any more (R219). -/
def execFlush (q : Nat) (s : State) : Out :=
  command 7 q (fun _ c s =>
    let root := (s.queue q).root.toNat
    let keep := fun (t : TlbEntry) => !(t.root == root && meets t.base (pageBytes t.leaf.size) (c.arg 0).toNat (c.arg 1).toNat)
    let s1 := s.startCmd c
    { s1 with tlb := s1.tlb.filter keep, tlb2 := s1.tlb2.filter keep }.endCmd s.fresh)
    (fun _ _ s => s) s

end Sys2Proof.Machine
end

