-- ==== Sys2Proof/Machine/Link.lean ====
section
/-! DEFINITION. Flits that arrive on a device-link port (spec/23_dies_and_devices.md R386-R391). -/

namespace Sys2Proof.Machine

/-! ### Receiving (R388, R390) -/

/-- The TYPE codes listed for a VC (R389). -/
def flitListed (f : Flit) : Bool :=
  match f.vc with
  | 0 => 1 ≤ f.typ && f.typ ≤ 3
  | 1 => 1 ≤ f.typ && f.typ ≤ 3
  | 2 => 1 ≤ f.typ && f.typ ≤ 2
  | 3 => 1 ≤ f.typ && f.typ ≤ 4
  | _ => false
/-- The flit is taken: listed, its CRC right, its sequence number the one expected. SEQ is compared whole, bits 15:12 included: the spec states
them 0 and gives a flit with others no fate (DESIGN CHOICE, log 41). -/
def LinkPort.takes (p : LinkPort) (f : Flit) : Bool :=
  flitListed f && f.crc == crc64 (flitBody f) && f.seq == p.rxNext
/-- A sequence number is covered by an ACK. -/
def ackCovers (ack seq : Nat) : Bool := decide ((ack + 4096 - seq) % 4096 < 2048)
/-- Credits that a CREDIT field returns. -/
def creditOf (c vc : Nat) : Nat := c / 16 ^ vc % 16
/-- What taking a flit does to the port: the next number is expected, what its ACK covers is released, which is progress, its
CREDITs count, and its own buffer will be freed. -/
def LinkPort.take (p : LinkPort) (f : Flit) : LinkPort :=
  let rest := p.unacked.filter fun x => !ackCovers f.ack x.seq
  { p with
    rxNext := (p.rxNext + 1) % 4096
    unacked := rest
    replays := if rest.length < p.unacked.length then 0 else p.replays
    credits := (List.range 4).map fun i => p.credits.getD i 0 + creditOf f.credit i
    freed := if f.vc < 3 then modAt p.freed f.vc (· + 1) else p.freed }
/-- Send what may go now. -/
def State.pumpPort (s : State) (i : Nat) : State := s.modPort i fun p => LinkPort.pump (p.sendQ.length + 1) p
/-- A NAK names the sequence expected (R390). -/
def State.sendNak (s : State) (i : Nat) : State := s.sendOn i { flitBlank 3 1 with nakSeq := (s.port i).rxNext }
/-- Buffers freed and not yet told go out with an IDLE (DESIGN CHOICE, log 21). -/
def State.tellCredits (s : State) (i : Nat) : State :=
  if (s.port i).freed.any (· != 0) then s.sendOn i (flitBlank 3 2) else s
/-- The dies have room for the pushes of what a flit writes (R381). -/
def State.roomLink (s : State) : Bool := (List.range 4).all fun d => s.roomX d 1024
/-- Receive a flit of the VC and TYPE of an event: a port that is down takes nothing; a flit that is not taken is dropped and
answered with a NAK. -/
def receive (vc typ : Nat) (act : State → Flit → State) (port : Nat) (f : Flit) (s : State) : State :=
  if port ≥ s.ports.length || (s.port port).st == 2 || f.vc != vc || f.typ != typ || !s.roomLink then s
  else if (s.port port).takes f then
    ((act ((s.modPort port fun p => p.take f).pumpPort port) f).tellCredits port)
  else s.sendNak port

/-! ### Requests (R386, R387, R391) -/

/-- The bytes lie in one line of memory that the device exports (R386, R389); DSTNODE is compared whole, bits 15:12 included (DESIGN CHOICE,
log 41). -/
def State.exported (s : State) (f : Flit) (n : Nat) : Bool :=
  f.dstNode == s.nodeId && f.addr % 128 + n ≤ 128 && (inHbm f.addr || inTier1 f.addr) && Config.exports f.addr
/-- The physical addresses of the inboxes (R391). -/
def inInbox (pa : Nat) : Bool := 0x40000000000 ≤ pa && pa < 0x50000000000
/-- The key-ID of an access from the link. -/
def inKid (pa : Nat) : Nat := Config.linkKid (pa / 64)
/-- LINK_READ: the bytes, at their offset in the line. -/
def State.serveRead (s : State) (f : Flit) : State :=
  let n := f.size + 1
  let answer := fun (s : State) st bs => s.respond f.srcNode (f.addr / 128) { flitBlank 1 1 with
    tag := f.tag, size := f.size, status := st
    data := List.replicate (f.addr % 128) 0 ++ bs ++ List.replicate (128 - f.addr % 128 - n) 0 }
  let zeros := List.replicate n (0 : Byte)
  if !s.exported f n then answer s 1 zeros
  else if s.markedAtHome f.addr n then answer s 2 zeros
  else answer (s.monitorAll f.addr n (inKid f.addr) false) 0
    (s.viewBytes ⟨none, none, none, none⟩ (inKid f.addr) f.addr n)
def execLinkRead (port : Nat) (f : Flit) (s : State) : Out := .next (receive 0 1 State.serveRead port f s)

/-- A memory-side operation of another device performs indivisibly: its old value and STATUS (R387). -/
def State.remoteOp (s : State) (f : Flit) (o : MemOp) : State × Nat × DWord :=
  let n := o.w / 8
  if !s.exported f n || f.addr % n != 0 then (s, 1, 0)
  else if s.markedAtHome f.addr n then (s, 2, 0)
  else
    let kid := inKid f.addr
    let rd := fun k => s.homeByte kid k
    let old := natOfBytes ((List.range n).map fun i => rd (f.addr + i))
    let s := s.monitorAll f.addr n kid (!o.quiet old)
    (if o.quiet old then s else s.settleFree (s.kidGen kid) kid f.addr (o.bytes rd f.addr), 0, BitVec.ofNat 64 old)
/-- OPC: the operation, and its width (R389). -/
def opcWidth (f : Flit) : Nat := if f.opc / 16 % 2 = 1 then 64 else 32
/-- The operations of R250: .add to .xch, .inc and .fadd, with .fadd of 32 bits only. -/
def opcOk (f : Flit) : Bool := decide (f.opc % 16 ≤ 9) || (f.opc % 16 == 10 && opcWidth f == 32)
def State.answerOld (s : State) (f : Flit) (st : Nat) (v : DWord) : State :=
  s.respond f.srcNode (f.addr / 128) { flitBlank 1 2 with tag := f.tag, status := st, opnd0 := v }
def State.serveAtomic (s : State) (f : Flit) : State :=
  if opcOk f then
    let r := s.remoteOp f ⟨f.opc % 16, opcWidth f, f.opnd0, 0⟩
    r.1.answerOld f r.2.1 r.2.2
  else s.answerOld f 1 0
def execLinkAtomic (port : Nat) (f : Flit) (s : State) : Out := .next (receive 0 2 State.serveAtomic port f s)
/-- CAS: compare OPND0, swap in OPND1. -/
def State.serveCas (s : State) (f : Flit) : State :=
  let r := s.remoteOp f ⟨11, opcWidth f, f.opnd1, f.opnd0⟩
  r.1.answerOld f r.2.1 r.2.2
def execLinkCas (port : Nat) (f : Flit) (s : State) : Out := .next (receive 0 3 State.serveCas port f s)

/-! ### Posted writes (R389, R391) -/

/-- The runs of bytes that a MASK enables: (offset in the line, bytes), by fuel. -/
def maskRuns : Nat → Nat → BitVec 128 → List Byte → List (Nat × List Byte)
  | 0, _, _, _ => []
  | fuel + 1, i, m, data =>
    if i ≥ 128 then []
    else if m.getLsbD i then
      let n := ((List.range (128 - i)).takeWhile fun k => m.getLsbD (i + k)).length
      (i, (data.drop i).take n) :: maskRuns fuel (i + n) m data
    else maskRuns fuel (i + 1) m data
/-- The oldest unretired spawned grid of a partition that has a mill of a rank (R391): an aborted one has those of the gangs it has placed. -/
def State.inboxGrid (s : State) (part rank : Nat) : Option Grid :=
  s.grids.find? fun g => g.part == part && !g.seed && decide (rank < (if g.dead then g.placed else g.lr.gangs) * g.lr.gang)
/-- A write to an inbox: the mill it is for and its place in the allocation, if it is accepted. -/
def State.inboxPlace (s : State) (f : Flit) : Option (Grid × Nat × Nat) :=
  let part := f.addr / 2 ^ 37 % 8
  let rank := f.addr / 2 ^ 21 % 2 ^ 16
  let line := f.addr % 2 ^ 21 / 128 * 128
  match s.inboxGrid part rank with
  | none => none
  | some g =>
    let top := (maskRuns 129 0 f.mask f.data).foldl (fun n r => max n (line + r.1 + r.2.length)) 0
    let bytes := (g.lr.scratch + g.lr.acc) * 1024
    if !Config.admits f.srcNode f.srcPart part || g.dead || top > bytes || f.addr % 2 ^ 21 ≥ bytes then none
    else some (g, rank, line)
/-- A write to memory: refused outside what is exported, or where it would cover part of a word with an error mark. -/
def State.writeStatus (s : State) (f : Flit) (runs : List (Nat × List Byte)) : Nat :=
  let line := f.addr / 128 * 128
  if !s.exported { f with addr := line } 128 then 1
  else if runs.any fun r => s.blocked (line + r.1) r.2.length then 2 else 0
def State.serveWrite (s : State) (f : Flit) : State :=
  let runs := maskRuns 129 0 f.mask f.data
  let line := f.addr / 128 * 128
  if inInbox f.addr then
    match s.inboxPlace f with
    | none => s.acknowledge f.srcNode f.tag 1
    | some (g, rank, base) =>
      let e : InWrite := ⟨s.fresh, g.uid, rank, runs.map fun r => (base + r.1, r.2), f.srcNode, f.tag⟩
      { s with inbox := s.inbox ++ [e], fresh := s.fresh + 1 }
  else
    let st := s.writeStatus f runs
    let kid := inKid line
    let count := fun (s : State) => [line, line + 64].foldl (fun s k =>
      if runs.any fun r => meets (line + r.1) r.2.length k 64 then s.monitorAll k 64 kid true else s) s
    (if st = 0 then runs.foldl (fun s r => s.settleFree (s.kidGen kid) kid (line + r.1) r.2) (count s) else s).acknowledge f.srcNode f.tag st
def execLinkWrite (port : Nat) (f : Flit) (s : State) : Out := .next (receive 2 1 State.serveWrite port f s)
/-- A reduction: the operations of `red`, which has no exchange (R250). -/
def State.serveReduction (s : State) (f : Flit) : State :=
  if opcOk f && f.opc % 16 != 8 then
    let r := s.remoteOp f ⟨f.opc % 16, opcWidth f, f.opnd0, 0⟩
    r.1.acknowledge f.srcNode f.tag r.2.1
  else s.acknowledge f.srcNode f.tag 1
def execLinkReduction (port : Nat) (f : Flit) (s : State) : Out := .next (receive 2 2 State.serveReduction port f s)

/-! ### Responses (R386, R389) -/

/-- A response: done, its access has performed and its bytes are there; else the access is at fault. -/
def State.answerTxn (s : State) (tag st : Nat) (bytes : Txn → List Byte) (returns : Bool) : State :=
  match s.txns.find? (·.tag == tag) with
  | none => s
  | some t =>
    if t.resp.isSome then s
    else if st != 0 then s.failTxn t st returns
    else
      let s := match t.posted with
        | some id => s.dropPosted id
        | none => s
      let rest := s.txns.filter (·.tag != tag)
      { s with txns := if returns then rest ++ [{ t with resp := some (0, bytes t) }] else rest }
def execLinkReadData (port : Nat) (f : Flit) (s : State) : Out :=
  .next (receive 1 1 (fun s f => s.answerTxn f.tag f.status (fun t => (f.data.drop (t.va.toNat % 128)).take t.size) true) port f s)
def execLinkOldValue (port : Nat) (f : Flit) (s : State) : Out :=
  .next (receive 1 2 (fun s f => s.answerTxn f.tag f.status (fun t => bytesOfNat t.size f.opnd0.toNat) true) port f s)
def execLinkAcknowledgement (port : Nat) (f : Flit) (s : State) : Out :=
  .next (receive 1 3 (fun s f => s.answerTxn f.tag f.status (fun _ => []) false) port f s)

/-! ### Link control (R390) -/

/-- Replay from a sequence number: what lies before it has arrived. After 16 replays without progress the port retrains. -/
def State.replay (s : State) (i seq : Nat) : State :=
  let p := s.port i
  let rest := p.unacked.filter fun x => !ackCovers (seq + 4095) x.seq
  let n := if rest.length < p.unacked.length then 1 else p.replays + 1
  let s := s.modPort i fun p => { p with unacked := rest, replays := n }
  if n ≥ 16 ∧ p.st = 0 then (s.modPort i fun p => { p with st := 1 }).sendOn i (flitBlank 3 3) else s
def execNak (port : Nat) (f : Flit) (s : State) : Out :=
  .next (receive 3 1 (fun s f => s.replay port f.nakSeq) port f s)
def execIdle (port : Nat) (f : Flit) (s : State) : Out := .next (receive 3 2 (fun s _ => s) port f s)
def execRetrainRequest (port : Nat) (f : Flit) (s : State) : Out :=
  .next (receive 3 3 (fun s _ => s.sendOn port (flitBlank 3 4)) port f s)
/-- A port that has trained carries on. -/
def State.portUp (s : State) (i : Nat) : State := (s.modPort i fun p => { p with st := 0, replays := 0 }).pumpPort i
def execRetrainAcknowledgement (port : Nat) (f : Flit) (s : State) : Out :=
  .next (receive 3 4 (fun s _ => if (s.port port).st = 1 then s.portUp port else s) port f s)
/-- CORRUPT_FLIT: dropped, and answered with a NAK. -/
def execCorruptFlit (port : Nat) (f : Flit) (s : State) : Out :=
  .next (if port ≥ s.ports.length || (s.port port).st == 2 || (s.port port).takes f then s else s.sendNak port)

/-- Traffic of a port that is down moves to another one, or its access fails with no answer (R390). -/
def State.moveFlit (s : State) (f : Flit) : State :=
  if f.vc = 3 then s
  else match s.portFor f.dstNode (f.addr / 128) with
    | some i => s.sendOn i f
    | none => match s.txns.find? (·.tag == f.tag) with
      | some t => if f.vc = 1 || t.resp.isSome then s else s.failTxn t 3 (f.vc == 0)
      | none => s
/-- PORT_RETRAIN: the port trains again, or is down for good. -/
def execPortRetrain (port : Nat) (ok : Bool) (s : State) : Out :=
  if (s.port port).st != 1 || port ≥ s.ports.length then .next s
  else if ok then .next (s.portUp port)
  else
    let p := s.port port
    let s := s.modPort port fun p => { p with st := 2, unacked := [], sendQ := [] }
    .next ((p.unacked ++ p.sendQ).foldl (fun s f => s.moveFlit f) { s with evq := s.evq ++ [.link port] })

end Sys2Proof.Machine
end

