-- ==== Sys2Proof/Machine/Perform.lean ====
section
/-! DEFINITION. What happens to work in flight: long-latency completion, accesses that perform, fence slots that complete, posted
faults that arrive, fault requests that are resolved (spec/02 R24; spec/11 R228-R235; spec/12 R245; spec/20 R353; spec/10 R221). -/

namespace Sys2Proof.Machine

/-- LONG_LATENCY_COMPLETE: one instruction of a thread, once its accesses can perform and its response is back (R24, R121). -/
def execLongLatencyComplete (a : Agent) (lane id : Nat) (s : State) : Out :=
  match (s.thread a lane).long.find? (·.id == id) with
  | none => .next s
  | some o => .next (s.completeLong a lane o)

/-! ### Accesses that perform (R228) -/

/-- The wider of two extents. -/
def wider (r : Option Scope) (sc : Scope) : Option Scope :=
  match r with
  | none => some sc
  | some x => if x.rank < sc.rank then some sc else some x
/-- A store has performed at a scope inside the die; what must come before it has performed there too (R230). One of an SC page performs
everywhere at once, at its home, where the reads of that page are made (R238). Fuel is the number of accesses. -/
def State.raise : Nat → State → Scope → Nat → State
  | 0, s, _, _ => s
  | n + 1, s, sc, id =>
    match s.posted? id with
    | none => s
    | some p =>
      if p.rd != 0 || p.red.isSome || p.sc then s.performId id
      else
        let s := (s.before p).foldl (fun s q => State.raise n s sc q.id) s
        { s.modPosted id fun p => p.seenAt (wider p.reach sc) (s.places + 1) with places := s.places + 1 }
/-- The mill of an inbox write is still to be placed (R391). -/
def State.toBePlaced (s : State) (e : InWrite) : Bool :=
  match s.grid? e.grid with
  | none => false
  | some g => !g.dead && s.gangs.any fun x => x.grid == e.grid && x.st == .unplaced && decide (x.num ≤ e.rank / max 1 g.lr.gang)
/-- The bytes of two inbox writes meet in one mill's scratchpad. -/
def InWrite.meetsIn (e d : InWrite) : Bool :=
  e.grid == d.grid && e.rank == d.rank && e.runs.any fun r => d.runs.any fun q => meets r.1 r.2.length q.1 q.2.length
/-- An inbox write performs, waits for its mill, or is refused where the mill is gone. Writes of one location perform in the order in which they
have come (R385). -/
def State.performIn (s : State) (e : InWrite) : State :=
  if (s.inbox.takeWhile fun d => d.id != e.id).any e.meetsIn then s
  else match s.inboxMill e with
  | some m => if m.takesIn || m.st == .freed then s.landOne e m else s
  | none =>
    if s.toBePlaced e then s
    else { s with inbox := s.inbox.filter (·.id != e.id) }.acknowledge e.node e.tag 1
/-- ACCESS_PERFORM: a store performs at a scope inside its die, or anything performs as far as it can from here. What is on the
link performs elsewhere; what has come from it performs in its mill (R392). -/
def execAccessPerform (id : Nat) (scope : Scope) (s : State) : Out :=
  match s.posted? id with
  | none => .next (match s.inbox.find? (·.id == id) with
    | some e => s.performIn e
    | none => s)
  | some p =>
    if p.tag.isSome || p.bad.isSome then .next s
    else if scope.rank < 3 then .next (s.raise (s.posted.length + 1) scope id)
    else .next (s.performId id)

/-- FENCE_SLOT_COMPLETE (R235, R245). -/
def execFenceSlotComplete (a : Agent) (slot : Nat) (s : State) : Out :=
  let fs := s.fences a
  match fs.slots.getD slot none with
  | none => .next s
  | some x => .next (if s.slotReady a x then (s.slotEnds a x).setFences a { fs with slots := setAt fs.slots slot none } else s)

/-! ### Posted faults (R353) -/

/-- The record of a failed access. -/
def State.postedRec (s : State) (p : Posted) (cause : Nat) : FaultRec :=
  s.mkRec p.owner p.lane { cls := 0x18, sub := cause, va := p.va, access := p.access, info0 := BitVec.ofNat 64 cause } p.pc 1
/-- The failure waits for the thread's next clause header. -/
def Thread.addPosted (t : Thread) (r : FaultRec) (written : Bool) : Thread :=
  if written then { t with posted := t.posted ++ [⟨r, true⟩], lastRec := r, recCount := t.recCount + 1 }
  else { t with posted := t.posted ++ [⟨r, false⟩] }
/-- A thread of an evicted mill: the record is written at its `frp` on arrival, and the fault is taken after the restore (DEDUCED, log 38). -/
def State.postEvicted (s : State) (p : Posted) (r : FaultRec) : Except AErr State := do
  let s ← s.writeRec p.owner p.lane p.pc r
  pure (s.modThread p.owner p.lane fun t => t.addPosted r true)
/-- A thread that cannot take the fault: its record is written at the `frp` it held, and the mill is in error with it. -/
def State.postGone (s : State) (p : Posted) (uid : Nat) (r : FaultRec) : Except AErr State := do
  let (frp, n) := match p.held with
    | some h => h
    | none => ((s.thread p.owner p.lane).sys.frp, (s.thread p.owner p.lane).recCount)
  let r := { r with seq := BitVec.ofNat 64 (n + 1) }
  let s ← s.writeRecAt p.owner p.lane p.pc frp r
  pure (s.millError uid r)
/-- The front end has resolved the failure, by choice, and the access is made again (R353): at its home, or with a new transaction; one that
returned a value to a thread that is gone is over. -/
def State.replayPosted (s : State) (p : Posted) : State :=
  match p.tag with
  | none => if p.rd != 0 then s.dropPosted p.id else s.modPosted p.id fun q => { q with bad := none }
  | some _ =>
    if p.bytes.isEmpty && p.red.isNone then s.dropPosted p.id
    else
      let (tag, s) := s.newTag
      let s := s.modPosted p.id fun q => { q with bad := none, tag := some tag }
      let pa := p.key % 2 ^ 52
      let o := pa % 128
      let flit := { flitBlank 2 1 with addr := pa, srcPart := s.partOfAgent p.owner }
      s.request ⟨tag, none, p.mill, p.pc, p.va, p.size, some p.id, none⟩ ((p.key - 2 ^ 60) / 2 ^ 52) (pa / 128)
        (match p.red with
         | some x => { flit with typ := 2, size := p.size - 1, opc := x.op + (if x.w = 64 then 16 else 0), opnd0 := x.c }
         | none => { flit with
            mask := BitVec.ofNat 128 ((2 ^ p.bytes.length - 1) * 2 ^ o)
            data := List.replicate o 0 ++ p.bytes ++ List.replicate (128 - o - p.bytes.length) 0 })
/-- Where the failure of a thread's access goes. A failed write of the record is a double fault (R29). -/
def State.postedFault (s : State) (p : Posted) (cause : Nat) : State :=
  let r := s.postedRec p cause
  let a := p.owner
  let fin := fun (x : Except AErr State) => match x with
    | .ok s => s.dropPosted p.id
    | .error (.fault _) => (s.escalate a p.lane r true).dropPosted p.id
    | .error e => s.stallOn a p.lane e
  match a.mill with
  | none =>
    if (s.thread a 0).exited then (s.deviceRecord 2 r.status (bytesOfNat 4 0 ++ r.bytes.take 16)).dropPosted p.id
    else (s.modThread a 0 fun t => t.addPosted r false).dropPosted p.id
  | some uid =>
    match s.mill? uid with
    | none => s.dropPosted p.id
    | some m =>
      match m.st with
      | .freed => s.dropPosted p.id
      | .draining => if s.pick 8 p.id != 0 then s.replayPosted p else (s.millError uid r).dropPosted p.id
      | x =>
        if p.held.isSome || (s.thread a p.lane).exited then
          if s.pick 8 p.id != 0 then s.replayPosted p else fin (s.postGone p uid r)
        else if x == .evicted || (s.thread a p.lane).saveDone then fin (s.postEvicted p r)
        else (s.modThread a p.lane fun t => t.addPosted r false).dropPosted p.id
/-- A host command's own access: the command fails with it (R436). -/
def cmdOwned (p : Posted) : Bool :=
  match p.owner with
  | .fe n => Config.nFeCores ≤ n
  | _ => false
/-- POSTED_FAULT_ARRIVAL: the failure of an access reaches who issued it; a flume operation's halts its context (R293). -/
def execPostedFaultArrival (id cause : Nat) (s : State) : Out :=
  match s.posted? id with
  | none => .next s
  | some p =>
    if p.bad != some cause || cmdOwned p then .next s
    else match p.owner.mill with
      | some uid =>
        if p.owner == flumeAgent uid then .next (s.flumeLost uid p.lane p)
        else .next (s.postedFault p cause)
      | none => .next (s.postedFault p cause)

/-! ### Fault requests (R221) -/

/-- Some page of a refusal is remembered by who waited for it. -/
def State.refusePage (s : State) (page : Nat) (w : Agent × Nat) : State :=
  match w.1.mill with
  | some uid =>
    if w.1 == flumeAgent uid then s.modFlume uid fun f => { f with refused := if f.refused.contains (w.2, page) then f.refused else f.refused ++ [(w.2, page)] }
    else s.modThread w.1 w.2 fun t => { t with refused := insertNat page t.refused }
  | none => match w.1 with
    | .fe n =>
      if n < Config.nFeCores then s.modThread w.1 w.2 fun t => { t with refused := insertNat page t.refused }
      else s.modQueue (n - Config.nFeCores) fun q => { q with refused := insertNat page q.refused }
    | _ => s
/-- The front end's log: a fault that was resolved and whose access is replayed, FLAGS bit 1 (R221, R350). -/
def State.logResolved (s : State) (r : FaultReq) : State :=
  { s with feLog := s.feLog ++ r.threads.map fun w => { w.2.2 with flags := w.2.2.flags ||| 2 } }
/-- FAULT_RESOLUTION: mapped, every access that stalled on the page is replayed; refused, each takes its fault. -/
def execFaultResolution (req : Nat) (mapped : Bool) (s : State) : Out :=
  match s.reqs.find? (·.id == req) with
  | none => .next s
  | some r =>
    let s := { s with reqs := s.reqs.filter (·.id != req) }
    .next (if mapped then s.logResolved r else r.threads.foldl (fun s w => s.refusePage r.page (w.1, w.2.1)) s)

end Sys2Proof.Machine
end

