-- ==== Sys2Proof/Machine/Power.lean ====
section
/-! DEFINITION. Power, resets, thermal limits and errors in storage (spec/25_power_and_reliability.md R415-R422; spec/24 R394, R397;
spec/20 R360). -/

namespace Sys2Proof.Machine

/-! ### Tokens (R415-R417) -/

/-- Tokens per die that the two registers select (R415). -/
def Board.tokensFor (b : Board) : Nat := if b.tokens = 0 then 1 + (b.cap - 1300) / 200 else b.tokens
/-- A throttled die runs one token (R417). -/
def State.spreadTokens (s : State) : State :=
  { s with dies := s.dies.map fun d => { d with tokens := if d.throttled then 1 else s.board.tokensFor } }
/-- CAP. -/
def execCap (v : Nat) (s : State) : Out :=
  if !s.board.power || v < 1300 || v > 3000 then .next s
  else .next { s with board := { s.board with cap := v } }.spreadTokens
/-- TOKENS. -/
def execTokens (v : Nat) (s : State) : Out :=
  if !s.board.power || v > 13 then .next s
  else .next { s with board := { s.board with tokens := v } }.spreadTokens
/-- THERM shows a die as throttled or not (R394). -/
def State.setThrottle (s : State) (d : Nat) (on : Bool) : State :=
  let bit : BitVec 32 := BitVec.ofNat 32 (2 ^ d)
  { s.modDie d fun x => { x with throttled := on } with
    board := { s.board with therm := if on then s.board.therm ||| bit else s.board.therm &&& ~~~bit } }.spreadTokens
/-- THERMAL_LIMIT: one token, and an error record with STATUS 0 and INFO byte 0 = 1. -/
def execThermalLimit (d : Nat) (s : State) : Out :=
  if !s.board.power || d ≥ Config.nDies || (s.die d).throttled then .next s
  else .next ((s.setThrottle d true).deviceRecord 2 0 [1])
/-- THROTTLE_END: the tokens come back, and a completion record. -/
def execThrottleEnd (d : Nat) (s : State) : Out :=
  if !s.board.power || !(s.die d).throttled then .next s
  else .next ((s.setThrottle d false).deviceRecord 1 0 [])

/-! ### Gating and waking (R360, R397) -/

/-- Nothing of the package is under way. -/
def State.idle (s : State) : Bool :=
  s.posted.isEmpty && s.xmsgs.isEmpty && s.evq.isEmpty && s.moves.isEmpty && s.fe.all (fun c => c.run.isNone) &&
    s.mills.all fun m => m.st == .evicted
/-- POWER_GATING: the front end vacates every core; once all are empty the package is gated (DEDUCED, log 46). -/
def execPowerGating (s : State) : Out :=
  if !s.board.up || s.board.gated then .next s
  else if s.board.gating && s.idle then .next { s with board := { s.board with gated := true, gating := false } }
  else
    let s1 := (s.gangs.filter fun g => g.st == .resident && !g.restoring && g.save.isNone && !s.gangHalted g).foldl
      (fun s g => s.preempt g.uid 0x21 0) s
    .next { s1 with board := { s1.board with gating := true, vacated := List.range Config.nCores } }
/-- WAKE_COMPLETE: the package runs again, the vacated cores take placements, and the host has a wake-complete record (R402). -/
def execWakeComplete (s : State) : Out :=
  if s.board.gated && s.board.waking then
    .next ({ s with board := { s.board with gated := false, waking := false, vacated := [] } }.deviceRecord 4 0 [])
  else .next s

/-! ### Resets (R418, R419) -/

/-- Host memory is not the package's: it outlives every reset. -/
def hostPart (m : Memory) : Memory := m.filter fun c => decide (2 ^ 52 ≤ c.1 ∧ c.1 < 2 ^ 53)
/-- All volatile state is gone; the identity counter and host memory stay, as does what is to happen next. A key generation number is never
used again (R411, R412). -/
def State.wiped (s : State) (power : Bool) : State :=
  { State.reset with
    mem := hostPart s.mem
    trust := { State.reset.trust with identity := s.trust.identity, keyGens := s.trust.keyGens, attGen := s.trust.attGen }
    board := { State.reset.board with power := power }
    agenda := s.agenda, picks := s.picks, cur := s.cur, steps := s.steps, fresh := s.fresh, free := s.free }
/-- COLD_START: step 1, and the boot ROM awaits the firmware image; the rest follows from FWGO (R394, R418). -/
def execColdStart (s : State) : Out := .next (s.wiped true)
/-- POWER_LOSS. -/
def execPowerLoss (s : State) : Out := .next (s.wiped false)
/-- Steps 4 to 6: clocks, memory and counters zeroed, the link ports trained. A throttled die stays throttled (R417). -/
def State.bringUp (s : State) : State :=
  { s with
    mem := hostPart s.mem
    lineKeys := []
    poison := []
    fixed := []
    posted := []
    dies := s.dies.map fun (d : Die) => { Die.start with throttled := d.throttled }
    xmsgs := []
    tlb := []
    tlb2 := []
    reqs := []
    moves := []
    code := []
    clk := 0
    grids := []
    gangs := []
    mills := []
    waitTl := []
    ports := List.replicate 18 LinkPort.start
    txns := []
    inbox := []
    snap := []
    snapAt := none
    snapDue := []
    served := []
    holders := []
    watch := []
    board := { s.board with up := true, gated := false, gating := false, waking := false, vacated := [] } }.spreadTokens
/-- WARM_RESET: every partition and engagement is scrubbed and destroyed as if it had entered ERROR, then steps 4 to 6. -/
def execWarmReset (s : State) : Out :=
  if !s.board.up then .next s
  else
    let s1 := ((List.range Config.nParts).filter fun p => (s.part p).valid).foldl (fun s p => (s.enterError p).destroyPart p) s
    .next s1.bringUp

/-! ### Errors in storage (R420-R422) -/

/-- Cycles of 4.0 GHz in 24 hours (R418, R422). -/
def dayCycles : Nat := 24 * 3600 * 4000000000
/-- A corrected error of HBM or the second tier is counted for its frame; the 64th within a day is reported with the frame's address
(R422). -/
def State.countFix (s : State) (key : Nat) : State :=
  let l := ((sget [] s.fixed (key / 4096)).filter fun t => decide (s.clk - t < dayCycles)) ++ [s.clk]
  let s := { s with fixed := sput [] s.fixed (key / 4096) l }
  if l.length = 64 then s.deviceRecord 2 0x18 (bytesOfNat 8 (key / 4096 * 4096)) else s
/-- A corrected error of on-die SRAM is counted (R420). -/
def State.countSram (s : State) : State := { s with sramErrs := s.sramErrs + 1 }
/-- What two wrong bits do to a word of SRAM: registers, scratchpad, pond and cache words are marked. An entry of a TLB or of a loop buffer
is a copy that the machine can make again, and what a reader of a marked one meets the spec does not say: the model takes it out
(DESIGN CHOICE, log 54). -/
def State.markSram (s : State) (target : ErrTarget) : State :=
  match target with
  | .word k => s.setMark k
  | .line _ => s
  | .reg a lane pos => s.modThread a lane fun t => { t with regPoison := insertNat pos t.regPoison }
  | .uni a lane n => match a.mill with
    | some uid => s.modMill uid fun m => { m with uniPoison := insertNat n m.uniPoison }
    | none => s.modThread a lane fun t => { t with uniPoison := insertNat n t.uniPoison }
  | .copy d line kid w =>
    if (s.copyOf d line kid).isSome || cachedLine (128 * line) && homeOf (128 * line) == some d then
      s.modDie d fun x => { x with marks := x.marks ++ [(copyKey line kid, w % 16)] }
    else s
  | .l1 core line kid w =>
    if cachedLine (128 * line) then
      s.modDie (dieOfCore core) fun x => { x with l1Marks := x.l1Marks ++ [(core, copyKey line kid, w % 16)] }
    else s
  | .tlb core root va false => { s with tlb := s.tlb.filter fun t => !(t.core == core && t.hits root va) }
  | .tlb core root va true => { s with tlb2 := s.tlb2.filter fun t => !(t.core == core && t.hits root va) }
  | .loopBuf a lane pc => s.modThread a lane fun t => { t with loopBuf := t.loopBuf.filter (·.1 != BitVec.ofNat 64 pc) }
/-- SOFT_ERROR: one bit, or one symbol of a line, is corrected and counted; more is uncorrectable, and marks the word or the line. Host memory
is not the package's. A save area's buffers hold words of its mill's scratchpad and registers. -/
def execSoftError (target : ErrTarget) (double : Bool) (s : State) : Out :=
  match target with
  | .word k => if keyed k || k < 2 ^ 53 then .next s else .next (if double then s.setMark k else s.countSram)
  | .line k => if !(inHbm k || inTier1 k) then .next s else .next (if double then s.setMark k else s.countFix k)
  | t => .next (if double then s.markSram t else s.countSram)
/-- PATROL_SCRUB: every line of HBM and the second tier is read; what it finds wrong is corrected and counted as the error it is (R420-R422), and
a line without errors is as it was. -/
def execPatrolScrub (s : State) : Out := .next s

end Sys2Proof.Machine
end

