-- ==== Sys2Proof/Machine/Registers.lean ====
section
/-! DEFINITION. Writes to the registers of function 0 and of the partitions' functions
(spec/24_front_end_and_trust.md R393-R396, R400, R402, R403, R408; spec/10 R206, R207). -/

namespace Sys2Proof.Machine

/-! ### Queues and rings -/

/-- A queue's STATE in its register and its status block. -/
def State.putState (s : State) (q st : Nat) : State :=
  (s.modQueue q fun x => { x with state := st }).putStatus q 0x08 (bytesOfNat 4 st)
/-- The function's queues may be enabled: not between LOCK and START, nor in ERROR (R408, DEDUCED, log 23). -/
def Tdisp.open (t : Tdisp) : Bool :=
  match t with
  | .unlocked => true
  | .run => true
  | _ => false
def execQueueEnable (q : Nat) (s : State) : Out :=
  match s.partOfQueue q with
  | none => .next s
  | some p =>
    if !(s.part p).tdisp.open then .next s
    else
      let s1 := s.modQueue q fun x => { x with ctrl := x.ctrl ||| 1 }
      .next (if (s.queue q).state = 2 then s1.putState q 0 else s1)
/-- QUEUE_DISABLE: the queue stops now, or once its started commands are complete (R400). -/
def execQueueDisable (q : Nat) (s : State) : Out :=
  match s.partOfQueue q with
  | none => .next s
  | some _ =>
    let s1 := s.modQueue q fun x => { x with ctrl := x.ctrl &&& 0xFE }
    .next (if s.cmds.any fun c => c.queue == q && !c.done then s1 else s1.putState q 2)
/-- QUEUE_RESTART: the error is cleared, and the commands started so far are those before the restart (R399, R400) (DEDUCED, log 24). -/
def execQueueRestart (q : Nat) (s : State) : Out :=
  match s.partOfQueue q with
  | none => .next s
  | some _ =>
    let s1 := { s with cmds := s.cmds.map fun c => if c.queue = q then { c with old := true } else c }
    .next (if (s.queue q).state = 1 then s1.putState q 0 else s1)

/-- EVENT_RING_CONFIG: both indices go to 0 and the records are discarded, so space returns, and a pending overflow record is written (R403);
another EVLOG is refused (R402). -/
def execEventRingConfig (p : Nat) (r : RingReg) (v : Nat) (s : State) : Out :=
  if !(s.part p).valid then .next s
  else
    let set := fun (f : Ring → Ring) =>
      (s.modPart p fun q => { q with ring := { f q.ring with evhead := 0, evtail := 0 } }).flushOverflow p
    match r with
    | .evbase => .next (set fun x => { x with evbase := BitVec.ofNat 64 v })
    | .evlog => .next (if 4 ≤ v ∧ v ≤ 16 then set fun x => { x with evlog := v } else s)
/-- EVHEAD: space returns, and a pending overflow record is written (R403). -/
def execEvhead (p v : Nat) (s : State) : Out :=
  if !(s.part p).valid then .next s
  else .next ((s.modPart p fun q => { q with ring := { q.ring with evhead := BitVec.ofNat 32 v } }).flushOverflow p)

/-! ### Partition entries (R393, R394) -/

/-- A write to a register frozen by LOCK puts the interface in ERROR; in ERROR it stays frozen (R408). -/
def State.frozen (s : State) (p : Nat) : Option State :=
  match (s.part p).tdisp with
  | .unlocked => none
  | .error => some s
  | _ => some (s.enterError p)

/-- A partition lies on a die: it has clusters or a pond share there. -/
def Partition.onDie (p : Partition) (d : Nat) : Bool :=
  p.clusterList.any (fun c => c / Config.clustersPerDie == d) || (p.pond.getD d (0, 0)).2 != 0
/-- The other partitions in force. -/
def State.others (s : State) (p : Nat) : List Partition :=
  (((List.range Config.nParts).filter fun i => i != p).map s.part).filter (·.valid)
/-- Two shares overlap. -/
def overlaps (x n y m : Nat) : Bool := n != 0 && m != 0 && meets x n y m
/-- A share: multiples of 1 GiB, wholly inside a physical range of R209 where it holds anything. -/
def shareOk (base size lo lim : Nat) : Bool :=
  base % 2 ^ 30 == 0 && size % 2 ^ 30 == 0 && (size == 0 || (lo ≤ base && base + size ≤ lim))
def Partition.clear (p q : Partition) : Bool :=
  p.clusters &&& q.clusters == 0 && !overlaps p.hbmBase.toNat p.hbmSize.toNat q.hbmBase.toNat q.hbmSize.toNat &&
  !overlaps p.t1Base.toNat p.t1Size.toNat q.t1Base.toNat q.t1Size.toNat &&
  !overlaps p.keyFirst p.keyCount q.keyFirst q.keyCount && !overlaps p.qFirst p.qCount q.qFirst q.qCount &&
  (List.range 4).all fun d =>
    !overlaps (p.pond.getD d (0, 0)).1 (p.pond.getD d (0, 0)).2 (q.pond.getD d (0, 0)).1 (q.pond.getD d (0, 0)).2
/-- The partition is the first on a die: its SPLIT counts there (R206) (DEDUCED, log 45). -/
def State.firstOn (s : State) (p d : Nat) : Bool := (s.part p).onDie d && !(s.others p).any fun q => q.onDie d
/-- The pond part of a die, in units of 16 MiB, with this entry in force. -/
def State.splitOf (s : State) (p d : Nat) : Nat := if s.firstOn p d then (s.part p).split.getD d 0 else (s.die d).pond16
/-- The rules of R393 (DEDUCED, log 25). -/
def State.entryOk (s : State) (p : Nat) : Bool :=
  let e := s.part p
  e.clusters.toNat / 2 ^ 52 == 0 && shareOk e.hbmBase.toNat e.hbmSize.toNat 0 0xC000000000 &&
  shareOk e.t1Base.toNat e.t1Size.toNat 0x10000000000 0x30000000000 &&
  e.keyCount % 16 == 0 && (e.keyCount == 0 || e.keyFirst != 0) && e.keyFirst + e.keyCount ≤ 1024 &&
  e.qFirst + e.qCount ≤ Config.nQueues && e.node.toNat ≤ 4095 && (s.others p).all (fun q => e.clear q) &&
  (List.range 4).all fun d =>
    (!s.firstOn p d || (4 ≤ e.split.getD d 0 && e.split.getD d 0 ≤ 12)) &&
    (e.pond.getD d (0, 0)).1 + (e.pond.getD d (0, 0)).2 ≤ 16 * s.splitOf p d
/-- Cores vacated for the change take placements again (R360); those of a power gating wait for the wake. -/
def State.returnCores (s : State) : State :=
  if s.board.gating then s else { s with board := { s.board with vacated := [] } }
/-- The node number is fixed by the first entry (R393, R394). -/
def Board.fixNode (b : Board) (n : Nat) : Board :=
  if b.nodeId.getLsbD 31 then b else { b with nodeId := BitVec.ofNat 32 (2 ^ 31 + n) }
/-- A write of the partition table is an event of the front end, also one that is ignored or refused (R401). -/
def State.partWritten (s : State) (p : Nat) : State := { s with evq := s.evq ++ [.partWrite p] }
/-- PARTITION_COMMIT: the entry is in force, with its pond shares zeroed and its splits set, or is marked REFUSED. -/
def execPartitionCommit (p : Nat) (s : State) : Out :=
  if !s.board.up || p ≥ Config.nParts then .next s
  else match (s.partWritten p).frozen p with
    | some s1 => .next s1
    | none =>
      if (s.part p).valid then .next (s.partWritten p)
      else
        let s0 := (s.partWritten p).returnCores
        if !s.entryOk p then .next (s0.modPart p fun e => { e with refused := true })
        else
          let s1 := (List.range 4).foldl (fun t d => t.modDie d fun x => { x with pond16 := s.splitOf p d }) s0
          let s2 := s1.modPart p fun e => { e with valid := true, refused := false }
          .next (({ s2 with board := s2.board.fixNode (s.part p).node.toNat } : State).zeroPond p)
/-- PARTITION_DESTROY. -/
def execPartitionDestroy (p : Nat) (s : State) : Out :=
  if !s.board.up || !(s.part p).valid then .next s
  else match (s.partWritten p).frozen p with
    | some s1 => .next s1
    | none => .next ((s.partWritten p).destroyPart p)

/-! ### Plain registers -/

/-- A field of an entry by its offset; an offset of no field keeps it. -/
def Partition.putField (e : Partition) (off v : Nat) : Partition :=
  let d := (off - 0x30) / 8
  match off with
  | 0x08 => { e with clusters := BitVec.ofNat 64 (v % 2 ^ 52) }
  | 0x10 => { e with hbmBase := BitVec.ofNat 64 v }
  | 0x18 => { e with hbmSize := BitVec.ofNat 64 v }
  | 0x20 => { e with t1Base := BitVec.ofNat 64 v }
  | 0x28 => { e with t1Size := BitVec.ofNat 64 v }
  | 0x50 => { e with split := (List.range 4).map fun i => v / 256 ^ i % 256 }
  | 0x54 => { e with keyFirst := v % 2 ^ 16 }
  | 0x56 => { e with keyCount := v % 2 ^ 16 }
  | 0x58 => { e with saveBase := BitVec.ofNat 64 v }
  | 0x60 => { e with saveSize := BitVec.ofNat 64 v }
  | 0x68 => { e with node := BitVec.ofNat 16 (v % 4096) }
  | 0x6A => { e with qFirst := v % 2 ^ 16 }
  | 0x6C => { e with qCount := v % 2 ^ 16 }
  | _ =>
    if 0x30 ≤ off ∧ off < 0x50 ∧ off % 4 = 0 then
      { e with pond := modAt e.pond d fun x => if off % 8 = 0 then (v % 2 ^ 32, x.2) else (x.1, v % 2 ^ 32) }
    else e
/-- A queue's register by its offset (R395); an unlisted LOGSZ is refused. -/
def Queue.putField (x : Queue) (off v : Nat) : Queue :=
  match off with
  | 0x00 => { x with base := BitVec.ofNat 64 v }
  | 0x08 => if 4 ≤ v % 256 ∧ v % 256 ≤ 16 then { x with logsz := v % 256 } else x
  | 0x09 => { x with ctrl := (x.ctrl &&& 0xFD) ||| (BitVec.ofNat 8 v &&& 2) }
  | 0x10 => { x with root := BitVec.ofNat 64 v }
  | 0x18 => { x with status := BitVec.ofNat 64 v }
  | _ => x
/-- A monitor's registers (R394, R414). -/
def Partition.putMon (e : Partition) (m : Nat) (f : Monitor → Monitor) : Partition :=
  if m ≥ 64 then e
  else { e with monitors := modAt (e.monitors ++ List.replicate (m + 1 - e.monitors.length) ⟨0, 0, []⟩) m f }
/-- A write of a partition's entry or monitors: frozen while its interface is locked. -/
def State.writeEntry (s : State) (p : Nat) (f : State → State) : State :=
  match s.frozen p with
  | some s1 => s1
  | none => f s
/-- REGISTER_WRITE. Fields of an entry in force keep their values (R394). -/
def execRegisterWrite (r : PlainReg) (v : Nat) (s : State) : Out :=
  if !s.board.power then .next s
  else match r with
    | .fwAddr => .next { s with board := { s.board with fwAddr := BitVec.ofNat 64 v } }
    | .fwSize => .next { s with board := { s.board with fwSize := BitVec.ofNat 32 v } }
    | .partField p off =>
      if !s.board.up then .next s
      else .next ((s.partWritten p).writeEntry p fun s => if (s.part p).valid then s else s.modPart p fun e => e.putField off v)
    | .monBase p m => .next (s.writeEntry p fun s => s.modPart p fun e => e.putMon m fun x => { x with base := BitVec.ofNat 64 v })
    | .monLimit p m => .next (s.writeEntry p fun s => s.modPart p fun e => e.putMon m fun x => { x with limit := BitVec.ofNat 64 v })
    | .queueField q off =>
      .next (if (s.partOfQueue q).isNone then s else s.modQueue q fun x => x.putField off v)
    | .bar p => .next (s.writeEntry p fun s => s.modPart p fun e => { e with bar0 := BitVec.ofNat 64 v })
    | .unlisted _ _ => .next s

end Sys2Proof.Machine
end

