-- ==== Sys2Proof/Machine/Trust.lean ====
section
/-! DEFINITION. Firmware, keys, SPDM, TDISP and IDE (spec/24_front_end_and_trust.md R406-R411, R414). The codes of SPDM and TDISP
responses and the bodies that the spec leaves to those standards are PRESUMED (log 20). -/

namespace Sys2Proof.Machine

/-! ### Firmware (R409, R418) -/

/-- One measurement is extended (R409). -/
def extend (r : BitVec 256) (bs : List Byte) : BitVec 256 :=
  Config.shake256 (bytesOfNat 32 r.toNat ++ bytesOfNat 32 (Config.shake256 bs).toNat)
/-- The image in host memory. -/
def State.fwImage (s : State) : List Byte := memGetList s.mem (hostKey s.board.fwAddr.toNat) s.board.fwSize.toNat
/-- FWGO: the ROM loads the image and verifies it, FWSTAT 1 meanwhile; as the verification ends, with the next occurrence of the event, an
image that fails is reported in FWSTAT and not run (DESIGN CHOICE, log 54). Then steps 2 to 6 of the cold start. -/
def execFwgo (s : State) : Out :=
  if !s.board.power || s.board.fwStat.toNat % 4 == 2 then .next s
  else if s.board.fwStat.toNat % 4 != 1 then .next { s with board := { s.board with fwStat := 1 } }
  else
    let img := s.fwImage
    match Config.fwVerdict img with
    | 0 =>
      let t := s.trust.newKey
      let s1 := { s with
        board := { s.board with fwStat := 2 }
        trust := { t with measure := [Config.shake256 Config.romImage, extend 0 img] ++ List.replicate 8 0 }
        feClk := 0
        fe := List.replicate Config.nFeCores FeCore.idle }
      .next s1.bringUp
    | v + 1 => .next { s with board := { s.board with fwStat := BitVec.ofNat 32 (3 + 256 * (1 + v % 3)) } }

/-! ### SPDM (R407) -/

/-- A response goes out over DOE; the front end takes the message as an event (R401). -/
def State.reply (s : State) (req code : Nat) (body : List Byte) : State :=
  { s with trust := { s.trust with out := s.trust.out ++ [⟨code, body⟩] }, evq := s.evq ++ [.spdm req] }
/-- An ERROR response with its code. -/
def State.replyError (s : State) (req err : Nat) : State := s.reply req 0x7F [BitVec.ofNat 8 err, BitVec.ofNat 8 req]
/-- A request that the standard answers. -/
def spdm (req code : Nat) (body : List Byte) (s : State) : Out :=
  .next (if s.board.up then s.reply req code (Config.spdmBody req body) else s)
/-- VERSION: SPDM 1.3 (R407). -/
def execGetVersion (body : List Byte) (s : State) : Out :=
  .next (if s.board.up then s.reply 0x84 0x04 (Config.spdmVersions [(1, 3)] ++ Config.spdmBody 0x84 body) else s)
def execGetCapabilities (body : List Byte) (s : State) : Out := spdm 0xE1 0x61 body s
/-- Only SHAKE256, the XMSS and XMSS^MT signatures and ML-KEM-1024 are offered (R407). -/
def offeredAlgs : List Config.SpdmAlg := [.shake256, .xmss, .xmssMt, .mlKem1024]
def execNegotiateAlgorithms (body : List Byte) (s : State) : Out :=
  .next (if s.board.up then s.reply 0xE3 0x63 (Config.spdmAlgorithms offeredAlgs body) else s)
def execGetDigests (body : List Byte) (s : State) : Out := spdm 0x81 0x01 body s
def execGetCertificate (body : List Byte) (s : State) : Out := spdm 0x82 0x02 body s
/-- A signed response; without a key that can sign, or once the identity counter has passed 2^20 - 1, an ERROR response (R410). -/
def State.signedReply (s : State) (req code : Nat) (bs : List Byte) : State :=
  if s.trust.identity > 2 ^ 20 - 1 then s.replyError req 0x05
  else match s.trust.sign bs with
  | (some sig, t) => { s with trust := t }.reply req code (bs ++ sig)
  | (none, t) => { s with trust := t }.replyError req 0x05
def execChallenge (body : List Byte) (s : State) : Out :=
  .next (if s.board.up then s.signedReply 0x83 0x03 (Config.spdmBody 0x83 body) else s)
/-- GET_MEASUREMENTS: the ten registers, signed (R409). -/
def execGetMeasurements (body : List Byte) (s : State) : Out :=
  .next (if s.board.up then
    s.signedReply 0xE0 0x60 (Config.spdmBody 0xE0 body ++ (s.trust.measure.map fun m => bytesOfNat 32 m.toNat).flatten) else s)
/-- KEY_EXCHANGE: a session with keys from ML-KEM-1024 (R411). -/
def execKeyExchange (body : List Byte) (s : State) : Out :=
  if !s.board.up then .next s
  else
    let s1 := { s with trust := { s.trust with sessions := s.trust.sessions ++ [(s.fresh, Config.sessionKey s.fresh)] }, fresh := s.fresh + 1 }
    .next (s1.reply 0xE4 0x64 (Config.spdmBody 0xE4 body))
def execFinish (body : List Byte) (s : State) : Out := spdm 0xE5 0x65 body s
/-- END_SESSION: the latest session ends. -/
def execEndSession (body : List Byte) (s : State) : Out :=
  .next (if s.board.up then
    { s with trust := { s.trust with sessions := s.trust.sessions.dropLast } }.reply 0xEC 0x6C (Config.spdmBody 0xEC body) else s)
/-- KEY_UPDATE: the latest session's keys are new. -/
def execKeyUpdate (body : List Byte) (s : State) : Out :=
  if !s.board.up then .next s
  else
    let s1 := { s with
      trust := { s.trust with sessions := match s.trust.sessions.getLast? with
        | some (id, _) => s.trust.sessions.dropLast ++ [(id, Config.sessionKey s.fresh)]
        | none => [] }
      fresh := s.fresh + 1 }
    .next (s1.reply 0xE9 0x69 (Config.spdmBody 0xE9 body))
/-- An access-log entry's 64 bytes (R414). -/
def LogEntry.bytes (e : LogEntry) : List Byte :=
  [BitVec.ofNat 8 e.monitor, BitVec.ofNat 8 e.cause] ++ bytesOfNat 2 e.kid ++ bytesOfNat 4 0 ++ bytesOfNat 8 e.index ++
  bytesOfNat 8 e.reads ++ bytesOfNat 8 e.writes ++ bytesOfNat 32 e.prev.toNat
/-- The head of a partition's chain: the hash of its last entry. -/
def Partition.chainHead (p : Partition) : BitVec 256 :=
  match p.log.getLast? with
  | some e => logHash e
  | none => 0
/-- VENDOR_DEFINED_REQUEST: a partition's entries, the discard counter and the chain head, signed (R414). -/
def execVendorDefinedRequest (p : Nat) (s : State) : Out :=
  .next (if s.board.up then
    s.signedReply 0xFE 0x7E ((((s.part p).log.map LogEntry.bytes).flatten ++ bytesOfNat 8 (s.part p).logDrops) ++
      bytesOfNat 32 (s.part p).chainHead.toNat) else s)
/-- UNSUPPORTED_REQUEST: an ERROR response with UnsupportedRequest. -/
def execUnsupportedRequest (code : Nat) (s : State) : Out := .next (if s.board.up then s.replyError code 0x07 else s)

/-! ### TDISP (R408) -/

/-- A TDISP request, inside an SPDM session: outside one, or where the interface's state does not allow it, an error response. -/
def tdisp (p req : Nat) (ok : Partition → Bool) (act : State → State) (s : State) : Out :=
  if !s.board.up then .next s
  else
    let s0 := { s with evq := s.evq ++ [.tdisp p] }
    .next (if s.trust.sessions.isEmpty || !(s.part p).valid || !ok (s.part p) then
      { s0 with trust := { s0.trust with out := s0.trust.out ++ [⟨0x7F, [BitVec.ofNat 8 req]⟩] } } else act s0)
def State.tdispReply (s : State) (code : Nat) (body : List Byte) : State :=
  { s with trust := { s.trust with out := s.trust.out ++ [⟨code, body⟩] } }
/-- The fields of an entry, as LOCK measures them (R409) and the report carries them (R408). -/
def Partition.fields (e : Partition) : List Byte :=
  bytesOfNat 8 e.clusters.toNat ++ bytesOfNat 8 e.hbmBase.toNat ++ bytesOfNat 8 e.hbmSize.toNat ++ bytesOfNat 8 e.t1Base.toNat ++
  bytesOfNat 8 e.t1Size.toNat ++ (e.pond.map fun x => bytesOfNat 4 x.1 ++ bytesOfNat 4 x.2).flatten ++ (e.split.map (bytesOfNat 1)).flatten ++
  bytesOfNat 2 e.keyFirst ++ bytesOfNat 2 e.keyCount ++ bytesOfNat 8 e.saveBase.toNat ++ bytesOfNat 8 e.saveSize.toNat ++
  bytesOfNat 2 e.node.toNat ++ bytesOfNat 2 e.qFirst ++ bytesOfNat 2 e.qCount
/-- The interface report (R408). -/
def State.ifReport (s : State) (e : Partition) : List Byte :=
  bytesOfNat 8 e.bar0.toNat ++ bytesOfNat 8 (128 * 1024) ++ bytesOfNat 8 e.clusters.toNat ++ bytesOfNat 8 e.hbmBase.toNat ++ bytesOfNat 8 e.hbmSize.toNat ++
  bytesOfNat 8 e.t1Base.toNat ++ bytesOfNat 8 e.t1Size.toNat ++ (e.pond.map fun x => bytesOfNat 4 x.1 ++ bytesOfNat 4 x.2).flatten ++
  bytesOfNat 2 e.keyFirst ++ bytesOfNat 2 e.keyCount ++ bytesOfNat 32 (s.trust.measure.getD 1 0).toNat
/-- LOCK_INTERFACE_REQUEST: the configuration freezes, and the entry is measured. -/
def execLockInterfaceRequest (p : Nat) (s : State) : Out :=
  tdisp p 0x83 (fun e => e.tdisp == .unlocked) (fun s =>
    let m := extend (s.trust.measure.getD (2 + p) 0) (s.part p).fields
    ({ s with trust := { s.trust with measure := setAt s.trust.measure (2 + p) m } }.modPart p fun e => { e with tdisp := .locked }).tdispReply 0x03 []) s
def execGetDeviceInterfaceReport (p : Nat) (s : State) : Out :=
  tdisp p 0x84 (fun e => e.tdisp == .locked || e.tdisp == .run) (fun s => s.tdispReply 0x04 (s.ifReport (s.part p))) s
/-- The state's code (PRESUMED, log 20). -/
def Tdisp.code : Tdisp → Nat
  | .unlocked => 0
  | .locked => 1
  | .run => 2
  | .error => 3
def execGetDeviceInterfaceState (p : Nat) (s : State) : Out :=
  tdisp p 0x85 (fun _ => true) (fun s => s.tdispReply 0x05 [BitVec.ofNat 8 (s.part p).tdisp.code]) s
def execStartInterfaceRequest (p : Nat) (s : State) : Out :=
  tdisp p 0x86 (fun e => e.tdisp == .locked) (fun s => (s.modPart p fun e => { e with tdisp := .run }).tdispReply 0x06 []) s
/-- Every grid aborted, the engagements gone without receipts, the configuration unfrozen. -/
def State.stopInterface (s : State) (p : Nat) : State :=
  ((s.stopGrids p).dropEngs p).modPart p fun e => { e with tdisp := .unlocked }
def execStopInterfaceRequest (p : Nat) (s : State) : Out :=
  tdisp p 0x87 (fun e => e.tdisp != .unlocked) (fun s => (s.stopInterface p).tdispReply 0x07 []) s
/-- FUNCTION_LEVEL_RESET acts as STOP_INTERFACE_REQUEST (R419). -/
def execFunctionLevelReset (p : Nat) (s : State) : Out :=
  .next (if s.board.up && (s.part p).valid && (s.part p).tdisp != .unlocked then s.stopInterface p else s)

/-- IDE_STREAM_KEYING: a selective stream of function 0, or of a partition's function, is keyed; link IDE is refused (R406). -/
def execIdeStreamKeying (fn : Nat) (linkIde : Bool) (s : State) : Out :=
  if !s.board.power || linkIde || fn > Config.nParts then .next s
  else if fn = 0 then .next { s with trust := { s.trust with idePf := true } }
  else .next { s with trust := { s.trust with ideVf := insertNat (fn - 1) s.trust.ideVf } }

end Sys2Proof.Machine
end

