-- ==== Sys2Proof/Machine/Dispatch.lean ====
section
/-! DEFINITION. One arm per constructor of Instr: the meaning of each row of spec/opcode_table.json. -/

namespace Sys2Proof.Machine

def exec (i : Instr) (s : State) : Host.Outcome State Fault Refusal :=
  match i with
  | .nop f => Sys2Proof.Machine.execNop f s
  | .mov f => Sys2Proof.Machine.execMov f s
  | .sel f => Sys2Proof.Machine.execSel f s
  | .lea f => Sys2Proof.Machine.execLea f s
  | .add f => Sys2Proof.Machine.execAdd f s
  | .sub f => Sys2Proof.Machine.execSub f s
  | .addc f => Sys2Proof.Machine.execAddc f s
  | .subb f => Sys2Proof.Machine.execSubb f s
  | .mul f => Sys2Proof.Machine.execMul f s
  | .mulh f => Sys2Proof.Machine.execMulh f s
  | .mad f => Sys2Proof.Machine.execMad f s
  | .div f => Sys2Proof.Machine.execDiv f s
  | .rem f => Sys2Proof.Machine.execRem f s
  | .min f => Sys2Proof.Machine.execMin f s
  | .max f => Sys2Proof.Machine.execMax f s
  | .abs f => Sys2Proof.Machine.execAbs f s
  | .neg f => Sys2Proof.Machine.execNeg f s
  | .and f => Sys2Proof.Machine.execAnd f s
  | .or f => Sys2Proof.Machine.execOr f s
  | .xor f => Sys2Proof.Machine.execXor f s
  | .andn f => Sys2Proof.Machine.execAndn f s
  | .not f => Sys2Proof.Machine.execNot f s
  | .shl f => Sys2Proof.Machine.execShl f s
  | .shr f => Sys2Proof.Machine.execShr f s
  | .sar f => Sys2Proof.Machine.execSar f s
  | .rot f => Sys2Proof.Machine.execRot f s
  | .fsh f => Sys2Proof.Machine.execFsh f s
  | .clz f => Sys2Proof.Machine.execClz f s
  | .popc f => Sys2Proof.Machine.execPopc f s
  | .brev f => Sys2Proof.Machine.execBrev f s
  | .bfx f => Sys2Proof.Machine.execBfx f s
  | .bfi f => Sys2Proof.Machine.execBfi f s
  | .cmp f => Sys2Proof.Machine.execCmp f s
  | .gop f => Sys2Proof.Machine.execGop f s
  | .gmov f => Sys2Proof.Machine.execGmov f s
  | .fadd f => Sys2Proof.Machine.execFadd f s
  | .fsub f => Sys2Proof.Machine.execFsub f s
  | .fmul f => Sys2Proof.Machine.execFmul f s
  | .fma f => Sys2Proof.Machine.execFma f s
  | .fmin f => Sys2Proof.Machine.execFmin f s
  | .fmax f => Sys2Proof.Machine.execFmax f s
  | .fcmp f => Sys2Proof.Machine.execFcmp f s
  | .fclass f => Sys2Proof.Machine.execFclass f s
  | .frcp f => Sys2Proof.Machine.execFrcp f s
  | .frsq f => Sys2Proof.Machine.execFrsq f s
  | .fsqrt f => Sys2Proof.Machine.execFsqrt f s
  | .fex2 f => Sys2Proof.Machine.execFex2 f s
  | .flg2 f => Sys2Proof.Machine.execFlg2 f s
  | .fsin f => Sys2Proof.Machine.execFsin f s
  | .fcos f => Sys2Proof.Machine.execFcos f s
  | .cvt f => Sys2Proof.Machine.execCvt f s
  | .frnd f => Sys2Proof.Machine.execFrnd f s
  | .hadd2 f => Sys2Proof.Machine.execHadd2 f s
  | .hmul2 f => Sys2Proof.Machine.execHmul2 f s
  | .hfma2 f => Sys2Proof.Machine.execHfma2 f s
  | .fscl f => Sys2Proof.Machine.execFscl f s
  | .bra f => Sys2Proof.Machine.execBra f s
  | .brx f => Sys2Proof.Machine.execBrx f s
  | .call f => Sys2Proof.Machine.execCall f s
  | .callx f => Sys2Proof.Machine.execCallx f s
  | .ret f => Sys2Proof.Machine.execRet f s
  | .loop f => Sys2Proof.Machine.execLoop f s
  | .exit f => Sys2Proof.Machine.execExit f s
  | .trap f => Sys2Proof.Machine.execTrap f s
  | .bkpt f => Sys2Proof.Machine.execBkpt f s
  | .mfs f => Sys2Proof.Machine.execMfs f s
  | .mts f => Sys2Proof.Machine.execMts f s
  | .rfe f => Sys2Proof.Machine.execRfe f s
  | .pause f => Sys2Proof.Machine.execPause f s
  | .wspill f => Sys2Proof.Machine.execWspill f s
  | .wfill f => Sys2Proof.Machine.execWfill f s
  | .snap f => Sys2Proof.Machine.execSnap f s
  | .ld f => Sys2Proof.Machine.execLd f s
  | .st f => Sys2Proof.Machine.execSt f s
  | .ldx f => Sys2Proof.Machine.execLdx f s
  | .stx f => Sys2Proof.Machine.execStx f s
  | .pref f => Sys2Proof.Machine.execPref f s
  | .tileld f => Sys2Proof.Machine.execTileld f s
  | .tilest f => Sys2Proof.Machine.execTilest f s
  | .cinv f => Sys2Proof.Machine.execCinv f s
  | .cwb f => Sys2Proof.Machine.execCwb f s
  | .xbar f => Sys2Proof.Machine.execXbar f s
  | .xbarM f => Sys2Proof.Machine.execXbarM f s
  | .xtld f => Sys2Proof.Machine.execXtld f s
  | .shfl f => Sys2Proof.Machine.execShfl f s
  | .bcast f => Sys2Proof.Machine.execBcast f s
  | .vote f => Sys2Proof.Machine.execVote f s
  | .redw f => Sys2Proof.Machine.execRedw f s
  | .scanw f => Sys2Proof.Machine.execScanw f s
  | .topk f => Sys2Proof.Machine.execTopk f s
  | .sortw f => Sys2Proof.Machine.execSortw f s
  | .matchw f => Sys2Proof.Machine.execMatchw f s
  | .smov f => Sys2Proof.Machine.execSmov f s
  | .sclaim f => Sys2Proof.Machine.execSclaim f s
  | .srel f => Sys2Proof.Machine.execSrel f s
  | .wid f => Sys2Proof.Machine.execWid f s
  | .syncw f => Sys2Proof.Machine.execSyncw f s
  | .dot4 f => Sys2Proof.Machine.execDot4 f s
  | .dot8 f => Sys2Proof.Machine.execDot8 f s
  | .qscl f => Sys2Proof.Machine.execQscl f s
  | .qpack f => Sys2Proof.Machine.execQpack f s
  | .unpk f => Sys2Proof.Machine.execUnpk f s
  | .spawn f => Sys2Proof.Machine.execSpawn f s
  | .grab f => Sys2Proof.Machine.execGrab f s
  | .yield f => Sys2Proof.Machine.execYield f s
  | .fence f => Sys2Proof.Machine.execFence f s
  | .fwait f => Sys2Proof.Machine.execFwait f s
  | .atom f => Sys2Proof.Machine.execAtom f s
  | .red f => Sys2Proof.Machine.execRed f s
  | .cas f => Sys2Proof.Machine.execCas f s
  | .pvop f => Sys2Proof.Machine.execPvop f s
  | .send f => Sys2Proof.Machine.execSend f s
  | .patset f => Sys2Proof.Machine.execPatset f s
  | .portcfg f => Sys2Proof.Machine.execPortcfg f s
  | .portst f => Sys2Proof.Machine.execPortst f s
  | .hret f => Sys2Proof.Machine.execHret f s
  | .flstage f => Sys2Proof.Machine.execFlstage f s
  | .tlrd f => Sys2Proof.Machine.execTlrd f s
  | .tlwait f => Sys2Proof.Machine.execTlwait f s
  | .wpost f => Sys2Proof.Machine.execWpost f s
  | .wstat f => Sys2Proof.Machine.execWstat f s
  | .wcancel f => Sys2Proof.Machine.execWcancel f s
  | .accld f => Sys2Proof.Machine.execAccld f s
  | .accclr f => Sys2Proof.Machine.execAccclr f s
  | .seedx f => Sys2Proof.Machine.execSeedx f s
  | .seedfit f => Sys2Proof.Machine.execSeedfit f s
  | .savedone f => Sys2Proof.Machine.execSavedone f s
  | .frec f => Sys2Proof.Machine.execFrec f s
  | .drnwait f => Sys2Proof.Machine.execDrnwait f s
  | .clauseHeader h => Sys2Proof.Machine.execClauseHeader h s
  | .longLatencyComplete a lane op => Sys2Proof.Machine.execLongLatencyComplete a lane op s
  | .accessPerform id scope => Sys2Proof.Machine.execAccessPerform id scope s
  | .fenceSlotComplete a slot => Sys2Proof.Machine.execFenceSlotComplete a slot s
  | .postedFaultArrival id cause => Sys2Proof.Machine.execPostedFaultArrival id cause s
  | .faultResolution req mapped => Sys2Proof.Machine.execFaultResolution req mapped s
  | .pauseExpiry a => Sys2Proof.Machine.execPauseExpiry a s
  | .gangPlacement part => Sys2Proof.Machine.execGangPlacement part s
  | .millFinish mill => Sys2Proof.Machine.execMillFinish mill s
  | .millFree mill => Sys2Proof.Machine.execMillFree mill s
  | .patternFire mill => Sys2Proof.Machine.execPatternFire mill s
  | .handlerWheelStart mill wheel => Sys2Proof.Machine.execHandlerWheelStart mill wheel s
  | .handlerRetire mill wheel => Sys2Proof.Machine.execHandlerRetire mill wheel s
  | .walkStart mill ctx => Sys2Proof.Machine.execWalkStart mill ctx s
  | .kstepBegin mill ctx => Sys2Proof.Machine.execKstepBegin mill ctx s
  | .kstepEnd mill ctx => Sys2Proof.Machine.execKstepEnd mill ctx s
  | .ready mill ctx => Sys2Proof.Machine.execReady mill ctx s
  | .accfree mill ctx => Sys2Proof.Machine.execAccfree mill ctx s
  | .flumeIssue mill => Sys2Proof.Machine.execFlumeIssue mill s
  | .flumeElement mill op elem => Sys2Proof.Machine.execFlumeElement mill op elem s
  | .flumeOpComplete mill op => Sys2Proof.Machine.execFlumeOpComplete mill op s
  | .flumeNotice mill => Sys2Proof.Machine.execFlumeNotice mill s
  | .sliceEnd gang => Sys2Proof.Machine.execSliceEnd gang s
  | .preemptRequest gang sub => Sys2Proof.Machine.execPreemptRequest gang sub s
  | .saveVectorEntry a lane => Sys2Proof.Machine.execSaveVectorEntry a lane s
  | .saveFreeze gang => Sys2Proof.Machine.execSaveFreeze gang s
  | .saveClose mill => Sys2Proof.Machine.execSaveClose mill s
  | .saveImage mill => Sys2Proof.Machine.execSaveImage mill s
  | .saveTimeout mill wheel => Sys2Proof.Machine.execSaveTimeout mill wheel s
  | .restore gang => Sys2Proof.Machine.execRestore gang s
  | .debugHalt a lane => Sys2Proof.Machine.execDebugHalt a lane s
  | .debugFreeze mill => Sys2Proof.Machine.execDebugFreeze mill s
  | .debugResume a lane => Sys2Proof.Machine.execDebugResume a lane s
  | .debugRead mill => Sys2Proof.Machine.execDebugRead mill s
  | .remoteWrite src dst => Sys2Proof.Machine.execRemoteWrite src dst s
  | .push src dst => Sys2Proof.Machine.execPush src dst s
  | .fetchResponse src dst => Sys2Proof.Machine.execFetchResponse src dst s
  | .clockBeacon src dst => Sys2Proof.Machine.execClockBeacon src dst s
  | .linkRead port fl => Sys2Proof.Machine.execLinkRead port fl s
  | .linkAtomic port fl => Sys2Proof.Machine.execLinkAtomic port fl s
  | .linkCas port fl => Sys2Proof.Machine.execLinkCas port fl s
  | .linkReadData port fl => Sys2Proof.Machine.execLinkReadData port fl s
  | .linkOldValue port fl => Sys2Proof.Machine.execLinkOldValue port fl s
  | .linkAcknowledgement port fl => Sys2Proof.Machine.execLinkAcknowledgement port fl s
  | .linkWrite port fl => Sys2Proof.Machine.execLinkWrite port fl s
  | .linkReduction port fl => Sys2Proof.Machine.execLinkReduction port fl s
  | .nak port fl => Sys2Proof.Machine.execNak port fl s
  | .idle port fl => Sys2Proof.Machine.execIdle port fl s
  | .retrainRequest port fl => Sys2Proof.Machine.execRetrainRequest port fl s
  | .retrainAcknowledgement port fl => Sys2Proof.Machine.execRetrainAcknowledgement port fl s
  | .corruptFlit port fl => Sys2Proof.Machine.execCorruptFlit port fl s
  | .portRetrain port ok => Sys2Proof.Machine.execPortRetrain port ok s
  | .pageMove root va lo hi => Sys2Proof.Machine.execPageMove root va lo hi s
  | .pageMoveCommit k => Sys2Proof.Machine.execPageMoveCommit k s
  | .frontEndEvent core => Sys2Proof.Machine.execFrontEndEvent core s
  | .launch q => Sys2Proof.Machine.execLaunch q s
  | .signal q => Sys2Proof.Machine.execSignal q s
  | .waittl q => Sys2Proof.Machine.execWaittl q s
  | .engage q => Sys2Proof.Machine.execEngage q s
  | .release q => Sys2Proof.Machine.execRelease q s
  | .snapshot q => Sys2Proof.Machine.execSnapshot q s
  | .flush q => Sys2Proof.Machine.execFlush q s
  | .doorbell q tail => Sys2Proof.Machine.execDoorbell q tail s
  | .wakeComplete => Sys2Proof.Machine.execWakeComplete s
  | .queueEnable q => Sys2Proof.Machine.execQueueEnable q s
  | .queueDisable q => Sys2Proof.Machine.execQueueDisable q s
  | .queueRestart q => Sys2Proof.Machine.execQueueRestart q s
  | .eventRingConfig part reg v => Sys2Proof.Machine.execEventRingConfig part reg v s
  | .evhead part v => Sys2Proof.Machine.execEvhead part v s
  | .partitionCommit part => Sys2Proof.Machine.execPartitionCommit part s
  | .partitionDestroy part => Sys2Proof.Machine.execPartitionDestroy part s
  | .fwgo => Sys2Proof.Machine.execFwgo s
  | .cap v => Sys2Proof.Machine.execCap v s
  | .tokens v => Sys2Proof.Machine.execTokens v s
  | .warmReset => Sys2Proof.Machine.execWarmReset s
  | .registerWrite r v => Sys2Proof.Machine.execRegisterWrite r v s
  | .coldStart => Sys2Proof.Machine.execColdStart s
  | .functionLevelReset part => Sys2Proof.Machine.execFunctionLevelReset part s
  | .getVersion body => Sys2Proof.Machine.execGetVersion body s
  | .getCapabilities body => Sys2Proof.Machine.execGetCapabilities body s
  | .negotiateAlgorithms body => Sys2Proof.Machine.execNegotiateAlgorithms body s
  | .getDigests body => Sys2Proof.Machine.execGetDigests body s
  | .getCertificate body => Sys2Proof.Machine.execGetCertificate body s
  | .challenge body => Sys2Proof.Machine.execChallenge body s
  | .getMeasurements body => Sys2Proof.Machine.execGetMeasurements body s
  | .keyExchange body => Sys2Proof.Machine.execKeyExchange body s
  | .finish body => Sys2Proof.Machine.execFinish body s
  | .endSession body => Sys2Proof.Machine.execEndSession body s
  | .keyUpdate body => Sys2Proof.Machine.execKeyUpdate body s
  | .vendorDefinedRequest part => Sys2Proof.Machine.execVendorDefinedRequest part s
  | .unsupportedRequest code => Sys2Proof.Machine.execUnsupportedRequest code s
  | .lockInterfaceRequest part => Sys2Proof.Machine.execLockInterfaceRequest part s
  | .getDeviceInterfaceReport part => Sys2Proof.Machine.execGetDeviceInterfaceReport part s
  | .getDeviceInterfaceState part => Sys2Proof.Machine.execGetDeviceInterfaceState part s
  | .startInterfaceRequest part => Sys2Proof.Machine.execStartInterfaceRequest part s
  | .stopInterfaceRequest part => Sys2Proof.Machine.execStopInterfaceRequest part s
  | .thermalLimit die => Sys2Proof.Machine.execThermalLimit die s
  | .throttleEnd die => Sys2Proof.Machine.execThrottleEnd die s
  | .patrolScrub => Sys2Proof.Machine.execPatrolScrub s
  | .powerGating => Sys2Proof.Machine.execPowerGating s
  | .softError target double => Sys2Proof.Machine.execSoftError target double s
  | .breakpointClaim mill c => Sys2Proof.Machine.execBreakpointClaim mill c s
  | .waittlSatisfied q => Sys2Proof.Machine.execWaittlSatisfied q s
  | .dropsItsCopy die line => Sys2Proof.Machine.execDropsItsCopy die line s
  | .ideStreamKeying fn linkIde => Sys2Proof.Machine.execIdeStreamKeying fn linkIde s
  | .powerLoss => Sys2Proof.Machine.execPowerLoss s

end Sys2Proof.Machine
end

