-- ==== Sys2Proof/Machine/Step.lean ====
section
/-! DEFINITION. One step of the package: the slices that are over end, the head of the agenda happens, an event or a turn of an
agent, and time passes; with nothing on the agenda the current agent issues its next word. And withFetchWord, a state about to issue
a given word. -/

namespace Sys2Proof.Machine

/-- One issue of the current agent: fetch, decode, execute. -/
def State.turn (s : State) : Host.Outcome State Fault Refusal :=
  match s.fetch with
  | .out o => o
  | .run i s' => exec i s'

/-- What a step does before time passes. A choice on the agenda is in force for the steps that follow it. -/
def State.act (s : State) : Host.Outcome State Fault Refusal :=
  match s.agenda with
  | .ev i :: l => exec i { s with agenda := l }
  | .turn a :: l => State.turn { s with agenda := l, cur := a }
  | .pick c :: l => .next { s with agenda := l, picks := c }
  | [] => s.turn
/-- One step. Nothing happens between the moment a slice is over and the scheduler's test (R357). -/
def step (st : State) : Host.Outcome State Fault Refusal := spend st.endSlices.act

/-! ### A state about to issue one word -/

/-- A launch record of zeros but for one wheel, one gang member, one window, and 1 MiB of scratchpad. -/
def fetchLaunch : Launch where
  entry := 0x100000
  wid := 5
  ext := [32, 1, 1, 1, 1, 1]
  wheels := 1
  hres := 0
  gang := 1
  minwin := 4
  scratch := 1024
  acc := 0
  param := 0
  tvec := 0
  sched := 0
  schedn := 0
  pats := 0
  pcfg := 0
  deadline := 0
  budget := 0
  eng := 0
  rtotal := 0
  rmin := 0
  rdiv := 0
  spill := 0x200000
  spillsz := 4096
  frp := 0

/-- A thread inside a clause of one instruction, or with a header due. -/
def fetchThread (header : Bool) : Thread :=
  { Thread.start 0x100008 false with
    clause := if header then none else some ⟨0x100000, 0, 1, 0, 1, false⟩
    entryDue := header
    sys := { SysRegs.zero with wsp := 0x200000, wlim := 0x201000 } }

/-- A page-table entry's bytes. -/
def fetchEntry (lo hi : Nat) : List Byte := bytesOfNat 8 lo ++ bytesOfNat 8 hi

/-- Partition 0 with cluster 0, 16 GiB of HBM, key-IDs 16-31 and queue 0, and engagement 0 with key-ID 16; one seed grid of
one mill on core 0, wheel 0 about to issue at 0x100008; a page table whose one 4 GiB leaf maps address 0 to frame 0, all
accesses allowed (DESIGN CHOICE, log 7). -/
def State.withFetchWord (s : State) (nbits w : Nat) : State :=
  let header := w % 4 == 3
  let mem := memPutList s.mem 0x100008 (bytesOfNat 16 (w % 2 ^ nbits))
  let mem := memPutList mem 0x10000 (fetchEntry 0x12001 0)
  let mem := memPutList mem 0x12000 (fetchEntry 0x14001 0)
  let mem := memPutList mem 0x14000 (fetchEntry (0x1F + 16 * 2 ^ 52) 4)
  let wheel : Wheel := ⟨List.replicate 32 (fetchThread header), false, 0, Fences.start, 0, none, none, none, none⟩
  let mill : Mill :=
    { uid := 1, gang := 1, f2 := 0, core := 0, st := .running, aborted := false, wheels := [wheel], sregs := [], claims := [], uniPoison := [], behind := [],
      tables := List.replicate 8 ((List.range 32).map fun i => BitVec.ofNat 8 i), ports := List.replicate 32 Port.default,
      pats := List.replicate 16 ⟨0, 0, 0⟩, flume := Flume.start, ctxs := [WalkCtx.start, WalkCtx.start], bud := 800000,
      closed := false, lastEng := FaultRec.zero, engCount := 0, scratch := 1024, acc := 0,
      claimed := false, frozen := false, err := none, rowMarks := [], lateRecs := [], area := none }
  { s with
    mem := mem
    lineKeys := sput 0 (sput 0 s.lineKeys 0x10000 (s.kidGen 16)) 0x10001 (s.kidGen 16)
    poison := []
    posted := []
    tlb := []
    tlb2 := []
    reqs := []
    grids := [⟨1, 0, 0, 1, true, fetchLaunch, List.replicate 16 0, [], [], [], 0, 1, 1, false⟩]
    gangs := [⟨1, 1, 0, .resident, 0, 0, 0, false, none, false, [1]⟩]
    mills := [mill]
    parts := setAt s.parts 0 { Partition.zero with
      valid := true, clusters := 1, hbmSize := 0x400000000, keyFirst := 16, keyCount := 16, qCount := 1,
      tdisp := .run, engs := [⟨0, [16], [], [], [], [], [], 0⟩] }
    queues := sput Queue.zero s.queues 0 { Queue.zero with root := 0x10000, ctrl := 1, logsz := 8, state := 0 }
    agenda := []
    picks := []
    code := []
    cur := .wheel 1 0 }

end Sys2Proof.Machine
end

