-- ==== Sys2Proof/Safety.lean ====
section
/-! DEFINITION. The vocabulary of the statements: the memory's canonical form, what an issue leaves alone, and when a word
issues with no lane stopped (spec/02 R14, R24-R31; spec/03 R46; spec/08 R155). -/

namespace Sys2Proof.Machine

/-- The invariant of the machine: memory is in canonical form (no listed zero byte, addresses rising). -/
def State.Safe (s : State) : Prop := Memory.wf s.mem = true

/-- A thread without what going on to the next word changes: its PC, clause and latch, the place of its last transfer, the loop buffer and
buffer mode, the wait at `syncw`, the marks of a stalled or restarted word, and posted faults waiting for a header. All of its registers,
guards, system registers, depth, fault records and outstanding instructions stay; of its wheel, all but the end of a wait that held it
(R235, R247, R325). -/
def Thread.kept (t : Thread) : Thread :=
  { t with
    pc := 0, clause := none, latch := [], loopBuf := [], bufMode := false, waiting := false, refused := [], blocked := false,
    entryDue := false, armed := none, resumed := none, posted := [], jumped := 0 }
def Wheel.kept (w : Wheel) : Wheel :=
  { w with threads := w.threads.map Thread.kept, fences := { w.fences with stall := none }, posting := none }
def Mill.kept (m : Mill) : Mill := { m with wheels := m.wheels.map Wheel.kept }
def FeCore.kept (c : FeCore) : FeCore := { c with thread := c.thread.kept, fences := { c.fences with stall := none } }
/-- The machine without that, without the slice-end marks of R201 and without link responses that a replayed read has used:
memory, every register and every unit stay. Two states with equal `kept` differ in nothing else. -/
def State.kept (s : State) : State :=
  { s with
    mills := s.mills.map Mill.kept
    fe := s.fe.map FeCore.kept
    gangs := s.gangs.map fun g => { g with yield := false }
    txns := [] }

/-- The state in which the current agent's next word issues (R158), its issuing lanes (R155), and those that take part: their
guard test passes and no check of R46 stops them. -/
def State.ready (st : State) : State := st.leaveBuffers st.cur
def State.lanes (st : State) : List Nat := st.ready.group st.cur
def State.takers (st : State) (op : BitVec 8) (f : Fields) (sh : Shape) : List Nat :=
  st.lanes.filter fun l => st.ready.checkLane st.cur op f sh l == .go

/-- A word issues in the current agent, some lane takes part, and none is stopped: every lane of the issue passes the checks
of R46 or fails its guard test, uniform destinations are claimed (R162), and no restart mask is in force (R349). -/
structure State.Issues (st : State) (op : BitVec 8) (f : Fields) (sh : Shape) : Prop where
  some    : st.takers op f sh ≠ []
  pass    : ∀ l ∈ st.lanes, st.ready.checkLane st.cur op f sh l = .go ∨ st.ready.checkLane st.cur op f sh l = .skip
  claimed : st.ready.unclaimed st.cur (ownFields f sh) sh = false
  fresh   : ∀ l ∈ st.lanes, (st.ready.thread st.cur l).armed = none

/-- The PC of the issue, and of the next word (R25, R35). -/
def State.pcNow (st : State) : DWord := (st.ready.thread st.cur (st.lanes.headD 0)).pc
def State.pcNext (st : State) (f : Fields) : DWord := st.pcNow + BitVec.ofNat 64 (lenBytes f.len)

/-- What the operation of the word is given. -/
def State.ctx (st : State) (op : BitVec 8) (f : Fields) (sh : Shape) : Ctx :=
  ⟨st.cur, ownFields f sh, st.pcNow, st.pcNext f, st.takers op f sh, st.takers op f sh, [], st.ready⟩

/-- Every lane of the issue goes on to the next word, and no other lane moves (R25, R155). -/
def State.wentOn (st : State) (f : Fields) (t : State) : Prop :=
  ∀ l, (t.thread st.cur l).pc = if l ∈ st.lanes then st.pcNext f else (st.ready.thread st.cur l).pc

/-- D of each participant takes words computed from the state before, and `fstat` gains flags (R69, R72). -/
def Ctx.writes (x : Ctx) (val : Nat → List Word) (fl : Nat → BitVec 5 := fun _ => 0) : State :=
  x.todo.foldl (fun s l => (s.putD x.a x.f l x.lowest (val l)).modThread x.a l fun t => t.raise (fl l)) x.s0
/-- Each participant has a long-latency instruction in flight that will write those words to D and raise those flags (R24, R75). -/
def Ctx.begins (x : Ctx) (val : Nat → List Word) (fl : Nat → BitVec 5 := fun _ => 0) : State :=
  x.todo.foldl (fun s l => s.longD x.a x.f l x.lowest (val l) (fl l)) x.s0
/-- Each participant has an instruction in flight that will give D the value it reads at a moment until its completion (R279, R297, R326). -/
def Ctx.looks (x : Ctx) (k : Nat → Look) : State := x.todo.foldl (fun s l => s.longLook x.a x.f l x.lowest (k l)) x.s0
/-- A guard of each participant takes a truth value, and `fstat` gains flags (R40, R87). -/
def Ctx.guards (x : Ctx) (k : Nat) (val : Nat → Bool) (fl : Nat → BitVec 5 := fun _ => 0) : State :=
  x.todo.foldl (fun s l => s.modThread x.a l fun t => (t.setGuard k (val l)).raise (fl l)) x.s0
/-- A 32-bit result, or the pair of a `.d` form (R73). -/
def Ctx.out (x : Ctx) (w : Word) (d : DWord) : List Word := if isD x.f then [d.lo, d.hi] else [w]

/-- A long-latency instruction's results land, and it is no longer in flight (R24); a thread that has exited discards them (R108). -/
def State.landed (s : State) (a : Agent) (lane : Nat) (o : LongOp) : State :=
  let t := s.modThread a lane fun t => t.finishLong o
  if (s.thread a lane).exited then t
  else o.writes.foldl (fun t w => match w.1 with
    | .uni n => t.uniPut a lane n w.2
    | _ => t) t
/-- An instruction in flight that is to read `k` of its mill completes with the value that the mill has then, in its pair; the read
changes nothing. -/
def ReadsOn (k : Look) (val : Mill → Nat) : Prop :=
  ∀ (s : State) (a : Agent) (lane id : Nat) (o : LongOp) (m : Mill), (s.thread a lane).long.find? (·.id == id) = some o →
    o.look = some k → o.wait = none → o.parts = [] → a.mill.bind s.mill? = some m →
    exec (.longLatencyComplete a lane id) s = .next (s.landed a lane { o with
      look := none, writes := (o.writes.map Prod.fst).zip [BitVec.ofNat 32 (val m), BitVec.ofNat 32 (val m / 2 ^ 32)] })

/-- Whenever the word issues with no lane stopped, its execution is a next state that differs from `effect` in going on alone:
it completes, with that effect and no other. -/
def Completes (i : Fields → Instr) (op : BitVec 8) (shape : Fields → Agent → Shape) (effect : Ctx → State) : Prop :=
  ∀ f st, st.Issues op f (shape f st.cur) →
    ∃ t, exec (i f) st = .next t ∧ t.kept = (effect (st.ctx op f (shape f st.cur))).kept ∧ st.wentOn f t
/-- The same for a word that completes when a condition on the state and its operands holds. -/
def CompletesWhen (i : Fields → Instr) (op : BitVec 8) (shape : Fields → Agent → Shape) (ok : Ctx → Prop) (effect : Ctx → State) : Prop :=
  ∀ f st, st.Issues op f (shape f st.cur) → ok (st.ctx op f (shape f st.cur)) →
    ∃ t, exec (i f) st = .next t ∧ t.kept = (effect (st.ctx op f (shape f st.cur))).kept ∧ st.wentOn f t
/-- While a condition holds, the word waits: no lane moves, nothing is done, and the word stalls its wheel (R198, R235, R247, R298, R325,
R374). -/
def WaitsWhen (i : Fields → Instr) (op : BitVec 8) (shape : Fields → Agent → Shape) (held : Ctx → Prop) : Prop :=
  ∀ f st, st.Issues op f (shape f st.cur) → held (st.ctx op f (shape f st.cur)) →
    ∃ t, exec (i f) st = .next t ∧ t.kept = st.ready.kept ∧ (t.fences st.cur).stall = some st.cur ∧
      ∀ l, (t.thread st.cur l).pc = (st.ready.thread st.cur l).pc
/-- The same for an operation that acts lane by lane, lowest first, on the machine as the lower lanes leave it (R349): it completes
whenever every participant's part passes. -/
def CompletesEach (i : Fields → Instr) (op : BitVec 8) (shape : Fields → Agent → Shape)
    (act : Ctx → State → Nat → Except AErr State) : Prop :=
  ∀ f st s', st.Issues op f (shape f st.cur) →
    (st.ctx op f (shape f st.cur)).todo.foldlM (act (st.ctx op f (shape f st.cur))) st.ready = .ok s' →
    ∃ t, exec (i f) st = .next t ∧ t.kept = s'.kept ∧ st.wentOn f t

/-- The same for a transfer: the operation tells of each participant whether it has set its PC; the other lanes of the issue go on
to the next word (R102-R107). On the broadcast stream a lane that has gone back, within its window, enters buffer mode when its new word is in its
loop buffer and its PC is not the lowest of the lanes that have not gone back, or of those that have where no other counts (R158). -/
def CompletesJump (i : Fields → Instr) (op : BitVec 8) (shape : Fields → Agent → Shape)
    (act : Ctx → State → Nat → Except AErr (State × Bool)) : Prop :=
  ∀ f st s' moved, st.Issues op f (shape f st.cur) →
    (st.ctx op f (shape f st.cur)).todo.foldlM (fun (r : State × List Nat) l => do
      let q ← act (st.ctx op f (shape f st.cur)) r.1 l
      pure (q.1, if q.2 then r.2 ++ [l] else r.2)) (st.ready, []) = .ok (s', moved) →
    ∃ t, exec (i f) st = .next t ∧ t.kept = s'.kept ∧
      (∀ l, (t.thread st.cur l).pc = if l ∈ st.lanes ∧ l ∉ moved then st.pcNext f else (s'.thread st.cur l).pc) ∧
      ∀ u w, st.cur = .wheel u w →
        let back := moved.filter fun l => decide ((t.thread st.cur l).pc.toNat < st.pcNow.toNat) &&
          (t.thread st.cur l).depth == (st.ready.thread st.cur l).depth
        let counts := fun (l : Nat) => ({ t.thread st.cur l with
          bufMode := (s'.thread st.cur l).bufMode, waiting := (s'.thread st.cur l).waiting } : Thread).counts
        let away := (List.range (st.threads st.cur).length).filter fun l => !back.contains l && counts l
        let seen := if away = [] then back.filter counts else away
        ∀ l, (t.thread st.cur l).bufMode = true ↔ (s'.thread st.cur l).bufMode = true ∨
          l ∈ back ∧ ((t.thread st.cur l).bufWord (t.thread st.cur l).pc).isSome ∧
            ∃ k ∈ seen, (∀ j ∈ seen, (t.thread st.cur k).pc.toNat ≤ (t.thread st.cur j).pc.toNat) ∧ (t.thread st.cur l).pc ≠ (t.thread st.cur k).pc

/-- The thread with what it has in flight completed, as a trap entry completes it (R24, R28): of use where nothing is read any more. -/
def Thread.landAll (t : Thread) : Thread := t.long.foldl Thread.finishLong t
/-- A thread can enter the handler of a class at once: its vector entry is valid and names a header, what it has in flight waits for nothing and
writes no uniform register, it keeps no record in memory, and its pool has room for one more window (R15, R28, R29). -/
structure State.CanEnter (s : State) (a : Agent) (l cls : Nat) (hpc : DWord) : Prop where
  vector : ∃ u h, s.vector a l cls = .ok (some hpc, u) ∧ u.fetchHeader a l hpc = .ok h
  quiet  : ∀ o ∈ (s.thread a l).long, o.wait = none ∧ o.parts = [] ∧ o.look = none ∧ ∀ n v, (Dst.uni n, v) ∉ o.writes
  norec  : (s.thread a l).sys.frp &&& ~~~63 = 0
  room   : (s.thread a l).winPending = false ∧ (s.thread a l).depth + 2 - (s.thread a l).low ≤ s.poolWindows a

/-- The lanes enter handlers one after another: each can, with what the reads of the lower ones have left in the TLBs and the monitors. -/
def State.CanEnterAll (a : Agent) (cls : Nat → Nat) (hpc : Nat → DWord) : List Nat → State → Prop
  | [], _ => True
  | l :: ls, s => s.CanEnter a l (cls l) (hpc l) ∧
      ∀ u, s.vector a l (cls l) = .ok (some (hpc l), u) → State.CanEnterAll a cls hpc ls (u.keepFetch a l (hpc l))
/-- The lanes have entered the handlers of their faults, `pc` being the word they were at: `tpc`, `tcause` with the place, the record kept and
counted, what was in flight landed, the depth one more with v8-v31 reading zero, a `yield` of the clause that has been left kept with it; nothing else has changed but
what the reads of the vectors leave in the TLBs and the monitors (R28-R30, R201, R352). -/
def State.Entered (s : State) (a : Agent) (pc : DWord) (lanes : List Nat) (fi : Nat → FaultInfo) (hpc : Nat → DWord) (t : State) : Prop :=
  ({ t with tlb := s.tlb, tlb2 := s.tlb2, parts := s.parts } : State).kept =
    (lanes.foldl (fun u l => u.modThread a l fun x =>
      let x := x.landAll
      let place := match x.clause with
        | some c => c.idx % 64 + 2 ^ 8 * ((pc - c.hdr).toNat / 4 % 2 ^ 8)
        | none => 63
      { x with
        depth := x.depth + 1
        stack := sclear x.stack (24 * (x.depth + 1) + 8) (24 * (x.depth + 1) + 32)
        regPoison := x.regPoison.filter fun k => k < 24 * (x.depth + 1) + 8 || 24 * (x.depth + 1) + 32 ≤ k
        lastRec := s.mkRec a l (fi l) pc 0
        recCount := x.recCount + 1
        yields := (match x.clause with
          | some c => if c.yld then [(x.depth + 1, pc)] else []
          | none => []) ++ x.yields.filter (·.1 != x.depth + 1)
        sys := { x.sys with
          tpc := pc
          tcause := BitVec.ofNat 64 ((fi l).cls % 256 + 2 ^ 8 * ((fi l).sub % 256) + 2 ^ 16 * place) } }) s).kept ∧
  ∀ l ∈ lanes, (t.thread a l).pc = hpc l ∧ (t.thread a l).clause = none

/-- Where a thread stands for `tcause` after its next word: index in the clause and words from the header; 63 and 0 when a header is
due (R25, R30). -/
def Thread.nextPlace (t : Thread) (next : DWord) : Nat × Nat :=
  match t.clause with
  | some c => if c.idx + 1 < c.count then ((c.idx + 1) % 64, (next - c.hdr).toNat / 4 % 256) else (63, 0)
  | none => (63, 0)

end Sys2Proof.Machine
end

