-- ==== Sys2Proof/Certificates/Slice0/Obligations.lean ====
section
/-! DEFINITION. The statements for the provers, from the numbered rules of the spec. -/

open Sys2Proof Sys2Proof.Machine

/-! ### Integer and bit words (spec/05) -/

/-- R47, R76: `nop` does nothing; `mov`, `sel` and `lea` write a, a or b by the guard, and a + (b << s) + c. -/
def Obligations.MovesWriteTheSelectedSource : Prop :=
  Completes .nop 0x00 (fun _ _ => {}) (fun x => x.s0) ∧
  Completes .mov 0x01 shape1 (fun x => x.writes fun l => x.out (x.w l .A) (x.dw l .A)) ∧
  Completes .sel 0x02 (fun f _ => { d := wUse f, a := wUse f, b := wUse f, gRead := [f.mod.toNat % 8] })
    (fun x => x.writes fun l =>
      if xor ((x.thread l).guard (x.f.mod.toNat % 8)) (x.f.mod.getLsbD 3) then x.out (x.w l .A) (x.dw l .A)
      else x.out (x.w l .B) (x.dw l .B)) ∧
  Completes .lea 0x03 (fun f a => { shape3 f a with modOk := f.mod.toNat % 8 ≤ 4 })
    (fun x => x.writes fun l =>
      x.out (x.w l .A + x.w l .B <<< (x.f.mod.toNat % 8) + x.w l .C) (x.dw l .A + x.dw l .B <<< (x.f.mod.toNat % 8) + x.dw l .C))

/-- R77: `add` and `sub` modulo 2^w, or clamped to the signed (SUB 4) or unsigned (SUB 6) range of 32 bits. And:
R78: `addc` and `subb` write the result modulo 2^w, then the carry or borrow out to the guard of MOD[5:3]; the carry in is
the guard of MOD[2:0], or 0 for field value 0. -/
def Obligations.AdditionsWrapSaturateAndCarry : Prop :=
  (Completes .add 0x04 shape2
    (fun x => x.writes fun l =>
      if x.f.sub = 4 then [BitVec.ofInt 32 (max (-2 ^ 31) (min (2 ^ 31 - 1) ((x.w l .A).toInt + (x.w l .B).toInt)))]
      else if x.f.sub = 6 then [BitVec.ofNat 32 (min (2 ^ 32 - 1) ((x.w l .A).toNat + (x.w l .B).toNat))]
      else x.out (x.w l .A + x.w l .B) (x.dw l .A + x.dw l .B)) ∧
  Completes .sub 0x05 shape2
    (fun x => x.writes fun l =>
      if x.f.sub = 4 then [BitVec.ofInt 32 (max (-2 ^ 31) (min (2 ^ 31 - 1) ((x.w l .A).toInt - (x.w l .B).toInt)))]
      else if x.f.sub = 6 then [BitVec.ofNat 32 ((x.w l .A).toNat - (x.w l .B).toNat)]
      else x.out (x.w l .A - x.w l .B) (x.dw l .A - x.dw l .B))) ∧
  (let cin := fun (x : Ctx) (l : Nat) => x.f.mod.toNat % 8 ≠ 0 ∧ (x.thread l).guard (x.f.mod.toNat % 8) = true
  Completes .addc 0x06 carryShape (fun x => x.todo.foldl (fun s l =>
    (s.putD x.a x.f l x.lowest (x.out (x.w l .A + x.w l .B + if cin x l then 1 else 0) (x.dw l .A + x.dw l .B + if cin x l then 1 else 0))).modThread
      x.a l fun t => t.setGuard (x.f.mod.toNat / 8 % 8)
        (if isD x.f then decide ((x.dw l .A).toNat + (x.dw l .B).toNat + (if cin x l then 1 else 0) ≥ 2 ^ 64)
         else decide ((x.w l .A).toNat + (x.w l .B).toNat + (if cin x l then 1 else 0) ≥ 2 ^ 32))) x.s0) ∧
  Completes .subb 0x07 carryShape (fun x => x.todo.foldl (fun s l =>
    (s.putD x.a x.f l x.lowest (x.out (x.w l .A - x.w l .B - if cin x l then 1 else 0) (x.dw l .A - x.dw l .B - if cin x l then 1 else 0))).modThread
      x.a l fun t => t.setGuard (x.f.mod.toNat / 8 % 8)
        (if isD x.f then decide ((x.dw l .A).toNat < (x.dw l .B).toNat + (if cin x l then 1 else 0))
         else decide ((x.w l .A).toNat < (x.w l .B).toNat + (if cin x l then 1 else 0)))) x.s0))

/-- R79: the low half of a product, the high half (signed, or unsigned with SUB bit 1), and a product plus c. -/
def Obligations.MultiplicationsWriteHalfProducts : Prop :=
  let u := fun (x : Ctx) => x.f.sub.getLsbD 1
  Completes .mul 0x08 shape2
    (fun x => x.writes fun l => x.out (x.w l .A * x.w l .B) (x.dw l .A * x.dw l .B)) ∧
  Completes .mulh 0x09 shape2
    (fun x => x.writes fun l => x.out
      (if u x then BitVec.ofNat 32 ((x.w l .A).toNat * (x.w l .B).toNat / 2 ^ 32)
       else BitVec.ofInt 32 ((x.w l .A).toInt * (x.w l .B).toInt / 2 ^ 32))
      (if u x then BitVec.ofNat 64 ((x.dw l .A).toNat * (x.dw l .B).toNat / 2 ^ 64)
       else BitVec.ofInt 64 ((x.dw l .A).toInt * (x.dw l .B).toInt / 2 ^ 64))) ∧
  Completes .mad 0x0A shape3
    (fun x => x.writes fun l => x.out (x.w l .A * x.w l .B + x.w l .C) (x.dw l .A * x.dw l .B + x.dw l .C))

/-- R75, R80: `div` and `rem` go into flight with the truncated quotient and the remainder of the dividend's sign; a zero divisor
gives all ones and the dividend; the most negative number by -1 gives itself and 0. -/
def Obligations.DivisionsBeginWithTruncatedResults : Prop :=
  let u := fun (x : Ctx) => x.f.sub.getLsbD 1
  Completes .div 0x0B shape2
    (fun x => x.begins fun l => x.out
      (if x.w l .B = 0 then -1 else if u x then (x.w l .A).udiv (x.w l .B) else (x.w l .A).sdiv (x.w l .B))
      (if x.dw l .B = 0 then -1 else if u x then (x.dw l .A).udiv (x.dw l .B) else (x.dw l .A).sdiv (x.dw l .B))) ∧
  Completes .rem 0x0C shape2
    (fun x => x.begins fun l => x.out
      (if x.w l .B = 0 then x.w l .A else if u x then (x.w l .A).umod (x.w l .B) else (x.w l .A).srem (x.w l .B))
      (if x.dw l .B = 0 then x.dw l .A else if u x then (x.dw l .A).umod (x.dw l .B) else (x.dw l .A).srem (x.dw l .B))) ∧
  (∀ a b : Word, b ≠ 0 → (a.sdiv b).toInt = (if a = 0x80000000 ∧ b = -1 then -2 ^ 31 else a.toInt.tdiv b.toInt) ∧
    (a.srem b).toInt = (if a = 0x80000000 ∧ b = -1 then 0 else a.toInt.tmod b.toInt)) ∧
  (∀ a b : DWord, b ≠ 0 → (a.sdiv b).toInt = (if a = 0x8000000000000000 ∧ b = -1 then -2 ^ 63 else a.toInt.tdiv b.toInt) ∧
    (a.srem b).toInt = (if a = 0x8000000000000000 ∧ b = -1 then 0 else a.toInt.tmod b.toInt))

/-- R81: the smaller and the larger of a and b, signed or unsigned (SUB bit 1); the absolute value and 0 - a modulo 2^w. And:
R87-R89: `cmp` writes the truth of a comparison to a guard, `gop` combines two guards, `gmov` moves the guards to a
register and back; bit 0 of the register reads 1 and is ignored. -/
def Obligations.MinMaxComparesAndGuardMoves : Prop :=
  (let lt := fun (w : Nat) (x : Ctx) (p q : BitVec w) => if x.f.sub.getLsbD 1 then decide (p.toNat < q.toNat) else decide (p.toInt < q.toInt)
  Completes .min 0x0D shape2 (fun x => x.writes fun l => x.out
      (if lt 32 x (x.w l .B) (x.w l .A) then x.w l .B else x.w l .A) (if lt 64 x (x.dw l .B) (x.dw l .A) then x.dw l .B else x.dw l .A)) ∧
  Completes .max 0x0E shape2 (fun x => x.writes fun l => x.out
      (if lt 32 x (x.w l .A) (x.w l .B) then x.w l .B else x.w l .A) (if lt 64 x (x.dw l .A) (x.dw l .B) then x.dw l .B else x.dw l .A)) ∧
  Completes .abs 0x0F shape1
    (fun x => x.writes fun l => x.out (BitVec.ofNat 32 (x.w l .A).toInt.natAbs) (BitVec.ofNat 64 (x.dw l .A).toInt.natAbs)) ∧
  Completes .neg 0x10 shape1 (fun x => x.writes fun l => x.out (-x.w l .A) (-x.dw l .A))) ∧
  (let holds := fun (cc : Nat) (p q : Int) => match cc with
    | 0 => decide (p = q)
    | 1 => decide (p ≠ q)
    | 2 => decide (p < q)
    | 3 => decide (p ≤ q)
    | 4 => decide (p > q)
    | _ => decide (p ≥ q)
  Completes .cmp 0x20 (fun f _ =>
      { a := if f.sub.getLsbD 4 then .pair else .word, b := if f.sub.getLsbD 4 then .pair else .word, gWrite := [f.d.toNat % 8] })
    (fun x => x.guards (x.f.d.toNat % 8) fun l => holds (x.f.sub.toNat % 8)
      (if x.f.sub.getLsbD 4 then (if x.f.sub.getLsbD 3 then ((x.dw l .A).toNat : Int) else (x.dw l .A).toInt)
        else if x.f.sub.getLsbD 3 then ((x.w l .A).toNat : Int) else (x.w l .A).toInt)
      (if x.f.sub.getLsbD 4 then (if x.f.sub.getLsbD 3 then ((x.dw l .B).toNat : Int) else (x.dw l .B).toInt)
        else if x.f.sub.getLsbD 3 then ((x.w l .B).toNat : Int) else (x.w l .B).toInt)) ∧
  Completes .gop 0x21 (fun f _ => { gRead := [f.a.toNat % 8, f.b.toNat % 8], gWrite := [f.d.toNat % 8], guardSrc := true })
    (fun x => x.guards (x.f.d.toNat % 8) fun l =>
      let p := (x.thread l).guard (x.f.a.toNat % 8)
      let q := (x.thread l).guard (x.f.b.toNat % 8)
      match x.f.sub.toNat with
      | 0 => p && q
      | 1 => p || q
      | 2 => xor p q
      | 3 => p && !q
      | _ => p || !q) ∧
  Completes .gmov 0x22
    (fun f _ => if f.sub = 0 then { d := .word, gRead := [1, 2, 3, 4, 5, 6, 7] } else { a := .word, gWrite := [1, 2, 3, 4, 5, 6, 7] })
    (fun x => if x.f.sub = 0 then x.writes fun l => [((x.thread l).guards ||| 1).setWidth 32]
      else x.todo.foldl (fun s l => s.modThread x.a l fun t =>
        { t with guards := (x.w l .A).setWidth 8 &&& 0xFE ||| t.guards &&& 1 }) x.s0))

/-- R82: the logic words act on every bit. And:
R83, R84: shifts by an unsigned count, all bits gone at the width and above; a rotation by the count modulo the width; the
funnel shift of a 64-bit value by the count modulo 32. -/
def Obligations.LogicAndShiftsWriteTheirResults : Prop :=
  (Completes .and 0x11 shape2 (fun x => x.writes fun l => x.out (x.w l .A &&& x.w l .B) (x.dw l .A &&& x.dw l .B)) ∧
  Completes .or 0x12 shape2 (fun x => x.writes fun l => x.out (x.w l .A ||| x.w l .B) (x.dw l .A ||| x.dw l .B)) ∧
  Completes .xor 0x13 shape2 (fun x => x.writes fun l => x.out (x.w l .A ^^^ x.w l .B) (x.dw l .A ^^^ x.dw l .B)) ∧
  Completes .andn 0x14 shape2 (fun x => x.writes fun l => x.out (x.w l .A &&& ~~~x.w l .B) (x.dw l .A &&& ~~~x.dw l .B)) ∧
  Completes .not 0x15 shape1 (fun x => x.writes fun l => x.out (~~~x.w l .A) (~~~x.dw l .A))) ∧
  (Completes .shl 0x16 shape2 (fun x => x.writes fun l => x.out
    (if x.w l .B < 32 then x.w l .A <<< (x.w l .B).toNat else 0) (if x.dw l .B < 64 then x.dw l .A <<< (x.dw l .B).toNat else 0)) ∧
  Completes .shr 0x17 shape2 (fun x => x.writes fun l => x.out (x.w l .A >>> (x.w l .B).toNat) (x.dw l .A >>> (x.dw l .B).toNat)) ∧
  Completes .sar 0x18 shape2 (fun x => x.writes fun l =>
    x.out ((x.w l .A).sshiftRight (x.w l .B).toNat) ((x.dw l .A).sshiftRight (x.dw l .B).toNat)) ∧
  Completes .rot 0x19 shape2 (fun x => x.writes fun l =>
    x.out ((x.w l .A).rotateLeft (x.w l .B).toNat) ((x.dw l .A).rotateLeft (x.dw l .B).toNat)) ∧
  Completes .fsh 0x1A (fun _ _ => { d := .word, a := .word, b := .word, c := .word })
    (fun x => x.writes fun l =>
      let v : DWord := (x.w l .A).setWidth 64 <<< 32 ||| (x.w l .B).setWidth 64
      let n := (x.w l .C).toNat % 32
      [if x.f.sub = 2 then (v >>> n).setWidth 32 else (v <<< n >>> 32).setWidth 32]))

/-- R85: the leading zeros (w for 0), the 1 bits, and the bits in reverse order; the odd register of a count is 0. And:
R86: `bfx` extracts the field at p2 of length L2, sign-extended from its own top bit unless `.u`; `bfi` puts b there. -/
def Obligations.BitCountsAndBitFieldsWriteTheirResults : Prop :=
  (let lead := fun (w n : Nat) => if n = 0 then w else w - 1 - Nat.log2 n
  let ones := fun (w n : Nat) => ((List.range w).filter fun i => n.testBit i).length
  Completes .clz 0x1B shape1 (fun x => x.writes fun l =>
    x.out (BitVec.ofNat 32 (lead 32 (x.w l .A).toNat)) (BitVec.ofNat 64 (lead 64 (x.dw l .A).toNat))) ∧
  Completes .popc 0x1C shape1 (fun x => x.writes fun l =>
    x.out (BitVec.ofNat 32 (ones 32 (x.w l .A).toNat)) (BitVec.ofNat 64 (ones 64 (x.dw l .A).toNat))) ∧
  Completes .brev 0x1D shape1 (fun x => x.writes fun l => x.out (x.w l .A).reverse (x.dw l .A).reverse)) ∧
  (let p2 := fun (w pl : Nat) => min (pl % 256) w
  let l2 := fun (w pl : Nat) => min (pl / 256 % 256) (w - p2 w pl)
  let bfx := fun (x : Ctx) (w a pl : Nat) =>
    let f : Int := a / 2 ^ p2 w pl % 2 ^ l2 w pl
    if l2 w pl = 0 then (0 : Int)
    else if x.f.sub.getLsbD 1 = false ∧ f ≥ 2 ^ (l2 w pl - 1) then f - 2 ^ l2 w pl else f
  let mask := fun (w pl : Nat) => (BitVec.ofNat w ((2 ^ l2 w pl - 1) * 2 ^ p2 w pl))
  let bfi := fun (w : Nat) (a b : BitVec w) (pl : Nat) => a &&& ~~~mask w pl ||| b <<< p2 w pl &&& mask w pl
  Completes .bfx 0x1E shape2
    (fun x => x.writes fun l => x.out (BitVec.ofInt 32 (bfx x 32 (x.w l .A).toNat (x.w l .B).toNat))
      (BitVec.ofInt 64 (bfx x 64 (x.dw l .A).toNat (x.dw l .B).toNat))) ∧
  Completes .bfi 0x1F shape3
    (fun x => x.writes fun l => x.out (bfi 32 (x.w l .A) (x.w l .B) (x.w l .C).toNat) (bfi 64 (x.dw l .A) (x.dw l .B) (x.dw l .C).toNat)))

/-! ### Number formats and floating-point words (spec/04, spec/05) -/

/-- R64, R66: RoundTo of an exact value x = (-1)^neg * m * 2^e, in each format and mode: the neighbours of |x| at the spacing of
codes there, the one that the mode takes, and the overflow past the largest finite value. Inexact when the result differs from x,
underflow when it also lies below the smallest normal (R69). -/
def Obligations.RoundToDeliversTheCodeTheModeSelects : Prop :=
  ∀ (f : Fmt) (inf : Bool) (mode : RMode) (neg : Bool) (m : Nat) (e : Int),
    f ∈ [fp32, fp16, bf16, e5m2, e4m3, e2m1] → (f = e5m2 ∨ inf = f.overInf) → m ≠ 0 →
    let mag := fun (v : FV) => match v with
      | .fin _ n k => (n : ℚ) * 2 ^ k
      | _ => 0
    let x : ℚ := m * 2 ^ e
    let k := max (Int.log 2 x) f.emin
    let q : ℚ := 2 ^ (k - f.mbits)
    let lo : ℚ := ⌊x / q⌋ * q
    let y : ℚ :=
      if lo = x then x
      else match mode with
        | .rne => if x - lo < lo + q - x then lo else if x - lo > lo + q - x then lo + q else if ⌊x / q⌋ % 2 = 0 then lo else lo + q
        | .rtz => lo
        | .rup => if neg then lo else lo + q
        | .rdn => if neg then lo + q else lo
    let r := roundTo f inf mode neg m e
    if y > mag (f.val f.maxC) then
      r.flags = fOverflow ||| fInexact ∧
      r.code = f.code neg (if inf then (match mode, neg with
        | .rne, _ => f.infC
        | .rtz, _ => f.maxC
        | .rup, false => f.infC
        | .rup, true => f.maxC
        | .rdn, false => f.maxC
        | .rdn, true => f.infC) else f.maxC)
    else
      (∃ c, r.code = f.code neg c ∧ c ≤ f.maxC ∧ mag (f.val c) = y) ∧
      r.flags = (if y ≠ x then fInexact ||| (if x < 2 ^ f.emin then fUnderflow else 0) else 0)

/-- R67, R91, R92, R101: the sums and products of the floating-point words, each formed exactly and rounded once in the word's mode and
flush; `fscl` scales by 2^b; the packed words do the same in each half, never flushed, the flags of both halves together. And what
a sum of products and addends, and a product, give for finite terms: the exact rational result rounded once, or the zero of R91. -/
def Obligations.FloatArithmeticRoundsTheExactResultOnce : Prop :=
  let one := fun (x : Ctx) (r : Nat → FRes) => x.writes (fun l => [BitVec.ofNat 32 (r l).code]) fun l => (r l).flags
  let md := fun (x : Ctx) (l : Nat) => (x.thread l).mode x.f
  let fl := fun (x : Ctx) (l : Nat) => (x.thread l).flush x.f
  let src := fun (x : Ctx) (l : Nat) (fld : Fld) => fp32.read (fl x l) (x.w l fld).toNat
  let half := fun (w : Word) (n : Nat) => (w >>> (16 * n)).toNat % 2 ^ 16
  let two := fun (x : Ctx) (r : Fmt → RMode → Nat → Nat → FRes) =>
    let g := fun (l n : Nat) => r (if x.f.sub.getLsbD 0 then fp16 else bf16) ((x.thread l).modeBy (x.f.sub.toNat / 2)) l n
    x.writes (fun l => [BitVec.ofNat 32 ((g l 0).code + 2 ^ 16 * (g l 1).code)]) fun l => (g l 0).flags ||| (g l 1).flags
  Completes .fadd 0x40 word2 (fun x => one x fun l => sumOp fp32 (md x l) (fl x l) [] [src x l .A, src x l .B]) ∧
  Completes .fsub 0x41 word2 (fun x => one x fun l => sumOp fp32 (md x l) (fl x l) [] [src x l .A, (src x l .B).negate]) ∧
  Completes .fmul 0x42 word2 (fun x => one x fun l => mulOp fp32 (md x l) (fl x l) (src x l .A) (src x l .B)) ∧
  Completes .fma 0x43 word3 (fun x => one x fun l => sumOp fp32 (md x l) (fl x l) [(src x l .A, src x l .B)] [src x l .C]) ∧
  Completes .fscl 0x55 word2 (fun x => one x fun l =>
    match src x l .A with
    | .nan sig => ⟨0x7FC00000, if sig then fInvalid else 0⟩
    | .inf neg => ⟨if neg then 0xFF800000 else 0x7F800000, 0⟩
    | .fin neg m e => flushRes (fl x l) (roundTo fp32 true (md x l) neg m (e + (x.w l .B).toInt))) ∧
  Completes .hadd2 0x52 word2 (fun x => two x fun g m l n => sumOp g m false [] [g.val (half (x.w l .A) n), g.val (half (x.w l .B) n)]) ∧
  Completes .hmul2 0x53 word2 (fun x => two x fun g m l n => mulOp g m false (g.val (half (x.w l .A) n)) (g.val (half (x.w l .B) n))) ∧
  Completes .hfma2 0x54 word3 (fun x => two x fun g m l n =>
    sumOp g m false [(g.val (half (x.w l .A) n), g.val (half (x.w l .B) n))] [g.val (half (x.w l .C) n)]) ∧
  (let finite := fun (v : FV) => ∃ n m e, v = .fin n m e
  let val := fun (v : FV) => ((match v with
    | .fin n m e => (if n then -1 else 1) * (m : ℚ) * 2 ^ e
    | _ => 0 : ℚ))
  let neg := fun (v : FV) => match v with
    | .fin n _ _ => n
    | _ => false
  -- the one rounding of an exact result q that is not zero
  let rounds := fun (g : Fmt) (mode : RMode) (flush : Bool) (q : ℚ) (r : FRes) =>
    ∃ (m : Nat) (e : Int), (m : ℚ) * 2 ^ e = |q| ∧ r = flushRes flush (roundTo g g.overInf mode (decide (q < 0)) m e)
  ∀ g ∈ [fp32, fp16, bf16], ∀ (mode : RMode) (flush : Bool), (flush = true → g = fp32) →
    (∀ (prods : List (FV × FV)) (adds : List FV), (∀ p ∈ prods, finite p.1 ∧ finite p.2) → (∀ v ∈ adds, finite v) → prods ≠ [] ∨ adds ≠ [] →
      let q := (prods.map fun p => val p.1 * val p.2).sum + (adds.map val).sum
      let minus := (∀ p ∈ prods, val p.1 * val p.2 = 0 ∧ xor (neg p.1) (neg p.2) = true) ∧ ∀ v ∈ adds, val v = 0 ∧ neg v = true
      (q ≠ 0 → rounds g mode flush q (sumOp g mode flush prods adds)) ∧
      (q = 0 → (minus ∨ mode = .rdn → sumOp g mode flush prods adds = ⟨g.code true 0, 0⟩) ∧
        (¬ (minus ∨ mode = .rdn) → sumOp g mode flush prods adds = ⟨g.code false 0, 0⟩))) ∧
    (∀ a b, finite a → finite b →
      (val a * val b ≠ 0 → rounds g mode flush (val a * val b) (mulOp g mode flush a b)) ∧
      (val a * val b = 0 → mulOp g mode flush a b = ⟨g.code (xor (neg a) (neg b)) 0, 0⟩)) ∧
    ∀ r : FRes, flushRes flush r = if flush ∧ r.code % 2 ^ 31 ≠ 0 ∧ r.code % 2 ^ 31 < 2 ^ 23
      then ⟨r.code / 2 ^ 31 * 2 ^ 31, r.flags ||| fUnderflow ||| fInexact⟩ else r)

/-- R70, R91: the special operands of sums and products, first matching row first: a signalling NaN; zero times infinity; a quiet
NaN; infinities of both signs; an infinity; a zero sum (-0 when every term is -0, or under RDN); a zero product (sign a XOR b). And:
R93-R95: the smaller or larger FP32 source after flush, a NaN giving way to the other source and two NaNs to the canonical one;
the comparison written to a guard; the one-hot class of a source, never flushed. -/
def Obligations.FloatSpecialOperandsOrderAndClass : Prop :=
  (∀ (mode : RMode) (flush : Bool) (a b : FV),
    let sum := sumOp fp32 mode flush [] [a, b]
    let mul := mulOp fp32 mode flush a b
    ((a.isSig ∨ b.isSig) → sum = ⟨0x7FC00000, fInvalid⟩ ∧ mul = ⟨0x7FC00000, fInvalid⟩) ∧
    (∀ n s e, (a = .inf n ∧ b = .fin s 0 e ∨ b = .inf n ∧ a = .fin s 0 e) → mul = ⟨0x7FC00000, fInvalid⟩) ∧
    (¬a.isSig → ¬b.isSig → (a.isNan ∨ b.isNan) → sum = ⟨0x7FC00000, 0⟩ ∧ mul = ⟨0x7FC00000, 0⟩) ∧
    (∀ n, a = .inf n → b = .inf (!n) → sum = ⟨0x7FC00000, fInvalid⟩) ∧
    (∀ n, a = .inf n → b = .inf n → sum = ⟨if n then 0xFF800000 else 0x7F800000, 0⟩) ∧
    (∀ n s m e, (a = .inf n ∧ b = .fin s m e ∨ b = .inf n ∧ a = .fin s m e) → sum = ⟨if n then 0xFF800000 else 0x7F800000, 0⟩) ∧
    (∀ n s, a = .inf n → b = .inf s → mul = ⟨if xor n s then 0xFF800000 else 0x7F800000, 0⟩) ∧
    (∀ n s m e, m ≠ 0 → (a = .inf n ∧ b = .fin s m e ∨ b = .inf n ∧ a = .fin s m e) →
      mul = ⟨if xor n s then 0xFF800000 else 0x7F800000, 0⟩) ∧
    (∀ n s m e, a = .fin n m e → b = .fin s m e → (m = 0 ∨ n ≠ s) →
      sum = ⟨if (m = 0 ∧ n ∧ s) ∨ mode = .rdn then 0x80000000 else 0, 0⟩) ∧
    (∀ n s m m' e e', a = .fin n m e → b = .fin s m' e' → (m = 0 ∨ m' = 0) → mul = ⟨if xor n s then 0x80000000 else 0, 0⟩)) ∧
  (∀ (mode : RMode) (flush : Bool) (a b c : FV),
    let fma := sumOp fp32 mode flush [(a, b)] [c]
    let zeroInf := ∃ n s e, a = .inf n ∧ b = .fin s 0 e ∨ b = .inf n ∧ a = .fin s 0 e
    -- the product is an infinity of that sign
    let infinite := fun (s : Bool) => ¬ zeroInf ∧ ∃ n k, xor n k = s ∧ ((a = .inf n ∧ (b = .inf k ∨ ∃ m e, b = .fin k m e)) ∨
      (b = .inf n ∧ ∃ m e, a = .fin k m e))
    (a.isSig ∨ b.isSig ∨ c.isSig → fma = ⟨0x7FC00000, fInvalid⟩) ∧
    (¬ a.isSig → ¬ b.isSig → ¬ c.isSig → zeroInf → fma = ⟨0x7FC00000, fInvalid⟩) ∧
    (¬ a.isSig → ¬ b.isSig → ¬ c.isSig → ¬ zeroInf → (a.isNan ∨ b.isNan ∨ c.isNan) → fma = ⟨0x7FC00000, 0⟩) ∧
    (∀ s, infinite s → c = .inf (!s) → fma = ⟨0x7FC00000, fInvalid⟩) ∧
    (∀ s, infinite s → (c = .inf s ∨ ∃ n m e, c = .fin n m e) → fma = ⟨if s then 0xFF800000 else 0x7F800000, 0⟩) ∧
    ∀ s n k m m' e e', a = .fin n m e → b = .fin k m' e' → c = .inf s → fma = ⟨if s then 0xFF800000 else 0x7F800000, 0⟩) ∧
  (let nan := fun (c : Nat) => c % 2 ^ 31 > 0x7F800000
  let sig := fun (c : Nat) => c % 2 ^ 31 > 0x7F800000 ∧ c % 2 ^ 23 < 2 ^ 22
  let flushed := fun (x : Ctx) (l : Nat) (c : Nat) =>
    if (x.thread l).flush x.f ∧ c % 2 ^ 31 < 2 ^ 23 then (if c < 2 ^ 31 then 0 else 0x80000000) else c
  -- the order of codes that are no NaN, -0 below +0
  let key := fun (c : Nat) => if c < 2 ^ 31 then (c : Int) else 2 ^ 31 - 1 - (c : Int)
  let pick := fun (less : Bool) (p q : Nat) =>
    if nan p ∧ nan q then 0x7FC00000 else if nan p then q else if nan q then p
    else if less then (if key q < key p then q else p) else (if key q > key p then q else p)
  let a := fun (x : Ctx) (l : Nat) => flushed x l (x.w l .A).toNat
  let b := fun (x : Ctx) (l : Nat) => flushed x l (x.w l .B).toNat
  let inv := fun (p : Prop) [Decidable p] => if p then fInvalid else (0 : BitVec 5)
  -- the value of a code as an integer in units of 2^-149, so that -0 equals +0
  let val := fun (c : Nat) =>
    let m : Nat := if c % 2 ^ 31 < 2 ^ 23 then c % 2 ^ 31 else (2 ^ 23 + c % 2 ^ 23) * 2 ^ (c % 2 ^ 31 / 2 ^ 23 - 1)
    if c < 2 ^ 31 then (m : Int) else -(m : Int)
  Completes .fmin 0x44 word2 (fun x => x.writes (fun l => [BitVec.ofNat 32 (pick true (a x l) (b x l))])
    fun l => inv (sig (a x l) ∨ sig (b x l))) ∧
  Completes .fmax 0x45 word2 (fun x => x.writes (fun l => [BitVec.ofNat 32 (pick false (a x l) (b x l))])
    fun l => inv (sig (a x l) ∨ sig (b x l))) ∧
  Completes .fcmp 0x46 (fun f _ => { a := .word, b := .word, gWrite := [f.d.toNat % 8] })
    (fun x => x.guards (x.f.d.toNat % 8) (fun l =>
      let un := decide (nan (a x l) ∨ nan (b x l))
      match x.f.sub.toNat % 8 with
      | 0 => !un && val (a x l) == val (b x l)
      | 1 => un || val (a x l) != val (b x l)
      | 2 => !un && decide (val (a x l) < val (b x l))
      | 3 => !un && decide (val (a x l) ≤ val (b x l))
      | 4 => !un && decide (val (a x l) > val (b x l))
      | 5 => !un && decide (val (a x l) ≥ val (b x l))
      | 6 => un
      | _ => !un)
      fun l => inv (sig (a x l) ∨ sig (b x l) ∨ (nan (a x l) ∨ nan (b x l)) ∧ x.f.sub.toNat % 8 ∈ [2, 3, 4, 5])) ∧
  Completes .fclass 0x47 word1 (fun x => x.writes fun l =>
    let c := (x.w l .A).toNat
    let m := c % 2 ^ 31
    let pos := decide (c < 2 ^ 31)
    [1 <<< (if nan c then (if sig c then 8 else 9)
      else if m = 0x7F800000 then (if pos then 7 else 0)
      else if m ≥ 2 ^ 23 then (if pos then 6 else 1)
      else if m ≠ 0 then (if pos then 5 else 2)
      else if pos then 4 else 3)]))

/-- R75, R96: the function words go into flight with their function of the source under flush, rounded in the word's mode; the
special sources of R97 deliver the results and flags of its table, and a NaN the canonical NaN; its exact points hold in every mode; and 1/x, the
square root and its reciprocal are rounded correctly at every source in each mode. (How the other functions come to their exact values at ordinary
sources is the model's own way, log 8.) -/
def Obligations.FloatFunctionsBeginWithTheTableOfSpecialSources : Prop :=
  let begin := fun (fn : RealFn) (x : Ctx) =>
    let r := fun l => realFnOp fn ((x.thread l).mode x.f) ((x.thread l).flush x.f) (x.w l .A).toNat
    x.begins (fun l => [BitVec.ofNat 32 (r l).code]) fun l => (r l).flags
  let nI := 0xFF800000
  let pI := 0x7F800000
  let n0 := 0x80000000
  let inv : FRes := ⟨0x7FC00000, fInvalid⟩
  Completes .frcp 0x48 word1 (begin .rcp) ∧
  Completes .frsq 0x49 word1 (begin .rsq) ∧
  Completes .fsqrt 0x4A word1 (begin .sqrt) ∧
  Completes .fex2 0x4B word1 (begin .ex2) ∧
  Completes .flg2 0x4C word1 (begin .lg2) ∧
  Completes .fsin 0x4D word1 (begin .sin) ∧
  Completes .fcos 0x4E word1 (begin .cos) ∧
  (∀ (mode : RMode) (flush : Bool),
    let at' := fun (c : Nat) (rcp rsq sqrt ex2 lg2 sin cos : FRes) =>
      [RealFn.rcp, .rsq, .sqrt, .ex2, .lg2, .sin, .cos].map (fun fn => realFnOp fn mode flush c) = [rcp, rsq, sqrt, ex2, lg2, sin, cos]
    at' nI ⟨n0, 0⟩ inv inv ⟨0, 0⟩ inv inv inv ∧
    at' n0 ⟨nI, fDivZero⟩ ⟨nI, fDivZero⟩ ⟨n0, 0⟩ ⟨0x3F800000, 0⟩ ⟨nI, fDivZero⟩ ⟨n0, 0⟩ ⟨0x3F800000, 0⟩ ∧
    at' 0 ⟨pI, fDivZero⟩ ⟨pI, fDivZero⟩ ⟨0, 0⟩ ⟨0x3F800000, 0⟩ ⟨nI, fDivZero⟩ ⟨0, 0⟩ ⟨0x3F800000, 0⟩ ∧
    at' pI ⟨0, 0⟩ ⟨0, 0⟩ ⟨pI, 0⟩ ⟨pI, 0⟩ ⟨pI, 0⟩ inv inv) ∧
  (∀ (mode : RMode) (flush : Bool) (fn : RealFn) (c : Nat), pI < c % 2 ^ 31 →
    realFnOp fn mode flush c = ⟨0x7FC00000, if c % 2 ^ 23 < 2 ^ 22 then fInvalid else 0⟩) ∧
  (∀ (mode : RMode) (fn : RealFn) (c : Nat), n0 < c → c < nI → fn ∈ [.rsq, .sqrt, .lg2] → realFnOp fn mode false c = inv) ∧
  -- the exact points: powers of two and integers, integers and the halves between them
  (let code := fun (m e : Int) => (finish fp32 .rne false (.fin (decide (m < 0)) m.natAbs e)).code
  let power := fun (n : Int) => if n < -126 then 2 ^ (n + 149).toNat else (n + 127).toNat * 2 ^ 23
  let one := fun (n : Int) => if n % 2 = 0 then 0x3F800000 else 0xBF800000
  (∀ (mode : RMode) (n : Int), -149 ≤ n → n ≤ 127 → realFnOp .lg2 mode false (power n) = ⟨code n 0, 0⟩ ∧
    realFnOp .ex2 mode false (code n 0) = ⟨power n, 0⟩) ∧
  (∀ (mode : RMode) (n : Int), n.natAbs ≤ 2 ^ 24 → (n ≠ 0 → realFnOp .sin mode false (code n 0) = ⟨if 0 < n then 0 else n0, 0⟩) ∧
    realFnOp .cos mode false (code n 0) = ⟨one n, 0⟩) ∧
  (∀ (mode : RMode) (n : Int), (2 * n + 1).natAbs ≤ 2 ^ 24 → realFnOp .sin mode false (code (2 * n + 1) (-1)) = ⟨one n, 0⟩ ∧
    realFnOp .cos mode false (code (2 * n + 1) (-1)) = ⟨0, 0⟩) ∧
  ∀ (mode : RMode) (c : Nat), 0x4B000000 ≤ c → c < pI → realFnOp .sin mode false c = ⟨0, 0⟩ ∧ realFnOp .sin mode false (n0 + c) = ⟨n0, 0⟩ ∧
    (realFnOp .cos mode false c = ⟨0x3F800000, 0⟩ ∨ realFnOp .cos mode false c = ⟨0xBF800000, 0⟩)) ∧
  -- ordinary sources: y is the greatest code whose value is at most the exact result, `low` says that y is nearer to it than y + 1
  (let val := fun (c : Nat) => if c < 2 ^ 23 then c else (2 ^ 23 + c % 2 ^ 23) * 2 ^ (c / 2 ^ 23 - 1)
  let rounds := fun (fn : RealFn) (c y : Nat) (exact low : Prop) [Decidable exact] [Decidable low] =>
    realFnOp fn .rdn false c = ⟨y, if exact then 0 else fInexact⟩ ∧ realFnOp fn .rtz false c = ⟨y, if exact then 0 else fInexact⟩ ∧
    realFnOp fn .rup false c = ⟨if exact then y else y + 1, if exact then 0 else fInexact⟩ ∧
    realFnOp fn .rne false c = ⟨if low then y else y + 1, if exact then 0 else fInexact⟩
  ∀ (c y : Nat), 0 < c → c < pI →
    (val y ^ 2 ≤ val c * 2 ^ 149 → val c * 2 ^ 149 < val (y + 1) ^ 2 →
      rounds .sqrt c y (val y ^ 2 = val c * 2 ^ 149) (4 * (val c * 2 ^ 149) < (val y + val (y + 1)) ^ 2)) ∧
    (val y ^ 2 * val c ≤ 2 ^ 447 → 2 ^ 447 < val (y + 1) ^ 2 * val c →
      rounds .rsq c y (val y ^ 2 * val c = 2 ^ 447) (4 * 2 ^ 447 < (val y + val (y + 1)) ^ 2 * val c)) ∧
    (2 ^ 23 ≤ c → c ≤ 0x7E800000 → val y * val c ≤ 2 ^ 298 → 2 ^ 298 < val (y + 1) * val c →
      rounds .rcp c y (val y * val c = 2 ^ 298) (2 * 2 ^ 298 < (val y + val (y + 1)) * val c)))

/-- R68, R98-R100: `cvt` between the formats of its table, floating results rounded in the word's mode and narrow ones saturated but for
`.inf` into E5M2, integer results clamped to the range, and `frnd` to an integral value with its source's sign. And what a conversion of a
NaN, an infinity and a finite value gives, in a floating-point format and in an integer one. An infinity into a narrow format is the model's
reading (log 29). -/
def Obligations.ConversionsRoundOrClamp : Prop :=
  let fmt := fun (c : Nat) => [fp32, fp16, bf16, e5m2, e4m3, e2m1].getD c fp32
  let width := fun (c : Nat) => [8, 8, 16, 16, 32, 32, 64, 64].getD (c - 8) 8
  let lo := fun (c : Nat) => if c % 2 = 0 then -(2 ^ (width c - 1) : Int) else 0
  let hi := fun (c : Nat) => if c % 2 = 0 then (2 ^ (width c - 1) : Int) - 1 else 2 ^ width c - 1
  let words := fun (c : Nat) (i : Int) => if c ≥ 14 then [BitVec.ofInt 32 i, BitVec.ofInt 32 (i / 2 ^ 32)] else [BitVec.ofInt 32 i]
  -- the bits that the source format reads, as an integer of a format
  let num := fun (c : Nat) (d : DWord) => if c % 2 = 0 then ((d.setWidth (width c)).toInt : Int) else (d.setWidth (width c)).toNat
  Completes .cvt 0x50
    (fun f _ => { d := if f.mod.toNat / 16 % 16 ≥ 14 then .pair else .word, a := if f.mod.toNat % 16 ≥ 14 then .pair else .word,
                  modOk := f.mod.toNat % 16 ∉ [6, 7] && f.mod.toNat / 16 % 16 ∉ [6, 7] })
    (fun x =>
      let p := x.f.mod.toNat % 16
      let q := x.f.mod.toNat / 16 % 16
      let inf := x.f.mod.getLsbD 8 && q == 3
      let raw := fun l => if p ≥ 14 then x.dw l .A else (x.w l .A).setWidth 64
      let md := fun l => (x.thread l).mode x.f
      let fl := fun l => (x.thread l).flush x.f
      let r : Nat → List Word × BitVec 5 := fun l =>
        if p < 8 then
          let v := (fmt p).read (fl l && p == 0) (raw l).toNat
          if q < 8 then
            let r := cvtOp (fmt q) inf (md l) (fl l && q == 0) v
            ([BitVec.ofNat 32 r.code], r.flags)
          else
            let r := toIntOp (md l) (lo q) (hi q) v
            (words q r.1, r.2)
        else if q < 8 then
          let i := num p (raw l)
          let r := roundTo (fmt q) (inf || (fmt q).overInf) (md l) (decide (i < 0)) i.natAbs 0
          ([BitVec.ofNat 32 r.code], r.flags)
        else (words q (max (lo q) (min (hi q) (num p (raw l)))), 0)
      x.writes (fun l => (r l).1) fun l => (r l).2) ∧
  Completes .frnd 0x51 word1
    (fun x =>
      let r : Nat → FRes := fun l =>
        match fp32.read ((x.thread l).flush x.f) (x.w l .A).toNat with
        | .nan sig => ⟨0x7FC00000, if sig then fInvalid else 0⟩
        | .inf neg => ⟨if neg then 0xFF800000 else 0x7F800000, 0⟩
        | .fin neg m e =>
          let i := roundInt ((x.thread l).mode x.f) neg m e
          ⟨(roundTo fp32 true .rne neg i.1.natAbs 0).code, if i.2 then fInexact else 0⟩
      x.writes (fun l => [BitVec.ofNat 32 (r l).code]) fun l => (r l).flags) ∧
  (∀ (g : Fmt) (inf : Bool) (mode : RMode) (flush : Bool),
    (∀ s, cvtOp g inf mode flush (.nan s) = if g.kind = .e2m1 then ⟨0, fInvalid⟩ else ⟨g.nanC, if s then fInvalid else 0⟩) ∧
    (∀ n, cvtOp g inf mode flush (.inf n) = if inf ∨ g.overInf then ⟨g.code n g.infC, 0⟩ else ⟨g.code n g.maxC, fInvalid⟩) ∧
    ∀ n m e, cvtOp g inf mode flush (.fin n m e) = flushRes flush (roundTo g (inf || g.overInf) mode n m e)) ∧
  (let near := fun (mode : RMode) (q : ℚ) => match mode with
    | .rtz => if q < 0 then ⌈q⌉ else ⌊q⌋
    | .rup => ⌈q⌉
    | .rdn => ⌊q⌋
    | .rne => if q - ⌊q⌋ < 1 / 2 ∨ q - ⌊q⌋ = 1 / 2 ∧ ⌊q⌋ % 2 = 0 then ⌊q⌋ else ⌊q⌋ + 1
  ∀ (mode : RMode),
    (∀ (n : Bool) (m : Nat) (e : Int), let q : ℚ := (if n then -1 else 1) * (m : ℚ) * 2 ^ e
      (roundInt mode n m e).1 = near mode q ∧ ((roundInt mode n m e).2 = true ↔ (near mode q : ℚ) ≠ q)) ∧
    ∀ c, 8 ≤ c → c < 16 →
      (∀ s, toIntOp mode (lo c) (hi c) (.nan s) = (0, fInvalid)) ∧
      (∀ n, toIntOp mode (lo c) (hi c) (.inf n) = (if n then lo c else hi c, fInvalid)) ∧
      ∀ (n : Bool) (m : Nat) (e : Int), let q : ℚ := (if n then -1 else 1) * (m : ℚ) * 2 ^ e
        toIntOp mode (lo c) (hi c) (.fin n m e) =
          if near mode q < lo c then (lo c, fInvalid) else if near mode q > hi c then (hi c, fInvalid)
          else (near mode q, if (near mode q : ℚ) = q then 0 else fInexact))

/-! ### The parallel words (spec/09) -/

/-- R176, R179-R183: permutes, shuffles and broadcasts: each participant receives the value that the source lane contributes, chosen by
its table entry, by its own b, or by the lowest participant's b. And:
R184, R185: votes over the participants' guard values, and masks of the participants that hold equal values. -/
def Obligations.PermutesVotesAndMatchesAmongParticipants : Prop :=
  (let entry := fun (x : Ctx) (l : Nat) => BitVec.ofNat 8 (match x.a.mill.bind x.s0.mill? with
    | some m => ((m.tables.getD (x.f.mod.toNat % 8) []).getD l 0).toNat
    | none => 0)
  let pick := fun (b : BitVec 5) (form l : Nat) => match form with
    | 0 => b.toNat
    | 1 => if b.toNat ≤ l then l - b.toNat else l
    | 2 => if l + b.toNat ≤ 31 then l + b.toNat else l
    | _ => l ^^^ b.toNat
  Completes .xbar 0x80 (fun f a => { word2 f a with perm := true }) (fun x => x.begins fun l =>
    let e := entry x l
    let v := if e.getLsbD 7 then 0 else x.contributed (e.extractLsb' 0 5).toNat (if e.getLsbD 5 then .B else .A)
    [if e.getLsbD 6 then v >>> 16 ||| v <<< 16 else v]) ∧
  Completes .shfl 0x82 word2 (fun x => x.begins fun l =>
    [x.contributed (pick ((x.w l .B).setWidth 5) x.f.sub.toNat l) .A]) ∧
  Completes .bcast 0x83 word2 (fun x => x.writes fun _ => [x.contributed ((x.w x.lowest .B).setWidth 5).toNat .A])) ∧
  (let q := fun (x : Ctx) (l : Nat) => xor ((x.thread l).guard (x.f.mod.toNat % 8)) (x.f.mod.getLsbD 3)
  let mask := fun (p : Nat → Bool) => BitVec.ofNat 32 (((List.range 32).filter p).map fun i => 2 ^ i).sum
  Completes .vote 0x84
    (fun f _ => if f.sub = 2 then { d := .word, gRead := [f.mod.toNat % 8] }
      else { gRead := [f.mod.toNat % 8], gWrite := [f.d.toNat % 8] })
    (fun x => match x.f.sub.toNat with
      | 0 => x.guards (x.f.d.toNat % 8) fun _ => x.parts.all (q x)
      | 1 => x.guards (x.f.d.toNat % 8) fun _ => x.parts.any (q x)
      | _ => x.writes fun _ => [mask fun i => x.parts.contains i && q x i]) ∧
  Completes .matchw 0x89 word1 (fun x => x.begins fun l =>
    if x.f.sub = 0 then [mask fun i => x.parts.contains i && x.w i .A == x.w l .A]
    else [if x.parts.all fun i => x.w i .A == x.w l .A then mask fun i => x.parts.contains i else 0]))

/-- R71, R186, R187: `redw` combines the participants' values in the tree of five levels, an empty leaf passing the other input on;
`scanw` combines them with those of the lower lanes in five steps; both set the flags of every combination in every participant. -/
def Obligations.ReductionsUseTheFixedTree : Prop :=
  let comb := fun (x : Ctx) (p q : Leaf2) =>
    let k := x.f.sub.toNat % 8
    let less := fun (a b : Nat) => if x.f.sub.getLsbD 4 then decide (a < b) else decide ((BitVec.ofNat 32 a).toInt < (BitVec.ofNat 32 b).toInt)
    let r : FRes := if k = 3 then sumOp fp32 .rne x.treeFlush [] [fp32.read x.treeFlush p.code, fp32.read x.treeFlush q.code]
      else minMaxOp (k == 5) x.treeFlush p.code q.code
    let upper := match k with
      | 1 => less q.code p.code
      | 2 => less p.code q.code
      | 4 => picksY false p.code q.code
      | 5 => picksY true p.code q.code
      | _ => false
    let fl := p.flags ||| q.flags
    let lane := if upper then q.lane else p.lane
    (if k = 0 then ⟨(p.code + q.code) % 2 ^ 32, lane, fl⟩
    else if k < 3 then ⟨if upper then q.code else p.code, lane, fl⟩
    else ⟨r.code, lane, fl ||| r.flags⟩ : Leaf2)
  let opt := fun (f : Leaf2 → Leaf2 → Leaf2) (p q : Option Leaf2) => match p, q with
    | some a, some b => some (f a b)
    | some a, none => some a
    | none, b => b
  let leaves := fun (x : Ctx) => (List.range 32).map fun l =>
    if x.parts.contains l then
      let c := (x.w l .A).toNat
      some (⟨if x.f.sub.toNat % 8 ≥ 3 ∧ x.treeFlush ∧ c % 2 ^ 31 < 2 ^ 23 then c / 2 ^ 31 * 2 ^ 31 else c, l, 0⟩ : Leaf2)
    else none
  let level := fun (f : Leaf2 → Leaf2 → Leaf2) (v : List (Option Leaf2)) =>
    (List.range (v.length / 2)).map fun i => opt f (v.getD (2 * i) none) (v.getD (2 * i + 1) none)
  let tree := fun (x : Ctx) => ((level (comb x) (level (comb x) (level (comb x) (level (comb x) (level (comb x) (leaves x)))))).getD 0 none).getD ⟨0, 0, 0⟩
  let scan := fun (x : Ctx) => [1, 2, 4, 8, 16].foldl (fun (r : List (Option Leaf2) × BitVec 5) d =>
      let y := (List.range 32).map fun n => if n < d then r.1.getD n none else opt (comb x) (r.1.getD (n - d) none) (r.1.getD n none)
      (y, r.2 ||| (y.map fun v => match v with
        | some a => a.flags
        | none => 0).foldl (· ||| ·) 0))
    (if x.f.sub.getLsbD 3 then none :: (leaves x).take 31 else leaves x, (0 : BitVec 5))
  Completes .redw 0x85 (fun f _ => { d := if f.sub.getLsbD 3 then .pair else .word, a := .word })
    (fun x => x.begins (fun _ => BitVec.ofNat 32 (tree x).code :: if x.f.sub.getLsbD 3 then [BitVec.ofNat 32 (tree x).lane] else [])
      fun _ => (tree x).flags) ∧
  Completes .scanw 0x86 word1 (fun x => x.begins (fun l => [match (scan x).1.getD l none with
      | some v => BitVec.ofNat 32 v.code
      | none => 0]) fun _ => (scan x).2)

/-- R188, R189: in each segment the j-th participant receives the j-th key of the segment's participants, from the highest for
`topk` (j below k) and by `.desc` for `sortw`, and that key's place; equal keys keep the lower lane first. That FP32 keys are ranked unflushed
(log 18) and A is read in the own lane (log 26) are the model's readings. -/
def Obligations.TopkAndSortwDeliverByRank : Prop :=
  let key := fun (x : Ctx) (l : Nat) =>
    let c := (x.w l .A).toNat
    if x.f.sub.getLsbD 2 then (x.w l .A).toInt
    else if c % 2 ^ 31 > 0x7F800000 then -2 ^ 33
    else if c < 2 ^ 31 then (c : Int) else 2 ^ 31 - 1 - c
  let deliver := fun (desc : Bool) (k : Nat) (x : Ctx) =>
    let seg := 4 * 2 ^ (x.f.sub.toNat % 4)
    x.todo.foldl (fun s l =>
      let mine := x.parts.filter fun m => m / seg = l / seg
      let place := fun (m : Nat) => (mine.filter fun n =>
        (if desc then decide (key x n > key x m) else decide (key x n < key x m)) || key x n == key x m && decide (n < m)).length
      let j := (mine.filter fun m => decide (m < l)).length
      let vs := match mine.find? fun m => place m == j with
        | some m => if j < k then [x.w m .A, BitVec.ofNat 32 (m % seg)] else []
        | none => []
      s.startLong x.a x.f l x.lowest (s.dstsOf x.a x.f l 2) vs 0 none 0) x.s0
  Completes .topk 0x87 (fun f _ => { d := .pair, a := .word, ownA := true, modOk := decide (f.mod.toNat % 8 + 1 ≤ 4 * 2 ^ (f.sub.toNat % 4)) })
    (fun x => deliver true (x.f.mod.toNat % 8 + 1) x) ∧
  Completes .sortw 0x88 (fun _ _ => { d := .pair, a := .word, ownA := true }) (fun x => deliver (x.f.sub.getLsbD 3) 32 x)

/-- R190, R191, R193: `smov` moves a uniform register to D or the lowest participant's a to it; `sclaim` takes a free register and
tells whether the wheel holds it; `srel` frees the wheel's own; `syncw` leaves each thread waiting past the word. And:
R154, R192: field k of the work identifier (0 for a field of width 0), the extent of field k, or the whole identifier, its
fields at the places their widths give; a handler's lane beyond field 0 counts modulo the field (the model's, log 53). -/
def Obligations.UniformRegistersConvergenceAndWid : Prop :=
  (let n := fun (x : Ctx) => x.f.mod.toNat % 64
  Completes .smov 0x8A (fun f _ => if f.sub = 0 then { d := .word, uRead := [f.mod.toNat % 64] } else { a := .word, uWrite := [f.mod.toNat % 64] })
    (fun x => if x.f.sub = 0 then x.writes fun l => [x.s0.uniGet x.a l (n x)]
      else x.s0.uniPut x.a x.lowest (n x) (x.w x.lowest .A)) ∧
  Completes .sclaim 0x8B (fun f _ => { gWrite := [f.d.toNat % 8] })
    (fun x =>
      let s := match x.a.mill with
        | some uid => if x.s0.claimOf x.a (n x) = 0 then
            x.s0.modMill uid fun m => { m with claims := sput 0 m.claims (n x) (x.a.wheelIdx + 1) } else x.s0
        | none => x.s0
      x.todo.foldl (fun s l => s.modThread x.a l fun t =>
        t.setGuard (x.f.d.toNat % 8) (decide (x.s0.claimOf x.a (n x) = 0 ∨ x.s0.claimOf x.a (n x) = x.a.wheelIdx + 1))) s) ∧
  Completes .srel 0x8C (fun _ _ => {})
    (fun x => match x.a.mill with
      | some uid => if x.s0.claimOf x.a (n x) = x.a.wheelIdx + 1 then
          x.s0.modMill uid fun m => { m with claims := sput 0 m.claims (n x) 0 } else x.s0
      | none => x.s0)) ∧
  (Completes .wid 0x8D
    (fun f _ => { d := if f.mod.toNat % 16 = 6 then .pair else .word, modOk := decide (f.mod.toNat % 8 < 6) || f.mod.toNat % 16 == 6 })
    (fun x => x.writes fun l =>
      match x.a.mill.bind x.s0.mill?, x.a.mill.bind x.s0.gridOfMill, x.s0.wheel? x.a with
      | some m, some g, some w =>
        let k := x.f.mod.toNat % 8
        let gang := match x.s0.gang? m.gang with
          | some h => h.num
          | none => 0
        let width := fun (i : Nat) => g.lr.wid.toNat / 2 ^ (6 * i) % 64
        let ext := fun (i : Nat) => g.lr.ext.getD i 1
        let value := fun (i : Nat) => [l, if w.handler then 0 else x.a.wheelIdx, m.f2, gang % ext 3, gang / ext 3 % ext 4,
          gang / (ext 3 * ext 4)].getD i 0 % 2 ^ width i
        let place := fun (i : Nat) => ((List.range i).map width).sum
        if x.f.mod.getLsbD 3 then [BitVec.ofNat 32 (ext k)]
        else if k = 6 then
          let id := ((List.range 6).map fun i => value i * 2 ^ place i).sum
          [BitVec.ofNat 32 id, BitVec.ofNat 32 (id / 2 ^ 32)]
        else [BitVec.ofNat 32 (value k)]
      | _, _, _ => [0]))

/-- R194-R197: scaled dot products accumulate exactly into D with one rounding; `qscl` gives the least scale under which the
block's largest magnitude fits; `qpack` rounds each quotient to nearest even into the block's format; `unpk` multiplies out. That `unpk` flushes
under `fmode` bit 2 is the model's choice (log 18). -/
def Obligations.ScaledBlocksMultiplyAndRoundOnce : Prop :=
  let el := fun (w : Word) (bits n : Nat) => w.toNat / 2 ^ (bits * n) % 2 ^ bits
  let ns := fun (f : Fields) => f.mod.getLsbD 4
  let acc := fun (x : Ctx) (l : Nat) => x.s0.srcDst x.a x.f l 0
  let sel := fun (x : Ctx) => if x.f.sub = 2 then 2 * (x.f.mod.toNat % 2) + x.f.mod.toNat / 4 % 2 else x.f.mod.toNat % 4
  let scale := fun (x : Ctx) (l byte : Nat) => if ns x.f then 127 else el (x.w l .C) 8 byte
  -- a scaled element: code 255 is the NaN scale
  let scaled := fun (c : Nat) (v : FV) => if c = 255 then FV.nan false else match v with
    | .fin n m e => .fin n m (e + (c : Int) - 127)
    | v => v
  let fmt := fun (x : Ctx) => [e4m3, e5m2, e2m1].getD x.f.sub.toNat e2m1
  let bits := fun (x : Ctx) => if x.f.sub = 2 then 4 else 8
  let dotInt := fun (x : Ctx) (l n b : Nat) => [BitVec.ofInt 32 ((acc x l).toInt +
    ((List.range n).map fun i => ((x.w l .A).extractLsb' (b * i) b).toInt * ((x.w l .B).extractLsb' (b * i) b).toInt).sum)]
  let dot := fun (x : Ctx) (l n b : Nat) (g : Fmt) (sa sb : Nat → Nat) =>
    sumOp fp32 (x.thread l).fmodeMode (x.thread l).fmodeFlush
      ((List.range n).map fun i => (scaled (scale x l (sa i)) (g.val (el (x.w l .A) b i)), scaled (scale x l (sb i)) (g.val (el (x.w l .B) b i))))
      [fp32.read (x.thread l).fmodeFlush (acc x l).toNat]
  let dots := fun (x : Ctx) (r : Nat → FRes) => x.writes (fun l => [BitVec.ofNat 32 (r l).code]) fun l => (r l).flags
  let quad := fun (x : Ctx) (l : Nat) => (x.s0.srcGroup x.a x.f l .A 4).map BitVec.toNat
  let all := fun (rs : List FRes) => (rs.map fun r => r.flags).foldl (· ||| ·) 0
  let put := fun (w : Word) (at' n v : Nat) => BitVec.ofNat 32 (w.toNat % 2 ^ at' + v % 2 ^ n * 2 ^ at' + w.toNat / 2 ^ (at' + n) * 2 ^ (at' + n))
  -- the scale code: the least c for which m <= max * 2^(c - 127), by the largest magnitude m of the block
  let mag := fun (v : FV) => ((match v with
    | .fin _ n k => (n : ℚ) * 2 ^ k
    | _ => 0 : ℚ))
  let code := fun (g : Fmt) (q : List Nat) =>
    if q.any fun c => c % 2 ^ 31 ≥ 0x7F800000 then ((255 : Nat), fInvalid)
    else
      let m := (q.map fun c => mag (fp32.val c)).foldl max 0
      if m = 0 then (0, 0) else ((max 0 (min 254 (Int.clog 2 (m / mag (g.val g.maxC)) + 127))).toNat, 0)
  let pack := fun (x : Ctx) (l : Nat) => (quad x l).map fun c =>
    let k := el (x.w l .C) 8 (sel x)
    if k = 255 then (⟨(fmt x).nanC, fInvalid⟩ : FRes)
    else match fp32.val c with
      | .fin n m e => roundTo (fmt x) false .rne n m (e + 127 - k)
      | v => cvtOp (fmt x) false .rne false v
  let open' := fun (x : Ctx) (l : Nat) => (List.range 4).map fun i =>
    cvtOp fp32 true .rne (x.thread l).fmodeFlush
      (scaled (scale x l (sel x)) ((fmt x).val (el (x.w l .A) (bits x) (i + if x.f.sub = 2 then 4 * (x.f.mod.toNat / 4 % 2) else 0))))
  Completes .dot4 0x90 (dotShape 2)
    (fun x => if x.f.sub = 2 then x.writes fun l => dotInt x l 4 8
      else dots x fun l => dot x l 4 8 (fmt x) (fun _ => x.f.mod.toNat % 4) fun _ => x.f.mod.toNat / 4 % 4) ∧
  Completes .dot8 0x91 (dotShape 1)
    (fun x => if x.f.sub = 1 then x.writes fun l => dotInt x l 8 4
      else dots x fun l => dot x l 8 4 e2m1 (fun i => 2 * (x.f.mod.toNat % 2) + i / 4) fun i => 2 * (x.f.mod.toNat / 2 % 2) + i / 4) ∧
  Completes .qscl 0x92 (fun _ _ => { d := .word, dRead := true, a := .quad })
    (fun x => x.writes (fun l => [put (acc x l) (8 * (x.f.mod.toNat % 4)) 8 (code (fmt x) (quad x l)).1])
      fun l => (code (fmt x) (quad x l)).2) ∧
  Completes .qpack 0x93 (fun f _ => { d := .word, dRead := f.sub == 2, a := .quad, c := .word })
    (fun x => x.writes (fun l =>
        let v := ((List.range 4).map fun i => ((pack x l).getD i ⟨0, 0⟩).code * 2 ^ (bits x * i)).sum
        [if x.f.sub = 2 then put (acc x l) (16 * (x.f.mod.toNat / 4 % 2)) 16 v else BitVec.ofNat 32 v])
      fun l => all (pack x l)) ∧
  Completes .unpk 0x94 (fun f _ => { d := .quad, a := .word, c := if ns f then .none else .word })
    (fun x => x.writes (fun l => (open' x l).map fun r => BitVec.ofNat 32 r.code) fun l => all (open' x l))

/-! ### Control words (spec/06) -/

/-- R102-R105, R107, R110: a transfer checks the header at its target, then writes its link and changes the depth, then goes there;
`loop` counts down and branches while the counter is not zero; `rfe` returns to the trap's saved place. That a `loop` not taken does not check
its target is the model's choice (log 30). -/
def Obligations.TransfersCheckTheTargetThenMove : Prop :=
  -- the target's translation stays in the TLBs (R218)
  let goTo := fun (x : Ctx) (s : State) (l : Nat) (target : DWord) => (s.keepFetch x.a l target).modThread x.a l fun t =>
    { t with pc := target, clause := none, jumped := s.code.length }
  let rel := fun (x : Ctx) (l : Nat) => x.pc + (x.w l .A).signExtend 64
  let call := fun (target : Ctx → Nat → DWord) (x : Ctx) (s : State) (l : Nat) => do
    let _ ← s.fetchHeader x.a l (target x l)
    let s ← (s.putD x.a x.f l x.lowest [x.next.lo, x.next.hi]).riseDepth x.a l x.pc s.fresh
    pure (goTo x s l (target x l), true)
  CompletesJump .bra 0x60 (fun _ _ => { a := .word, transfer := true })
    (fun x s l => do
      let _ ← s.fetchHeader x.a l (rel x l)
      pure (goTo x s l (rel x l), true)) ∧
  CompletesJump .brx 0x61 (fun _ _ => { a := .pair, transfer := true })
    (fun x s l => do
      let _ ← s.fetchHeader x.a l (x.dw l .A)
      pure (goTo x s l (x.dw l .A), true)) ∧
  CompletesJump .call 0x62 (fun _ _ => { d := .pair, a := .word, transfer := true }) (call rel) ∧
  CompletesJump .callx 0x63 (fun _ _ => { d := .pair, a := .pair, transfer := true }) (call fun x l => x.dw l .A) ∧
  CompletesJump .ret 0x64 (fun _ _ => { a := .pair, transfer := true })
    (fun x s l => do
      let _ ← s.fetchHeader x.a l (x.dw l .A)
      let s ← s.lowerDepth x.a l
      pure (goTo x s l (x.dw l .A), true)) ∧
  CompletesJump .loop 0x65 (fun _ _ => { d := .word, dRead := true, a := .word, transfer := true })
    (fun x s l =>
      let n := x.s0.srcDst x.a x.f l 0 - 1
      if n ≠ 0 then do
        let _ ← s.fetchHeader x.a l (rel x l)
        pure (goTo x (s.putD x.a x.f l x.lowest [n]) l (rel x l), true)
      else pure (s.putD x.a x.f l x.lowest [n], false)) ∧
  CompletesJump .rfe 0x6B (fun _ _ => { transfer := true }) (fun x s l => do pure (← s.returnFrom x.a l, true))

/-- R108, R161: `exit` ends its threads, and on a front-end core, none of whose fence slots is held, the core's run; nothing else
changes but that a wheel whose last thread ends gives up its claims. And:
R353: a posted-access fault that its thread has not taken yet, as it exits, is a mill error with that fault's record. -/
def Obligations.ExitEndsItsThreads : Prop :=
  (∀ f st, st.Issues 0x66 f { transfer := true } → (st.cur.mill = none → (st.ready.fences st.cur).slots.all Option.isNone) →
    (∀ l ∈ st.takers 0x66 f { transfer := true }, (st.ready.thread st.cur l).posted = []) →
    let over' := (st.takers 0x66 f { transfer := true }).foldl (fun s l =>
      let s := s.modThread st.cur l fun t => { t with exited := true }
      match st.cur with
      | .fe n => { s with fe := modAt s.fe n fun c => { c with run := none } }
      | _ => s) st.ready
    ∃ t, exec (.exit f) st = .next t ∧ t.kept = (over'.releaseClaims st.cur).kept ∧
      (∀ l ∈ st.takers 0x66 f { transfer := true }, (t.thread st.cur l).exited = true) ∧
      (∀ n c, st.cur = .fe n → t.fe[n]? = some c → c.run = none) ∧ t.mem = st.mem) ∧
  ∀ f st uid w l p rest g m, st.cur = .wheel uid w → st.Issues 0x66 f { transfer := true } → st.takers 0x66 f { transfer := true } = [l] →
    (st.ready.thread st.cur l).posted = p :: rest → (st.ready.thread st.cur l).sys.frp &&& ~~~63 = 0 →
    st.gridOfMill uid = some g → st.mill? uid = some m → m.err = none →
    ∃ t m' r, exec (.exit f) st = .next t ∧ t.mill? uid = some m' ∧ m'.aborted = true ∧ m'.err = some r ∧ r.cls = p.fr.cls ∧ r.sub = p.fr.sub ∧
      r.va = p.fr.va

/-- R28, R30, R109: `trap` and an unclaimed `bkpt` go past themselves and enter the handler of class 0x31, subcode MOD[7:0], or of
class 0x30: `tpc` and `tcause` say where the next word is, the depth rises by one with v8-v31 reading zero, and the PC is the vector's;
a claimed `bkpt` halts its threads instead. -/
def Obligations.TrapAndBkptEnterTheirHandlers : Prop :=
  let enters := fun (i : Fields → Instr) (op : BitVec 8) (cls : Nat) (sub : Fields → Nat) (free : State → Prop) =>
    ∀ f st (hpc : Nat → DWord), st.Issues op f {} → free st →
      State.CanEnterAll st.cur (fun _ => cls) hpc (st.takers op f {}) st.ready →
      ∃ t, exec (i f) st = .next t ∧
        ({ t with tlb := st.ready.tlb, tlb2 := st.ready.tlb2, parts := st.ready.parts } : State).kept =
         ((st.takers op f {}).foldl (fun s l => s.modThread st.cur l fun u =>
          let u := u.landAll
          let p := u.nextPlace (st.pcNext f)
          { u with
            depth := u.depth + 1
            stack := sclear u.stack (24 * (u.depth + 1) + 8) (24 * (u.depth + 1) + 32)
            regPoison := u.regPoison.filter fun k => k < 24 * (u.depth + 1) + 8 || 24 * (u.depth + 1) + 32 ≤ k
            lastRec := st.ready.mkRec st.cur l { cls := cls, sub := sub f, after := true } st.pcNow 0
            recCount := u.recCount + 1
            yields := (match u.clause with
              | some c => if c.yld ∧ c.idx + 1 < c.count then [(u.depth + 1, st.pcNext f)] else []
              | none => []) ++ u.yields.filter (·.1 != u.depth + 1)
            sys := { u.sys with
              tpc := st.pcNext f
              tcause := BitVec.ofNat 64 (cls + 2 ^ 8 * sub f + 2 ^ 16 * p.1 + 2 ^ 24 * p.2) } }) st.ready).kept ∧
        (∀ l ∈ st.takers op f {}, (t.thread st.cur l).pc = hpc l ∧ (t.thread st.cur l).clause = none) ∧
        ∀ l ∈ st.lanes, l ∉ st.takers op f {} → (t.thread st.cur l).pc = st.pcNext f
  enters .trap 0x67 0x31 (fun f => f.mod.toNat % 256) (fun _ => True) ∧
  enters .bkpt 0x68 0x30 (fun _ => 0) (fun st => st.ready.breakClaimed st.cur = false) ∧
  ∀ f st, st.Issues 0x68 f {} → st.ready.breakClaimed st.cur = true →
    ∃ t, exec (.bkpt f) st = .next t ∧ st.wentOn f t ∧ ∀ l ∈ st.takers 0x68 f {}, (t.thread st.cur l).halted = true

/-- R18, R111: `mfs` copies the system register that MOD[7:0] names to a pair, a front-end core's own reading 0 for lane, wheel and
handler pattern; `mts` writes one that is not read-only. And:
R113, R114, R116, R259: `pause` replaces the pause count of its wheel or core by bits 15:0 of a, 0 having no effect; `snap` latches one
snapshot; `wspill` writes the image of every resident window at `wsp`, the current one last and `wsp` left at it; `wfill` reads the
image at `wsp` back into the current window and leaves no lower window resident. That a core's `clk` begins its lag after the common count is
the model's choice (log 2), as are what the blocks of a snapshot latch and when (log 13), and that `wfill` leaves the lower windows non-resident
(log 31). -/
def Obligations.SystemRegistersPauseSnapAndWindowMoves : Prop :=
  (let mill := fun (x : Ctx) (g : Mill → Nat) => match x.a.mill.bind x.s0.mill? with
    | some m => BitVec.ofNat 64 (g m)
    | none => 0
  let read := fun (x : Ctx) (l : Nat) =>
    let t := x.thread l
    let fe := x.a.mill.isNone
    [some t.sys.tvec, some t.sys.tpc, some (t.sys.tcause &&& 0xFF3FFFFF), some t.sys.frp, some t.sys.wsp, some t.sys.wlim,
      some (BitVec.ofNat 64 t.depth), some t.sys.fmode, some t.sys.fstat, 
      some (BitVec.ofNat 64 ((if fe then x.s0.feClk else x.s0.clk) - Config.clockLag (x.s0.coreNo x.a))),
      some (mill x fun m => m.bud), some (if fe then 0 else BitVec.ofNat 64 l), some (if fe then 0 else BitVec.ofNat 64 x.a.wheelIdx),
      some (mill x fun m => m.f2), some (if fe then 0 else BitVec.ofNat 64 t.hpat),
      if fe then some t.sys.xroot else none, if fe then some t.sys.xkey else none].getD (x.f.mod.toNat % 256) none
  let fail := fun (sub : Nat) => (.error (.fault { cls := 5, sub := sub }) : Except AErr State)
  CompletesEach .mfs 0x69 (fun _ _ => { d := .pair })
    (fun x s l => match read x l with
      | some v => pure (s.putD x.a x.f l x.lowest [v.lo, v.hi])
      | none => fail 0) ∧
  CompletesEach .mts 0x6A (fun _ _ => { a := .pair })
    (fun x s l =>
      let k := x.f.mod.toNat % 256
      let v := x.dw l .A
      if (read x l).isNone then fail 0
      else if k = 0x06 ∨ 0x09 ≤ k ∧ k ≤ 0x0E then fail 1
      else pure (s.modThread x.a l fun t => { t with sys :=
        match k with
        | 0x00 => { t.sys with tvec := v }
        | 0x01 => { t.sys with tpc := v }
        | 0x02 => { t.sys with tcause := v }
        | 0x03 => { t.sys with frp := v }
        | 0x04 => { t.sys with wsp := v }
        | 0x05 => { t.sys with wlim := v }
        | 0x07 => { t.sys with fmode := v }
        | 0x08 => { t.sys with fstat := v }
        | 0x0F => { t.sys with xroot := v }
        | _ => { t.sys with xkey := v } }))) ∧
  (Completes .pause 0x6C (fun _ _ => { a := .word })
    (fun x =>
      let n := (x.w x.lowest .A).toNat % 2 ^ 16
      if n = 0 then x.s0
      else match x.a with
        | .fe k => { x.s0 with fe := modAt x.s0.fe k fun c => { c with paused := n } }
        | a => x.s0.modWheel a fun w => { w with paused := n }) ∧
  Completes .snap 0x6F (fun _ _ => {}) (fun x => x.s0.latch) ∧
  -- the latch: each core, cluster, valid partition's front end and link port once, within 256 cycles of the first, and nothing else;
  -- a trigger that comes while one is under way joins it
  (∀ s : State, (s.snapDue ≠ [] → s.latch = s) ∧ (s.snapDue = [] →
    let t := s.latch
    t.snapAt = some s.clk ∧ { t with snap := s.snap, snapAt := s.snapAt, snapDue := s.snapDue, free := s.free, cmds := s.cmds } = s ∧
    (∃ e ∈ t.snap, e.lag = 0) ∧ ∀ b k, (k = 1 ∧ b < 416 ∨ k = 2 ∧ b < 52 ∨ k = 3 ∧ b < 8 ∧ (s.part b).valid = true ∨ k = 4 ∧ b < s.ports.length) →
      (∃ e ∈ t.snap, e.block = b ∧ e.kind = k ∧ e.lag = 0) ∨ ∃ lag, 0 < lag ∧ lag ≤ 256 ∧ (b, k, lag) ∈ t.snapDue)) ∧
  CompletesEach .wspill 0x6D (fun _ _ => {})
    (fun x s l =>
      let t := s.thread x.a l
      if t.winPending then pure (s.modThread x.a l fun u => { u with low := u.depth, winPending := false })
      else if t.sys.wsp.toNat % 4 ≠ 0 ∨ t.sys.wsp.toNat + 96 * (t.depth - t.low + 1) > t.sys.wlim.toNat ∨
        t.pendingIn (24 * t.low) (24 * t.depth + 24) then .error .stall
      else do
        let n := s.fresh
        let s ← ((List.range (t.depth - t.low)).map (t.low + ·)).foldlM (fun s k => do
          let s ← s.spillImage x.a l x.pc k (s.thread x.a l).sys.wsp n
          pure (s.modThread x.a l fun u =>
            { u with stack := sclear u.stack (24 * k) (24 * k + 24), low := k + 1, sys := { u.sys with wsp := u.sys.wsp + 96 } })) s
        s.spillImage x.a l x.pc t.depth (s.thread x.a l).sys.wsp n) ∧
  CompletesEach .wfill 0x6E (fun _ _ => {})
    (fun x s l =>
      let t := s.thread x.a l
      if t.sys.wsp.toNat % 4 ≠ 0 ∨ t.pendingIn (24 * t.depth) (24 * t.depth + 32) then .error .stall
      else do
        let (bs, s) ← s.fillImage x.a l t.sys.wsp
        pure (s.modThread x.a l fun u =>
          let u := (List.range 24).foldl (fun u i =>
            u.setPos (24 * t.depth + i) (BitVec.ofNat 32 (natOfBytes ((bs.drop (4 * i)).take 4)))) u
          { u with stack := sclear u.stack 0 (24 * t.depth), low := t.depth, winPending := false })))

/-! ### Registers, windows and memory words (spec/02, spec/06, spec/12) -/

/-- R11, R13, R40: the registers of D read back what was written and no other register of the thread or of another lane changes;
`vz` discards; a uniform register takes the lowest participant's value alone, and another wheel reads its old value or its new one; g0 reads
true and is not written. -/
def Obligations.RegistersReadBackTheLastWrite : Prop :=
  (∀ (s : State) (a : Agent) (f : Fields) (l lowest : Nat) (vs : List Word), f.d.toNat + vs.length ≤ 32 → l < (s.threads a).length →
    ∀ m n, n < 32 → ((s.putD a f l lowest vs).thread a m).getV n =
      if m = l ∧ f.d.toNat ≤ n ∧ n < f.d.toNat + vs.length then vs.getD (n - f.d.toNat) 0 else (s.thread a m).getV n) ∧
  (∀ (s : State) (a : Agent) (f : Fields) (l lowest : Nat) (vs : List Word), f.d = 63 → s.putD a f l lowest vs = s) ∧
  (∀ (s : State) (a : Agent) (f : Fields) (l lowest : Nat) (w : Word), 32 ≤ f.d.toNat → f.d.toNat < 48 → l ≠ lowest →
    s.putD a f l lowest [w] = s) ∧
  (∀ (s : State) (uid w : Nat) (f : Fields) (l : Nat) (v : Word), 32 ≤ f.d.toNat → f.d.toNat < 48 → (s.mill? uid).isSome →
    ∀ k n, (s.putD (.wheel uid w) f l l [v]).uniGet (.wheel uid w) k n =
      if n = f.d.toNat - 32 then v else s.uniGet (.wheel uid w) k n) ∧
  (∀ (s : State) (uid w u : Nat) (f : Fields) (l : Nat) (v : Word), 32 ≤ f.d.toNat → f.d.toNat < 48 → u ≠ w →
    ∀ k n, (s.putD (.wheel uid w) f l l [v]).uniGet (.wheel uid u) k n = s.uniGet (.wheel uid u) k n ∨
      n = f.d.toNat - 32 ∧ (s.putD (.wheel uid w) f l l [v]).uniGet (.wheel uid u) k n = v) ∧
  (∀ (t : Thread) (k n : Nat) (b : Bool), k < 8 → n < 8 → (t.setGuard k b).guard n = if n = k ∧ k ≠ 0 then b else t.guard n) ∧
  (∀ t : Thread, t.guard 0 = true)

/-- R11, R12, R15, R17, R115: one window deeper, v0-v7 are the caller's v24-v31 and v8-v31 read zero; one shallower, the caller's
registers stand as they were but for v24-v31; a full pool spills its lowest window at `wsp`, in order of checks alignment and limit; a return
to a window that is not resident fills it with the 96 bytes at `wsp` - 96; depth 0 has no window to return to. And:
R433: a window left pending by a restore is taken as spilled by a depth increase, which writes nothing, and is discarded by a depth decrease. -/
def Obligations.WindowsOverlapByEightRegisters : Prop :=
  ∀ (s : State) (a : Agent) (l : Nat) (pc : DWord) (since : Nat), l < (s.threads a).length →
    let t := s.thread a l
    let full := decide (t.depth + 2 - t.low > s.poolWindows a)
    let quiet := t.pendingIn (24 * t.low) (24 * t.low + 24) = false
    -- the window below is not on chip, and no instruction in flight writes it
    let away := (t.winPending = true ∨ t.low = t.depth) ∧ t.depth ≠ 0 ∧ t.pendingIn (24 * (t.depth - 1)) (24 * (t.depth - 1) + 24) = false
    (t.winPending = false → full = false →
      ∃ s', s.riseDepth a l pc since = .ok s' ∧ (s'.thread a l).depth = t.depth + 1 ∧ (s'.thread a l).sys = t.sys ∧ s'.mem = s.mem ∧
        (∀ n < 8, (s'.thread a l).getV n = t.getV (24 + n)) ∧ (∀ n, 8 ≤ n → n < 32 → (s'.thread a l).getV n = 0) ∧
        ∀ p, p < 24 * t.depth + 32 → (s'.thread a l).getPos p = t.getPos p) ∧
    (t.winPending = false → t.low < t.depth →
      ∃ s', s.lowerDepth a l = .ok s' ∧ (s'.thread a l).depth + 1 = t.depth ∧ (s'.thread a l).sys = t.sys ∧ s'.mem = s.mem ∧
        (∀ n < 8, (s'.thread a l).getV (24 + n) = t.getV n) ∧ ∀ p, (s'.thread a l).getPos p = t.getPos p) ∧
    (t.depth = 0 → s.lowerDepth a l = .error (.fault { cls := 0x0E, sub := 1 })) ∧
    (t.winPending = false → full = true → quiet → t.sys.wsp.toNat % 4 ≠ 0 →
      ∃ fi, s.riseDepth a l pc since = .error (.fault fi) ∧ fi.cls = 0x0A ∧ fi.sub = 1) ∧
    (t.winPending = false → full = true → quiet → t.sys.wsp.toNat % 4 = 0 → t.sys.wsp.toNat + 96 > t.sys.wlim.toNat →
      ∃ fi, s.riseDepth a l pc since = .error (.fault fi) ∧ fi.cls = 0x0E ∧ fi.sub = 0) ∧
    (∀ s1, t.winPending = false → full = true → quiet → t.sys.wsp.toNat % 4 = 0 → t.sys.wsp.toNat + 96 ≤ t.sys.wlim.toNat →
      s.spillImage a l pc t.low t.sys.wsp since = .ok s1 →
      ∃ s', s.riseDepth a l pc since = .ok s' ∧ s'.posted = s1.posted ∧ (s'.thread a l).depth = t.depth + 1 ∧
        (s'.thread a l).low = t.low + 1 ∧ (s'.thread a l).sys.wsp = t.sys.wsp + 96) ∧
    (away → t.sys.wsp.toNat % 4 ≠ 0 → ∃ fi, s.lowerDepth a l = .error (.fault fi) ∧ fi.cls = 0x0A ∧ fi.sub = 1) ∧
    (∀ ps bs, away → t.sys.wsp.toNat % 4 = 0 → s.pieces a l .fill .glob (t.sys.wsp - 96) 96 = .ok ps →
      s.readAll a l .fill .glob (t.sys.wsp - 96) 96 ps = .ok bs →
      ∃ s', s.lowerDepth a l = .ok s' ∧ (s'.thread a l).depth + 1 = t.depth ∧ (s'.thread a l).low + 1 = t.depth ∧
        (s'.thread a l).winPending = false ∧ (s'.thread a l).sys = { t.sys with wsp := t.sys.wsp - 96 } ∧ s'.mem = s.mem ∧
        (∀ n < 24, (s'.thread a l).getV n = BitVec.ofNat 32 (natOfBytes ((bs.drop (4 * n)).take 4))) ∧
        (∀ n < 8, (s'.thread a l).getV (24 + n) = t.getV n) ∧
        (t.winPending = true → ∀ n, 8 ≤ n → n < 32 → (s'.thread a l).getPos (24 * t.depth + n) = 0)) ∧
    (t.winPending = true → ∃ s', s.riseDepth a l pc since = .ok s' ∧ s'.mem = s.mem ∧ s'.posted = s.posted ∧
      (s'.thread a l).depth = t.depth + 1 ∧ (s'.thread a l).low = t.depth + 1 ∧ (s'.thread a l).winPending = false ∧
      (s'.thread a l).sys = { t.sys with wsp := t.sys.wsp + 96 } ∧
      (∀ n < 8, (s'.thread a l).getV n = t.getV (24 + n)) ∧ (∀ n, 8 ≤ n → n < 32 → (s'.thread a l).getV n = 0) ∧
      ∀ n < 24, (s'.thread a l).getPos (24 * t.depth + n) = 0)

/-- R117, R121, R124, R180, R254: a load reads at base + off, base + idx * 2^s + off, its row base + n * stride, or its table entry's
word; it is checked now and goes into flight with its accesses, touching nothing else; the load of a row or table word does so for
each lane. And:
R120, R121, R124, R228, R254: what going into flight is. A misaligned address is the fault 0x0A, subcode 0; a fault of the translation is the
load's; else, for pieces of this device with no error mark that the die can read, one access is outstanding for each 8 bytes (for each
element of a row) and one long-latency instruction with the load's destinations, its results not yet formed; memory and every register stay. And:
R34, R118, R120, R207, R214-R221: the pieces of an access. A scratchpad or pond access is one piece in range, else the fault 0x09/2 or 0x09/3; a
global one is a piece of each page in turn, by what the walk finds there, with its faults in the order of R220; the walk goes from node to node, the
larger leaf of a level before the entry itself. That a walker's marked line is 0x0C/1 is the model's reading (log 53), and a front-end core's
untranslated address outside the map is log 6's. -/
def Obligations.LoadsGoIntoFlightAndChecksComplete : Prop :=
  (let size := fun (sub : Nat) => [1, 2, 4, 8, 16, 1, 1, 1, 1, 2].getD sub 1
  let regs := fun (sub : Nat) => [1, 1, 1, 2, 4, 1, 1, 1, 1, 1].getD sub 1
  let use := fun (sub : Nat) => [Use.word, .word, .word, .pair, .quad, .word, .word, .word, .word, .word].getD sub .word
  let space := fun (c : Nat) => [Space.glob, .sp, .pd, .glob].getD c .glob
  let ok := fun (f : Fields) (a : Agent) => match a with
    | .fe _ => f.mod.toNat % 4 == 0
    | _ => f.mod.toNat % 4 != 3
  let go := fun (addr : Ctx → Nat → DWord) (x : Ctx) (s : State) (l : Nat) =>
    let sub := x.f.sub.toNat
    let k := x.f.d.toNat % 8
    let dsts := if sub = 5 then (if k = 0 then [] else [Dst.guard k]) else s.dstsOf x.a x.f l (regs sub)
    s.loadInto x l (if dsts = [] then .touch else .load) (space (x.f.mod.toNat % 4)) (addr x l) (size sub) (size sub) sub dsts
  CompletesEach .ld 0x70
    (fun f a => if f.sub = 5 then { a := .pair, b := .word, modOk := ok f a, gWrite := [f.d.toNat % 8] }
      else { d := use f.sub.toNat, a := .pair, b := .word, modOk := ok f a })
    (go fun x l => x.dw l .A + (x.w l .B).signExtend 64) ∧
  CompletesEach .ldx 0x72
    (fun f a => { d := use f.sub.toNat, a := .pair, b := .word, c := .word, modOk := ok f a && decide (f.mod.toNat / 4 % 8 ≤ 4) })
    (go fun x l => x.dw l .A +
      (if x.f.mod.getLsbD 5 then (x.w l .B).setWidth 64 else (x.w l .B).signExtend 64) <<< (x.f.mod.toNat / 4 % 8) +
      (x.w l .C).signExtend 64) ∧
  CompletesEach .tileld 0x75
    (fun f a => { d := [Use.word, .pair, .quad, .octet].getD f.sub.toNat .octet, a := .pair, b := .word, modOk := ok f a })
    (fun x s l =>
      let e := 2 ^ (x.f.sub.toNat % 4)
      s.loadInto x l .load (space (x.f.mod.toNat % 4))
        (x.dw x.lowest .A + BitVec.ofNat 64 l * (x.w x.lowest .B).signExtend 64) (4 * e) e 2
        (s.dstsOf x.a x.f l ([1, 2, 4, 8].getD x.f.sub.toNat 8))) ∧
  CompletesEach .xbarM 0x80 (fun f _ => { d := .word, a := .pair, modOk := f.mod.toNat / 16 % 4 != 3, perm := true })
    (fun x s l =>
      let e : Byte := match x.a.mill.bind x.s0.mill? with
        | some m => (m.tables.getD (x.f.mod.toNat % 8) []).getD l 0
        | none => 0
      if e.getLsbD 7 then pure (s.startLong x.a x.f l x.lowest (s.dstsOf x.a x.f l 1) [0] 0 none 0)
      else s.loadInto x l .load (space (x.f.mod.toNat / 16 % 4)) (x.dw l .A + BitVec.ofNat 64 (4 * (e.extractLsb' 0 6).toNat)) 4 4
        (if e.getLsbD 6 then 22 else 2) (s.dstsOf x.a x.f l 1))) ∧
  (∀ (s : State) (x : Ctx) (l : Nat) (k : AccKind) (spc : Space) (va : DWord) (size align ext : Nat) (dsts : List Dst),
    (va.toNat % align ≠ 0 → ∃ fi, s.loadInto x l k spc va size align ext dsts = .error (.fault fi) ∧ fi.cls = 0x0A ∧ fi.sub = 0) ∧
    (∀ e, va.toNat % align = 0 → s.pieces x.a l k spc va size = .error e → s.loadInto x l k spc va size align ext dsts = .error e) ∧
    (∀ ps, va.toNat % align = 0 → s.pieces x.a l k spc va size = .ok ps → l < (s.threads x.a).length →
      s.poisonedFor x.a ps = false → (∀ p ∈ ps, p.tier ≠ 3 ∧ s.loadGate x.a l p = .ok ()) →
      -- the parts of a piece, each single-copy atomic: address and length
      let parts := fun (p : Piece) => let g := min align 8
        (List.range ((p.len + g - 1) / g)).map fun i => (p.key + g * i, min g (p.len - g * i))
      ∃ s' o, s.loadInto x l k spc va size align ext dsts = .ok s' ∧ s'.mem = s.mem ∧
        s'.thread x.a l = { s.thread x.a l with long := (s.thread x.a l).long ++ [o] } ∧
        (∀ b m, ¬(b.same x.a ∧ m = l) → s'.thread b m = s.thread b m) ∧
        o.touch = dsts ∧ o.flag = (s.thread x.a l).boundFlag x.f ∧ o.parts.length = ((ps.map parts).flatten).length ∧
        s'.posted.map (fun p => (p.key, p.rd, p.lane)) = s.posted.map (fun p => (p.key, p.rd, p.lane)) ++
          (ps.map parts).flatten.map fun q => (q.1, q.2, l))) ∧
  -- the pieces of a thread's access
  (let fault := fun (c sub : Nat) (va : DWord) (k : AccKind) (spc size : Nat) => AErr.fault
    { cls := c, sub := sub, va := va, access := BitVec.ofNat 32 (k.code + 16 * Nat.log2 size + 256 * spc) }
  -- bits 63:57 equal bit 56
  let canon := fun (va : DWord) => va.toNat / 2 ^ 56 = 0 ∨ va.toNat / 2 ^ 56 = 255
  -- one page's part of a global access: the walk's end, then R, W, X, then the key-ID and the share, then a page on the move
  let page := fun (s : State) (sp : AddrSpace) (k : AccKind) (refused : List Nat) (size va off n : Nat) =>
    let bad := fun (c sub : Nat) => fault c sub (BitVec.ofNat 64 va) k 0 size
    if va / 4096 ∈ refused then (.error (bad 8 0) : Except AErr Piece)
    else match s.walkEnd sp va with
    | .fail 0 => .error (if sp.direct = true then bad 8 0 else .absent sp.root (va / 4096)
        { cls := 8, sub := 0, va := BitVec.ofNat 64 va, access := BitVec.ofNat 32 (k.code + 16 * Nat.log2 size) })
    | .fail n => .error (bad 8 n)
    | .poison => .error (bad 0x0C 1)
    | .leaf l _ =>
      let lo := l.frame * 4096
      let hi := lo + [2 ^ 12, 2 ^ 16, 2 ^ 21, 2 ^ 28].getD l.size (2 ^ 32)
      let pa := lo + va % (hi - lo)
      let shared := match sp.part with
        | some p => if l.tier = 0 then decide ((s.part p).hbmBase.toNat ≤ lo ∧ hi ≤ (s.part p).hbmBase.toNat + (s.part p).hbmSize.toNat)
          else decide ((s.part p).t1Base.toNat ≤ lo ∧ hi ≤ (s.part p).t1Base.toNat + (s.part p).t1Size.toNat)
        | none => true
      let own := match sp.kids with
        | some ks => ks.contains l.kid
        | none => true
      if k.needs l = false then .error (bad 9 0)
      else if (l.tier = 0 ∨ l.tier = 1) ∧ (own = false ∨ shared = false) then .error (bad 9 4)
      else if l.mov = true ∧ k.writes = true then .error .stall
      else .ok ⟨if l.tier = 2 then hostKey pa else pa, n, off, if l.tier ≤ 1 then l.kid else 0, l.sc && decide (l.tier ≤ 1), l.tier, l.node, pa,
        sp.core.map fun c => ⟨c, sp.root, va - va % (hi - lo), l⟩⟩
  -- all pages, in increasing order: the first failure is the access's
  let pages := fun (s : State) (sp : AddrSpace) (k : AccKind) (refused : List Nat) (va : DWord) (size : Nat) =>
    let first := 4096 - va.toNat % 4096
    if ¬ canon va then (.error (fault 9 1 va k 0 size) : Except AErr (List Piece))
    else if size ≤ first then (page s sp k refused size va.toNat 0 size).map fun p => [p]
    else if ¬ canon (va + BitVec.ofNat 64 first) then .error (fault 9 1 (va + BitVec.ofNat 64 first) k 0 size)
    else do
      let p ← page s sp k refused size va.toNat 0 first
      let q ← page s sp k refused size (va.toNat + first) first (size - first)
      pure [p, q]
  (∀ (s : State) (u w l size : Nat) (k : AccKind) (va : DWord) (m : Mill) (g : Grid), s.mill? u = some m → s.gridOfMill u = some g →
    let a := Agent.wheel u w
    let share := (s.part g.part).pond.getD (va.toNat / 2 ^ 28 % 4) (0, 0)
    let inPond := va.toNat < 2 ^ 30 ∧ va.toNat % 2 ^ 28 + size ≤ share.2 * 2 ^ 20
    (s.pieces a l k .sp va size = if va.toNat + size ≤ (m.scratch + m.acc) * 1024
      then .ok [⟨padKey u va.toNat, size, 0, 0, false, 0, 0, 0, none⟩] else .error (fault 9 2 va k 1 size)) ∧
    (s.pieces a l k .pd va size = if inPond
      then .ok [⟨pondKey (va.toNat / 2 ^ 28 % 4) (share.1 * 2 ^ 20 + va.toNat % 2 ^ 28), size, 0, 0, false, 0, 0, 0, none⟩]
      else .error (fault 9 3 va k 2 size)) ∧
    (0 < size → size ≤ 4096 → s.pieces a l k .glob va size = pages s (s.gridSpace g (some m.core)) k (s.thread a l).refused va size)) ∧
  -- a grid's space: its queue's root, its engagement's key-IDs, its partition's share
  (∀ (s : State) (g : Grid) (c : Option Nat), let sp := s.gridSpace g c
    sp.root = (s.queue g.queue).root.toNat ∧ sp.part = some g.part ∧ sp.direct = (s.queue g.queue).ctrl.getLsbD 1 ∧ sp.core = c ∧
      ∀ e, s.engOf g.part g.lr.eng = some e → sp.kids = some e.kids) ∧
  (∀ (s : State) (n l size : Nat) (k : AccKind) (va : DWord), 0 < size → size ≤ 4096 →
    let t := s.thread (.fe n) l
    let pa := va.toNat % 2 ^ 52
    (t.sys.xroot ≠ 0 → s.pieces (.fe n) l k .glob va size = pages s ⟨t.sys.xroot.toNat, none, none, true, none⟩ k t.refused va size) ∧
    (t.sys.xroot = 0 → s.pieces (.fe n) l k .glob va size =
      if 2 ^ 53 ≤ va.toNat then .error (fault 9 1 va k 0 size)
      else if va.getLsbD 52 then .ok [⟨hostKey pa, size, 0, 0, false, 2, 0, pa, none⟩]
      else if pa < 0xC000000000 then .ok [⟨pa, size, 0, t.sys.xkey.toNat % 1024, false, 0, 0, pa, none⟩]
      else if 0x10000000000 ≤ pa ∧ pa < 0x30000000000 then .ok [⟨pa, size, 0, t.sys.xkey.toNat % 1024, false, 1, 0, pa, none⟩]
      else .error (fault 9 1 va k 0 size))) ∧
  [AccKind.load, .store, .atomic, .fetch, .spill, .fill, .touch, .engRead, .engWrite].map AccKind.code = [1, 2, 3, 4, 5, 6, 7, 8, 9] ∧
  (∀ (l : Leaf), [AccKind.load, .fill, .touch, .engRead].map (·.needs l) = [l.r, l.r, l.r, l.r] ∧
    [AccKind.store, .spill, .engWrite].map (·.needs l) = [l.w, l.w, l.w] ∧ AccKind.atomic.needs l = (l.r && l.w) ∧ AccKind.fetch.needs l = l.x)) ∧
  -- the end of a walk: what the TLBs hold, or the tables
  (∀ (s : State) (sp : AddrSpace) (va : Nat), s.pick 1 va = 0 →
    let walk := walkGo s (va % 2 ^ 57) 4 sp.root
    let holds := fun (c : Nat) (t : TlbEntry) => t.core = c ∧ t.root = sp.root ∧ t.base ≤ va ∧ va < t.base + pageBytes t.leaf.size
    (sp.core = none → s.walkEnd sp va = walk) ∧
    ∀ c, sp.core = some c → ((∀ t ∈ s.tlb, ¬ holds c t) → (∀ t ∈ s.tlb2, ¬ holds (c / 8) t) → s.walkEnd sp va = walk) ∧
      ((∃ t ∈ s.tlb, holds c t) → ∃ t ∈ s.tlb, holds c t ∧ s.walkEnd sp va = .leaf t.leaf 0)) ∧
  -- a walk's step at a level
  ∀ (s : State) (va level node : Nat), level ≤ 4 →
    let idx := va / 2 ^ (12 + 9 * level) % 512
    let first := node + 16 * (idx - idx % [16, 128, 4, 4, 4].getD level 4)
    let own := node + 16 * idx
    let leaf := fun (at' : Nat) => s.tableEntry at' % 4 = 3
    let size := fun (at' : Nat) => s.tableEntry at' / 2 ^ 64 % 8
    let bytes := fun (at' : Nat) => [2 ^ 12, 2 ^ 16, 2 ^ 21, 2 ^ 28].getD (size at') (2 ^ 32)
    let l := fun (at' : Nat) => leafOf (s.tableEntry at')
    let formed := fun (at' : Nat) => (l at').frame * 4096 % bytes at' = 0 ∧
      ((l at').tier = 0 → (l at').frame * 4096 < 0xC000000000) ∧
      ((l at').tier = 1 → 0x10000000000 ≤ (l at').frame * 4096 ∧ (l at').frame * 4096 < 0x30000000000) ∧ ((l at').cmp = true → (l at').tier = 1)
    let big := level ≤ 2 ∧ leaf first ∧ size first = [1, 3, 4].getD level 4
    let fits := size own = [0, 2].getD level 8
    (level ≤ 2 → s.poisoned first 16 = true → walkGo s va level node = .poison) ∧
    ((level ≤ 2 → s.poisoned first 16 = false) →
      (big → walkGo s va level node = if formed first then .leaf (l first) first else .fail 1) ∧
      (¬ big → s.poisoned own 16 = true → walkGo s va level node = .poison) ∧
      (¬ big → s.poisoned own 16 = false →
        (s.tableEntry own % 2 = 0 → walkGo s va level node = .fail 0) ∧
        (leaf own → walkGo s va level node = if fits ∧ formed own then .leaf (l own) own else .fail 1) ∧
        (s.tableEntry own % 4 = 1 → walkGo s va level node = if level = 0 then .fail 1
          else walkGo s va (level - 1) (s.tableEntry own / 2 ^ 13 % 2 ^ 39 * 8192)))) ∧
    l own = ⟨s.tableEntry own / 2 ^ 12 % 2 ^ 40, size own, s.tableEntry own / 2 ^ 52 % 2 ^ 10, s.tableEntry own / 2 ^ 68 % 2 ^ 12,
      bitAt (s.tableEntry own) 9, bitAt (s.tableEntry own) 8, s.tableEntry own / 2 ^ 6 % 4, bitAt (s.tableEntry own) 5,
      bitAt (s.tableEntry own) 4, bitAt (s.tableEntry own) 3, bitAt (s.tableEntry own) 2⟩

/-- R117, R123, R254, R256, R257: a store writes the low bytes of D, read in its own lane, at its address, a tile store its row; `pref`
asks for a line alone, `cwb` changes nothing, `cinv.l2` drops its die's copies, and after `cinv.l1` a thread that jumps fetches
no older word of the lines. And:
R120, R123, R124, R319: what a store is. A misaligned address is the fault 0x0A, subcode 0; a fault of the translation is the store's; a
bound slot is the fault 0x0B; else, for pieces of this device in SC order, its bytes are posted in parts that are single-copy atomic, one
access each; memory, every register and every thread stay. -/
def Obligations.StoresArePostedAndCachesManaged : Prop :=
  let size := fun (sub : Nat) => [1, 2, 4, 8, 16].getD sub 1
  let use := fun (sub : Nat) => [Use.word, .word, .word, .pair, .quad].getD sub .word
  let ok := fun (f : Fields) (a : Agent) => match a with
    | .fe _ => f.mod.toNat % 4 == 0
    | _ => f.mod.toNat % 4 != 3
  let data := fun (x : Ctx) (l n : Nat) => ((List.range n).map fun i => (x.s0.srcDst x.a x.f l (i / 4)).extractLsb' (8 * (i % 4)) 8)
  let put := fun (addr : Ctx → Nat → DWord) (x : Ctx) (s : State) (l : Nat) =>
    let n := size x.f.sub.toNat
    s.storeBytesAt x l (addr x l) n n (min n 8) (data x l n) .st fun _ => true
  CompletesEach .st 0x71
    (fun f a => { d := use f.sub.toNat, dRead := true, dWrite := false, a := .pair, b := .word, modOk := ok f a })
    (put fun x l => x.dw l .A + (x.w l .B).signExtend 64) ∧
  CompletesEach .stx 0x73
    (fun f a => { d := use f.sub.toNat, dRead := true, dWrite := false, a := .pair, b := .word, c := .word,
                  modOk := ok f a && decide (f.mod.toNat / 4 % 8 ≤ 4) })
    (put fun x l => x.dw l .A +
      (if x.f.mod.getLsbD 5 then (x.w l .B).setWidth 64 else (x.w l .B).signExtend 64) <<< (x.f.mod.toNat / 4 % 8) +
      (x.w l .C).signExtend 64) ∧
  CompletesEach .tilest 0x76
    (fun f a => { d := [Use.word, .pair, .quad, .octet].getD f.sub.toNat .octet, dRead := true, dWrite := false, a := .pair, b := .word,
                  modOk := ok f a })
    (fun x s l =>
      let e := 2 ^ (x.f.sub.toNat % 4)
      let row := fun (n : Nat) => x.dw x.lowest .A + BitVec.ofNat 64 n * (x.w x.lowest .B).signExtend 64
      s.storeBytesAt x l (row l) (4 * e) e e (data x l (4 * e)) .st fun off => !x.parts.any fun n =>
        decide (n > l) && decide ((row n).toNat ≤ (row l).toNat + off) && decide ((row l).toNat + off < (row n).toNat + 4 * e) &&
          x.rowPasses n) ∧
  Completes .cwb 0x78 (fun _ _ => { a := .pair, b := .word }) (fun x => x.s0) ∧
  Completes .pref 0x74 (fun _ _ => { a := .pair, b := .word })
    (fun x => x.todo.foldl (fun s l =>
      match s.lineReadable x.a l (x.dw l .A + (x.w l .B).signExtend 64).toNat, s.dieOf x.a with
      | some p, some d => if p.tier ≤ 1 ∧ s.needsFetch (some d) p.kid p.key = true then s.fetchLine d (p.key / 128) p.kid else s.countReads [{ p with len := 128 }]
      | _, _ => s) x.s0) ∧
  Completes .cinv 0x77 (fun _ _ => { a := .pair, b := .word })
    (fun x => x.todo.foldl (fun s l =>
      let n := (x.w l .B).toNat
      if n = 0 then s else if x.f.sub = 0 then (s.renewCode x.a l (x.dw l .A).toNat n).dropL1 x.a l (x.dw l .A).toNat n else s.dropCopies x.a l (x.dw l .A).toNat n) x.s0) ∧
  -- `.l1`: no other wheel of the core keeps an instruction of the range in a loop buffer
  (∀ f st t l b m e, st.Issues 0x77 f { a := .pair, b := .word } → f.sub = 0 → exec (.cinv f) st = .next t →
    l ∈ st.takers 0x77 f { a := .pair, b := .word } → st.cur.mill.isSome → b.mill.isSome → b.same st.cur = false →
    st.ready.coreOf b = st.ready.coreOf st.cur → e ∈ (t.thread b m).loopBuf →
    let va := (st.ready.srcD st.cur f l .A).toNat
    let n := (st.ready.srcW st.cur f l .B).toNat
    n ≠ 0 → va / 128 ≤ e.1.toNat / 128 → e.1.toNat / 128 ≤ (va + n - 1) / 128 →
    st.ready.lineReadable st.cur l e.1.toNat = none) ∧
  (∀ (s : State) (x : Ctx) (l : Nat) (va : DWord) (size align g : Nat) (bytes : List Byte),
    let spc := [Space.glob, .sp, .pd, .glob].getD (x.f.mod.toNat % 4) .glob
    let store := s.storeBytesAt x l va size align g bytes .st fun _ => true
    (va.toNat % align ≠ 0 → ∃ fi, store = .error (.fault fi) ∧ fi.cls = 0x0A ∧ fi.sub = 0) ∧
    (va.toNat % align = 0 →
      (∀ e, s.pieces x.a l .store spc va size = .error e → store = .error e) ∧
      ∀ ps, s.pieces x.a l .store spc va size = .ok ps →
        (∀ k, s.boundPieces ps false = some k → ∃ fi, store = .error (.fault fi) ∧ fi.cls = 0x0B ∧ fi.sub = k) ∧
        (s.boundPieces ps false = none → s.writeReady x.a l ps x.s0.fresh = true → 0 < g → bytes.length = size →
          (∀ p ∈ ps, p.tier ≠ 3 ∧ p.off + p.len ≤ size) →
          let parts := fun (p : Piece) => (List.range ((p.len + g - 1) / g)).map fun i =>
            (p.key + g * i, ((bytes.drop p.off).take p.len).drop (g * i) |>.take g, l)
          ∃ s', store = .ok s' ∧ s'.mem = s.mem ∧ s'.mills = s.mills ∧ s'.fe = s.fe ∧
            s'.posted.map (fun p => (p.key, p.bytes, p.lane)) =
              s.posted.map (fun p => (p.key, p.bytes, p.lane)) ++ (ps.map parts).flatten ∧
            ∀ p ∈ s'.posted, p ∈ s.posted ∨ p.owner = x.a ∧ p.rd = 0 ∧ p.red = none ∧ p.reach = none ∧ p.bad = none))) ∧
  -- a fetch by a thread that has jumped since finds no older value of a covered line, but for what a write from another die has replaced
  -- that has not performed at package scope
  ∀ (s : State) (core die kid key : Nat) (lines : List Nat), lines.contains (key / 128) = true →
    (∀ d g k old id, CodeEvt.wrote d g k old (some id) ∈ s.code → CodeEvt.done id ∈ s.code) →
    { s with code := s.code ++ [CodeEvt.cinv core lines] }.oldWords core die (s.code.length + 1) kid key = []

/-! ### Fences, atomics and pond ranges (spec/12) -/

/-- R234, R245-R247: a fence takes the lowest free slot with the accesses of its sets, the writes that these have read or that its lanes
have learned of, its scope and `.sc`, writes the token (slot, count) and counts on; with every slot held it waits, and so does one that
records no set behind an older `.sc` one (the model's reading, log 17); `fwait` waits while a participant's token names a live fence, and
`.all` while a slot is held. While they wait the wheel is stalled. And:
R227, R228, R235, R384: when an access has performed at a fence's scope, for its wheel: as it fails; on a front-end core below die scope; else
its own store within a die as far as it has reached; a write that its home has performed once its push to the wheel's die has come; and beyond a
die only when nothing of it is left. That a slot with EN in S marks what it has recorded as it completes is the model's reading (log 16). -/
def Obligations.FencesTakeSlotsAndTokensWait : Prop :=
  let scope := fun (f : Fields) => [Scope.wheel, .mill, .gang, .die, .pkg].getD (f.sub.toNat % 8) .sys
  let inP := fun (f : Fields) (k : AccSet) => match k with
    | .ld => f.mod.getLsbD 0
    | .st => f.mod.getLsbD 1
    | .at => f.mod.getLsbD 2
    | .en => f.mod.getLsbD 3
    | .ho => f.mod.getLsbD 4 && f.sub.toNat % 8 == 5
  let own := fun (x : Ctx) (p : Posted) => p.owner.same x.a && x.parts.contains p.lane
  let recs := fun (x : Ctx) => (x.s0.posted.filter fun p =>
    (own x p && inP x.f p.set ||
      p.rd == 0 && (p.set != .ho || inP x.f .ho) && x.parts.any fun l => p.readers.any fun r => r.1.same x.a && r.2.1 == l &&
        (match r.2.2 with
          | some k => inP x.f k
          | none => inP x.f .st || inP x.f .at))).map fun p => p.id
  let slots := fun (x : Ctx) => (x.s0.fences x.a).slots
  let free := fun (x : Ctx) => (List.range 4).find? fun i => ((slots x).getD i none).isNone
  let next := fun (n : Nat) => if n ≥ 2 ^ 30 - 1 then 1 else n + 1
  let live := fun (x : Ctx) (l : Nat) => match (slots x).getD ((x.w l .A).toNat % 4) none with
    | some y => y.gen == (x.w l .A).toNat / 4
    | none => false
  let held := fun (x : Ctx) => if x.f.mod.getLsbD 0 then (slots x).any Option.isSome else x.parts.any (live x)
  let wshape := fun (f : Fields) (_ : Agent) => ({ a := if f.mod.getLsbD 0 then .none else .word } : Shape)
  let fshape := fun (_ : Fields) (_ : Agent) => ({ d := .word, bImm := true } : Shape)
  -- an `.sc` fence with no set in P, behind an older `.sc` one that is held
  let behind := fun (x : Ctx) => x.f.sub.getLsbD 3 = true ∧ (∀ k ∈ [AccSet.ld, .st, .at, .en, .ho], inP x.f k = false) ∧
    (x.s0.fences x.a).olderSc (x.s0.fences x.a).gen = true
  CompletesWhen .fence 0xB0 fshape (fun x => (free x).isSome ∧ ¬ behind x)
    (fun x =>
      let i := (free x).getD 0
      let fs := x.s0.fences x.a
      let slot : FenceSlot := ⟨fs.gen, scope x.f, x.f.sub.getLsbD 3, recs x, x.parts, x.f.b.getLsbD 3 && decide (1 ≤ (scope x.f).rank)⟩
      -- the slot completes at once when nothing recorded is left; an older `.sc` fence holds an `.sc` one
      let gone := (slot.recs.all fun id => match x.s0.posted? id with
          | none => true
          | some p => x.s0.doneFor p x.a slot.scope) && !(slot.sc && fs.olderSc slot.gen)
      let s := (if gone then x.s0.slotEnds x.a slot else x.s0).setFences x.a ⟨if gone then fs.slots else setAt fs.slots i (some slot), next fs.gen, none⟩
      x.todo.foldl (fun s l => s.putD x.a x.f l x.lowest [BitVec.ofNat 32 (i + 4 * fs.gen)]) s) ∧
  WaitsWhen .fence 0xB0 fshape (fun x => free x = none ∨ behind x) ∧
  CompletesWhen .fwait 0xB1 wshape (fun x => held x = false) (fun x => x.s0) ∧
  WaitsWhen .fwait 0xB1 wshape (fun x => held x = true) ∧
  -- a wheel that a fence or a wait stalls issues nothing but the word that waits
  (∀ (s : State) (a b : Agent), a.mill.isSome → (s.fences a).stall = some b → a ≠ b → s.mayIssue a = false) ∧
  ∀ (s : State) (p : Posted) (a : Agent) (sc : Scope), (p.bad.isSome → s.doneFor p a sc = true) ∧
    (p.bad = none → (a.mill = none → (s.doneFor p a sc = true ↔ sc.rank < 3)) ∧
      (a.mill.isSome → (3 < sc.rank ∨ p.rd ≠ 0) → s.doneFor p a sc = false) ∧
      ∀ d, a.mill.isSome → sc.rank ≤ 3 → p.rd = 0 → s.dieOf a = some d →
        (p.settled = none → p.owner.same a = true → p.red = none → p.die = some d → (s.doneFor p a sc = true ↔ p.reached sc = true)) ∧
        (p.settled.isSome → p.reached .die = false → (s.doneFor p a sc = true ↔ s.pushingTo p.id d = false ∧ s.arriving p = false)))

/-- R249-R251: when every participant's location passes alignment, range, translation, bound slots and SC order (and error marks,
for an old value), each participant's operation goes on its way in increasing lane order: one AT access with the operation, its
operands and width, and for `atom` and `cas` a long-latency instruction that will take the old value. -/
def Obligations.AtomicsGoTogetherToTheMemorySide : Prop :=
  let wide := fun (f : Fields) => f.sub.getLsbD 4
  let use := fun (f : Fields) => if wide f then Use.pair else .word
  let size := fun (f : Fields) => if wide f then 8 else 4
  let space := fun (f : Fields) => [Space.glob, .sp, .pd, .glob].getD (f.mod.toNat % 4) .glob
  let ok := fun (f : Fields) (a : Agent) => match a with
    | .fe _ => f.mod.toNat % 4 == 0
    | _ => f.mod.toNat % 4 != 3
  let val := fun (x : Ctx) (l : Nat) (k : Fld) => if wide x.f then x.dw l k else (x.w l k).setWidth 64
  let plus := fun (x : Ctx) (l : Nat) => x.dw l .A + (x.w l .B).signExtend 64
  let base := fun (x : Ctx) (l : Nat) => x.dw l .A
  let pcs := fun (at' : Ctx → Nat → DWord) (x : Ctx) (l : Nat) => x.s0.pieces x.a l .atomic (space x.f) (at' x l) (size x.f)
  let pass := fun (old : Bool) (at' : Ctx → Nat → DWord) (x : Ctx) => ∀ l ∈ x.todo, (at' x l).toNat % size x.f = 0 ∧
    ∃ ps, pcs at' x l = .ok ps ∧ x.s0.boundPieces ps false = none ∧ x.s0.writeReady x.a l ps x.s0.fresh = true ∧
      (old = true → x.s0.poisonedIn ps = false)
  let go := fun (old : Bool) (at' : Ctx → Nat → DWord) (op : Ctx → Nat → MemOp) (x : Ctx) => x.todo.foldl (fun s l =>
    match pcs at' x l with
    | .ok (p :: ps) =>
      let acc := BitVec.ofNat 32 (3 + 16 * (if wide x.f then 3 else 2) + 256 * (x.f.mod.toNat % 4))
      let s' :=
        if p.tier = 3 then (if old then s.sendAtomic x l (at' x l) p (op x l) else s.sendReduction x l (at' x l) p (op x l))
        else
          let s1 := s.post ⟨x.a, l, x.pc, .at, acc, x.s0.fresh, none⟩ (at' x l).toNat p [] (some (op x l)) 0 none
          let ds := s.dstsOf x.a x.f l (use x.f).regs
          if old then s1.startLong x.a x.f l x.lowest ds (ds.map fun _ => 0) 0 none (if wide x.f then 3 else 2) [(s.fresh, none)]
          else s1
      s'.fillTlb (p :: ps)
    | _ => s) x.s0
  let alu := fun (x : Ctx) (l : Nat) => (⟨x.f.sub.toNat % 16, 8 * size x.f, val x l .C, 0⟩ : MemOp)
  CompletesWhen .atom 0xB2 (fun f a => { d := use f, a := .pair, b := .word, c := use f, modOk := ok f a }) (pass true plus) (go true plus alu) ∧
  CompletesWhen .red 0xB3 (fun f a => { a := .pair, b := .word, c := use f, modOk := ok f a }) (pass false plus) (go false plus alu) ∧
  CompletesWhen .cas 0xB4 (fun f a => { d := use f, a := .pair, b := use f, c := use f, modOk := ok f a }) (pass true base)
    (go true base fun x l => ⟨11, 8 * size x.f, val x l .C, val x l .B⟩)

/-- R252, R253: with every range aligned and inside the partition's pond share, each participant's n elements of X go on their way,
each one AT access of 4 bytes with its operation and its scalar, or the place of its element of Y. -/
def Obligations.PondRangesGoElementByElement : Prop :=
  let two := fun (f : Fields) => f.sub.toNat % 8 == 4
  let share := fun (x : Ctx) (a : Nat) => (x.s0.part (x.s0.partOfAgent x.a)).pond.getD (a / 2 ^ 28 % 4) (0, 0)
  let inside := fun (x : Ctx) (a n : Nat) => a % 4 = 0 ∧ a < 2 ^ 30 ∧ a % 2 ^ 28 + 4 * n ≤ (share x a).2 * 2 ^ 20
  let key := fun (x : Ctx) (a : Nat) => 2 ^ 53 + a / 2 ^ 28 % 4 * 2 ^ 28 + ((share x a).1 * 2 ^ 20 + a % 2 ^ 28)
  let n := fun (x : Ctx) (l : Nat) => (x.w l .B).toNat
  CompletesWhen .pvop 0xB5 (fun f _ => { a := .pair, b := .word, c := if two f then .pair else .word })
    (fun x => ∀ l ∈ x.todo, n x l ≠ 0 → inside x (x.dw l .A).toNat (n x l) ∧ (two x.f → inside x (x.dw l .C).toNat (n x l)))
    (fun x => x.todo.foldl (fun s l => (List.range (n x l)).foldl (fun s i =>
      let a := (x.dw l .A).toNat + 4 * i
      let op : MemOp := ⟨(if x.f.sub.getLsbD 3 then 24 else 16) + x.f.sub.toNat % 8, 32,
        if two x.f then 0 else (x.w l .C).setWidth 64,
        if two x.f then BitVec.ofNat 64 (key x ((x.dw l .C).toNat + 4 * i)) else 0⟩
      s.post ⟨x.a, l, x.pc, .at, BitVec.ofNat 32 (3 + 16 * 2 + 256 * 2), x.s0.fresh, none⟩ a ⟨key x a, 4, 0, 0, false, 0, 0, 0, none⟩ [] (some op) 0 none) s) x.s0)

/-! ### Tables, records, launches (spec/09, spec/20) -/

/-- R181, R350, R372-R374: `xtld` puts 32 bytes in the mill's table at once (as it issues: the model's reading, log 32), a load of its thread; `frec` gives sixteen bytes of the thread's last record, or
of the mill's last engine record, as they lie in memory; `drnwait` gives the drain counter once it is at most its limit, and waits
until then; `savedone` marks a thread that a save has reached. And:
R193, R201: each participant of `syncw` goes past it and waits, until every thread of the wheel has ended or waits: then all go on
together; a `yield` marks its clause, and with the clause's last word the gang's slice ends. -/
def Obligations.TablesRecordsDrainsSyncwAndYield : Prop :=
  (let image := fun (r : FaultRec) => ([(r.flags ++ r.sub ++ r.cls).setWidth 32, (r.core ++ r.mill ++ r.wheel).setWidth 32, r.pc.lo, r.pc.hi,
    r.va.lo, r.va.hi, r.lanesF, r.lanesD, r.access, r.ctx, r.seq.lo, r.seq.hi, r.info0.lo, r.info0.hi, r.info1.lo, r.info1.hi] : List Word)
  let table := fun (x : Ctx) => x.s0.load x.a x.lowest .load ([Space.glob, .sp, .pd, .glob].getD (x.f.mod.toNat / 8 % 4) .glob)
    (x.dw x.lowest .A) 32 32
  -- writes into the mill's scratchpad that others have issued and that have not performed there
  let drain := fun (x : Ctx) => match x.a with
    | .fe _ => 0
    | a => (x.s0.posted.filter fun p => p.mill != a.mill && padOf p.key == a.mill && p.bad.isNone && !p.reached .gang).length +
        (x.s0.inbox.filter fun e => match x.s0.inboxMill e with
          | some m => some m.uid == a.mill
          | none => false).length
  CompletesWhen .xtld 0x81 (fun f _ => { a := .pair, modOk := f.mod.toNat / 8 % 4 != 3 })
    (fun x => ∃ r, table x = .ok r)
    (fun x => match x.a.mill, table x with
      | some uid, .ok (ps, bs) =>
        (((x.s0.modMill uid fun m => { m with tables := setAt m.tables (x.f.mod.toNat % 8) bs }).readPieces x.a x.lowest .ld ps).countReads ps).fillTlb ps
      | _, _ => x.s0) ∧
  Completes .frec 0xE2 (fun _ _ => { d := .quad })
    (fun x => x.begins fun l =>
      let r := if x.f.mod.getLsbD 2 then (match x.a.mill.bind x.s0.mill? with
          | some m => m.lastEng
          | none => FaultRec.zero)
        else (x.thread l).lastRec
      (List.range 4).map fun i => (image r).getD (4 * (x.f.mod.toNat % 4) + i) 0) ∧
  CompletesWhen .drnwait 0xE3 (fun _ _ => { d := .word, a := .word })
    (fun x => drain x ≤ (x.w x.lowest .A).toNat) (fun x => x.writes fun _ => [BitVec.ofNat 32 (drain x)]) ∧
  WaitsWhen .drnwait 0xE3 (fun _ _ => { d := .word, a := .word }) (fun x => drain x > (x.w x.lowest .A).toNat) ∧
  Completes .savedone 0xE0 (fun _ _ => {})
    (fun x =>
      let saving := match x.s0.gangOf x.a with
        | some g => (match x.s0.gang? g with
          | some g => g.save.isSome
          | none => false)
        | none => false
      -- inside its save vector, at the depth of the entry or deeper
      let inside := fun (t : Thread) => match t.saveDepth with
        | some d => decide (0 < d ∧ d ≤ t.depth)
        | none => false
      x.todo.foldl (fun s l => if saving && inside (x.thread l) then s.modThread x.a l fun t => { t with saveDone := true } else s) x.s0)) ∧
  ((∀ f st, st.Issues 0x8E f {} →
    let tk := st.takers 0x8E f {}
    let all := (List.range (st.ready.threads st.cur).length).all fun l =>
      (st.ready.thread st.cur l).exited || (st.ready.thread st.cur l).waiting && !(st.ready.thread st.cur l).halted || tk.contains l
    ∃ t, exec (.syncw f) st = .next t ∧ st.wentOn f t ∧
      t.kept = (tk.foldl (fun s l => s.modThread st.cur l fun u => { u with syncAt := u.clause.map fun c => (u.pc, c) }) st.ready).kept ∧
      ∀ l, (t.thread st.cur l).waiting = (!all && (tk.contains l || (st.ready.thread st.cur l).waiting))) ∧
  ∀ f st, st.Issues 0x97 f {} →
    let tk := st.takers 0x97 f {}
    let last := fun (l : Nat) => match (st.ready.thread st.cur l).clause with
      | some c => c.idx + 1 == c.count
      | none => false
    ∃ t, exec (.yield f) st = .next t ∧ t.kept = st.ready.kept ∧ st.wentOn f t ∧
      (∀ l ∈ tk, ∀ c, (st.ready.thread st.cur l).clause = some c → c.idx + 1 < c.count →
        (t.thread st.cur l).clause = some { c with idx := c.idx + 1, yld := true }) ∧
      ((∃ l ∈ tk, last l = true) → ∀ g, st.ready.gangOf st.cur = some g → ∀ x ∈ t.gangs, x.uid = g → x.yield = true) ∧
      ((∀ l ∈ st.lanes, last l = false) → t.gangs = st.gangs))

/-- R153, R166-R168, R198-R200: with room in the launch queue and a record that passes, `spawn` adds its grid and first gang, counted
in its command; full, `.try` tells false; `grab` takes max(RMIN, ceil(remaining / RDIV)) of what remains, for each participant in turn or
once for all. And which records pass: an aligned one whose reads answer is refused with the first subcode of R153's table that applies,
and one to which none applies, without images, is taken; SCHED 0 names no schedule (R150). That the grid's first gang alone joins the ready order
is the model's choice (log 35), as is that a `grab` is served as it issues (log 53). -/
def Obligations.SpawnAddsGridsAndGrabTakesRanges : Prop :=
  CompletesEach .spawn 0x95 (fun f _ => { a := .pair, gWrite := if f.sub = 1 then [f.d.toNat % 8] else [] })
    (fun x s l => match x.a.mill.bind x.s0.gridOfMill with
      | none => pure s
      | some g =>
        let told := fun (b : Bool) (s : State) => if x.f.sub = 1 then s.modThread x.a l fun t => t.setGuard (x.f.d.toNat % 8) b else s
        if (s.gangs.filter fun h => h.st == .unplaced && (s.grid? h.grid).map (·.part) == some g.part).length ≥ 4096 then
          if x.f.sub = 1 then pure (told false s) else .error .stall
        else do
          let e ← s.readLaunch g.part false (s.spawnRead x.a l g.part) (x.dw l .A)
          -- the lines read count for the monitors (R414)
          let s := (e.reads (x.dw l .A)).foldl (fun t r => match t.pieces x.a l .load .glob r.1 r.2 with
            | .ok ps => t.countReads ps
            | .error _ => t) s
          pure (told true { s with
            grids := s.grids ++ [{ uid := s.fresh, part := g.part, queue := g.queue, cmd := g.cmd, seed := false, lr := e.lr,
                                   params := e.params, patImg := e.patImg, portImg := e.portImg, sched := e.sched, cursor := 0,
                                   left := e.lr.gangs, placed := 0, dead := false }]
            gangs := s.gangs ++ [{ uid := s.fresh + 1, grid := s.fresh, num := 0, st := .unplaced, order := s.fresh, age := 0, starve := 0,
                                   yield := false, save := none, restoring := false, mills := [] }]
            cmds := s.cmds.map fun c => if c.uid = g.cmd then { c with tree := c.tree + 1 } else c
            fresh := s.fresh + 2 })) ∧
  Completes .grab 0x96 (fun _ _ => { d := .quad })
    (fun x => match x.a.mill.bind x.s0.gridOfMill with
      | none => x.s0
      | some g =>
        let take := fun (p : State × Nat) (lanes : List Nat) =>
          let rem := g.lr.rtotal - p.2
          let n := if rem = 0 then 0 else min rem (max g.lr.rmin ((rem + g.lr.rdiv - 1) / g.lr.rdiv))
          let v := fun (k : Nat) => [BitVec.ofNat 32 k, BitVec.ofNat 32 (k / 2 ^ 32)]
          (lanes.foldl (fun s l => s.longD x.a x.f l x.lowest (v p.2 ++ v n) 0)
            { p.1 with grids := p.1.grids.map fun h => if h.uid = g.uid then { g with cursor := p.2 + n } else h }, p.2 + n)
        if x.f.mod.getLsbD 0 then (take (x.s0, g.cursor) x.todo).1
        else (x.todo.foldl (fun p l => take p [l]) (x.s0, g.cursor)).1) ∧
  ∀ (s : State) (part : Nat) (rd : Reads) (addr : DWord) (bs ps : List Byte),
    let fails := fun (k : Nat) => ∃ fi, s.readLaunch part false rd addr = .error (.fault fi) ∧ fi.cls = 0x14 ∧ fi.sub = k
    let num := fun (off n : Nat) => natOfBytes ((bs.drop off).take n)
    let width := fun (k : Nat) => num 0x08 8 / 2 ^ (6 * k) % 64
    let ext := fun (k : Nat) => num (0x10 + 4 * k) 4
    let wheels := num 0x28 1
    let hres := num 0x29 1
    let gang := num 0x2A 1
    let minwin := num 0x2B 1
    let c1 := width 0 > 5 ∨ width 1 > 4 ∨ width 2 > 3 ∨ ((List.range 6).map width).sum > 64 ∨
      (∃ k < 6, ext k = 0 ∨ ext k > 2 ^ width k) ∨ ext 1 ≠ wheels ∨ ext 2 ≠ gang
    let c2 := wheels < 1 ∨ wheels > 16 ∨ hres > 15 ∨ wheels + hres > 16 ∨ gang < 1 ∨ gang > 8 ∨ minwin < 1 ∨ minwin > 21 ∨
      num 0x2C 2 + num 0x2E 2 > 1536 ∨ num 0x00 8 % 4 ≠ 0 ∨ num 0x80 8 % 4 ≠ 0 ∨ num 0x88 4 % 4 ≠ 0 ∨ num 0x90 8 % 64 ≠ 0
    -- the wheels of the mill find a pipe each on an empty core (R147, R148)
    let c3 := assignPipes (8 + 24 * minwin) (wheels + hres) [(0, 0), (0, 0), (0, 0), (0, 0)] = none
    let c4 := num 0x70 8 ≠ 0 ∧ (num 0x78 4 = 0 ∨ num 0x7C 4 = 0)
    let c5 := ∀ e ∈ (s.part part).engs, e.num ≠ num 0x6C 4
    (addr.toNat % 256 ≠ 0 → fails 0) ∧
    (addr.toNat % 256 = 0 → rd addr 256 = .ok bs →
      (num 0x30 8 = 0 ∧ ps = List.replicate 64 0 ∨ num 0x30 8 ≠ 0 ∧ rd (BitVec.ofNat 64 (num 0x30 8)) 64 = .ok ps) →
      (c1 → fails 1) ∧ (¬ c1 → c2 → fails 2) ∧ (¬ c1 → ¬ c2 → c3 → fails 3) ∧ (¬ c1 → ¬ c2 → ¬ c3 → c4 → fails 4) ∧
      (¬ c1 → ¬ c2 → ¬ c3 → ¬ c4 → c5 → fails 5) ∧
      (¬ c1 → ¬ c2 → ¬ c3 → ¬ c4 → ¬ c5 → num 0x40 8 = 0 → num 0x50 8 = 0 → num 0x58 8 = 0 →
        ∃ e, s.readLaunch part false rd addr = .ok e ∧ e.lr = launchOf bs ∧ e.patImg = [] ∧ e.portImg = [] ∧ e.sched = [] ∧
          e.params = (List.range 16).map fun i => BitVec.ofNat 32 (natOfBytes ((ps.drop (4 * i)).take 4))))

/-! ### The sluice, the flume and the walk engine (spec/13, spec/14, spec/16) -/

/-- R240, R262, R263, R275, R276: with every port and member in range, `send` delivers each participant's message in increasing lane
order, stamped with the accesses that its lane has made, read or learned of: READY and ACCFREE to the input of a context that runs a walk,
the others at the end of a FIFO with room, or counted as dropped. And:
R265, R266, R277-R280: `patset` writes a legal entry and clears its age; `portcfg` sets depth, policy and scope when the messages
held and the live walks fit; `portst` gives the state of a port or a pattern, clearing drops with `.clr`, read at a moment until its
completion (the model's choice, log 32); `hret` ends its threads, which hold no posted fault. -/
def Obligations.SendPortsAndPatterns : Prop :=
  (CompletesEach .send 0xC0 (fun f _ => { a := .pair, b := .word, c := if f.sub = 1 then .word else .none, allHaz := true })
    (fun x s l =>
      let far := x.f.sub == 1
      let port := fun (n : Nat) => (x.w n .B).toNat
      let members := match x.a.mill.bind x.s0.gridOfMill with
        | some g => g.lr.gang
        | none => 0
      let legal := x.parts.all fun n => decide (port n ≤ if far then 31 else 33) && (!far || decide ((x.w n .C).toNat < members))
      let to' : Option Nat :=
        if far then (match x.s0.gangOf x.a with
          | some g => (match x.s0.gang? g with
            | some g => g.mills[(x.w l .C).toNat]?
            | none => none)
          | none => none)
        else x.a.mill
      let seen := fun (sc : Scope) => (s.posted.filter fun p =>
        p.set != .ho && p.set != .en &&
          (p.owner.same x.a && p.lane == l ||
            p.rd == 0 && p.readers.any fun r => r.1.same x.a && r.2.1 == l && r.2.2 != some .ho)).map fun p => (p.id, sc)
      match legal, to', to'.bind s.mill? with
      | true, some uid, some m =>
        if port l ≥ 32 then
          match m.ctxs[port l - 32]? with
          | some c =>
            if ((x.dw l .A).toNat / 2 ^ 60 = 4 ∨ (x.dw l .A).toNat / 2 ^ 60 = 5) ∧ c.walks.any Walk.live then
              pure (s.modMill uid fun m => { m with ctxs := modAt m.ctxs (port l - 32) fun c =>
                { c with input := c.input ++ [⟨x.dw l .A, seen .mill⟩] } })
            else .error .stall
          | none => .error .stall
        else match m.st == .running && !m.aborted, m.ports[port l]? with
          | true, some q =>
            if q.fifo.length < q.depth then
              let q := { q with fifo := q.fifo ++ [⟨x.dw l .A, seen (if far || q.gang then .gang else .mill)⟩] }
              pure (s.modMill uid fun m => { m with ports := setAt m.ports (port l) q })
            else if q.count then
              let q := { q with drops := if q.drops = BitVec.allOnes 32 then q.drops else q.drops + 1, sticky := true }
              pure (s.modMill uid fun m => { m with ports := setAt m.ports (port l) q })
            else .error .stall
          | _, _ => .error .stall
      | _, _, _ => .error .stall)) ∧
  (let n := fun (x : Ctx) (l : Nat) => (x.w l .B).toNat
  let entry := fun (x : Ctx) =>
    let w := fun (k : Nat) => (x.s0.srcGroup x.a x.f x.lowest .A 4).getD k 0
    (w 3 ++ w 2 ++ w 1 ++ w 0 : BitVec (32 + 32 + 32 + 32))
  let ports := fun (e : BitVec 128) => (List.range 32).filter fun i => e.getLsbD i
  let hres := fun (x : Ctx) => match x.a.mill.bind x.s0.gridOfMill with
    | some g => g.lr.hres
    | none => 0
  let legal := fun (x : Ctx) (e : BitVec 128) => e.getLsbD 40 = true →
    1 ≤ (ports e).length ∧ (ports e).length ≤ 4 ∧ e.getLsbD 64 = false ∧ e.getLsbD 65 = false ∧ hres x ≠ 0
  let mill := fun (x : Ctx) => x.a.mill.bind x.s0.mill?
  let bit := fun (b : Bool) => if b then 1 else 0
  CompletesWhen .patset 0xC1 (fun _ _ => { a := .quad, b := .word }) (fun x => legal x (entry x))
    (fun x => match x.a.mill with
      | some uid => x.s0.modMill uid fun m =>
          { m with pats := modAt m.pats (n x x.lowest % 16) fun p => { p with entry := entry x, age := 0 } }
      | none => x.s0) ∧
  CompletesWhen .portcfg 0xC2 (fun _ _ => { a := .word, b := .word })
    (fun x => ∀ m, mill x = some m →
      let depth := (x.w x.lowest .A).toNat % 16 + 1
      let k := n x x.lowest % 32
      (∀ p, m.ports[k]? = some p → p.fifo.length ≤ depth) ∧
      ∀ c ∈ m.ctxs, ∀ w ∈ c.walks, w.pending = true → ([w.rc.pa, w.rc.pb, w.rc.pc].filter (· == k)).length * w.rc.look ≤ depth)
    (fun x => match x.a.mill with
      | some uid => x.s0.modMill uid fun m => { m with ports := modAt m.ports (n x x.lowest % 32) fun p =>
          let w := x.w x.lowest .A
          { p with depth := w.toNat % 16 + 1, count := w.getLsbD 4, gang := w.getLsbD 5 } }
      | none => x.s0) ∧
  Completes .portst 0xC3 (fun f _ => { d := .pair, b := .word, modOk := f.mod.toNat % 4 != 3 })
    (fun x => x.looks fun l => if x.f.mod.getLsbD 0 then .pattern (n x l % 16)
      else .port (n x l % 32) (if x.f.mod.getLsbD 1 then some x.s0.fresh else none)) ∧
  (let port := fun (m : Mill) (k : Nat) => match m.ports[k]? with
     | some p => p.drops.toNat * 2 ^ 32 + 2 ^ 11 * bit p.sticky + 2 ^ 10 * bit p.gang + 2 ^ 9 * bit p.count + 2 ^ 5 * (p.depth - 1) +
         p.fifo.length
     | none => 0
   (∀ k, ReadsOn (.port k none) fun m => port m k) ∧
   (∀ k, ReadsOn (.pattern k) fun m => match m.pats[k]? with
     | some p => (p.entry.extractLsb' 0 32).toNat * 2 ^ 32 + 2 ^ 20 * (p.entry.extractLsb' 36 4).toNat +
         2 ^ 16 * (p.entry.extractLsb' 32 4).toNat + 2 ^ 7 * p.age + 2 ^ 6 * bit (m.satisfiable k) + 2 ^ 5 * bit (p.entry.getLsbD 40) + p.live
     | none => 0) ∧
   ∀ (s : State) (uid wheel lane id k g : Nat) (o : LongOp) (m : Mill),
     let a := Agent.wheel uid wheel
     (s.thread a lane).long.find? (·.id == id) = some o → o.look = some (.port k (some g)) → o.wait = none → o.parts = [] →
     s.mill? uid = some m → (∀ l < lane, ∀ q ∈ (s.thread a l).long, q.look ≠ some (.port k (some g))) →
     exec (.longLatencyComplete a lane id) s =
       .next ((s.modMill uid fun m => { m with ports := modAt m.ports k fun p => { p with drops := 0, sticky := false } }).landed a lane
         { o with look := none
                  writes := (o.writes.map Prod.fst).zip [BitVec.ofNat 32 (port m k), BitVec.ofNat 32 (port m k / 2 ^ 32)] })) ∧
  ∀ f st, st.Issues 0xC4 f { transfer := true } →
    (∀ l ∈ st.takers 0xC4 f { transfer := true }, (st.ready.thread st.cur l).posted = []) →
    let gone := (st.takers 0xC4 f { transfer := true }).foldl (fun s l => s.modThread st.cur l fun t => { t with exited := true }) st.ready
    ∃ t, exec (.hret f) st = .next t ∧ t.kept = (gone.releaseClaims st.cur).kept)

/-- R242, R295-R297: `flstage` raises the stage counter to the largest value; `tlrd` gives a context's counter; `tlwait.try` tells of
each participant whether its target has been reached, and a blocking `tlwait` goes on once all have, and before that waits with
its whole wheel; a thread whose number has been reached has learned of the writes up to it (the model's reading of R234 and R242, log 17);
`tlrd` reads at a moment until its completion (the model's choice, log 32). -/
def Obligations.StagesRiseAndTimelinesAreAwaited : Prop :=
  let counter := fun (x : Ctx) => match x.a.mill.bind x.s0.mill? with
    | some m => if x.f.mod.toNat % 4 = 0 then m.flume.timeline else (match m.ctxs[x.f.mod.toNat % 4 - 1]? with
        | some c => c.timeline
        | none => 0)
    | none => 0
  -- a thread whose number the flume has reached has learned of the writes of the operations up to it, for its later fences and sends
  let learned := fun (x : Ctx) (s : State) (l : Nat) => match x.a.mill with
    | some uid =>
      if x.f.mod.toNat % 4 ≠ 0 ∨ (x.dw l .A).toNat > counter x then s
      else
        let ids := (s.posted.filter fun p => p.owner == .wheel uid 255 && decide (p.lane ≤ (x.dw l .A).toNat) && p.rd == 0).map (·.id)
        { s with posted := s.posted.map fun p =>
          if p.id ∈ ids ∧ (x.a, l, none) ∉ p.readers then { p with readers := p.readers ++ [(x.a, l, none)] } else p }
    | none => s
  let wshape := fun (f : Fields) (_ : Agent) =>
    ({ a := .pair, modOk := f.mod.toNat % 4 != 3, gWrite := if f.sub = 1 then [f.d.toNat % 8] else [] } : Shape)
  -- the wait would never end: the flume or the walk has halted, or a handler waits on its own walk
  let dead := fun (x : Ctx) => match x.a.mill.bind x.s0.mill?, x.s0.wheel? x.a with
    | some m, some w =>
      if x.f.mod.toNat % 4 = 0 then m.flume.halt.isSome
      else (match m.ctxs[x.f.mod.toNat % 4 - 1]? with
        | some c => w.handler && c.walks.any Walk.pending || c.halted
        | none => false)
    | _, _ => false
  Completes .flstage 0xC8 (fun _ _ => { a := .word })
    (fun x => match x.a.mill with
      -- what fences with EN in S have put before it comes before what the engines do from here on (R236)
      | some uid => (x.todo.foldl (fun s l => s.release uid x.a l) x.s0).modMill uid fun m => { m with flume := { m.flume with
          stage := BitVec.ofNat 32 (x.todo.foldl (fun n l => max n (x.w l .A).toNat) m.flume.stage.toNat) } }
      | none => x.s0) ∧
  Completes .tlrd 0xC9 (fun f _ => { d := .pair, modOk := f.mod.toNat % 4 != 3 })
    (fun x => x.looks fun _ => .counter (x.f.mod.toNat % 4)) ∧
  ReadsOn (.counter 0) (fun m => m.flume.timeline) ∧
  (∀ c, ReadsOn (.counter (c + 1)) fun m => match m.ctxs[c]? with
    | some y => y.timeline
    | none => 0) ∧
  CompletesWhen .tlwait 0xCA wshape (fun x => x.f.sub = 1)
    (fun x => x.todo.foldl (fun s l => s.modThread x.a l fun t => t.setGuard (x.f.d.toNat % 8) (decide ((x.dw l .A).toNat ≤ counter x)))
      (x.todo.foldl (learned x) x.s0)) ∧
  CompletesWhen .tlwait 0xCA wshape (fun x => x.f.sub = 0 ∧ ∀ l ∈ x.todo, (x.dw l .A).toNat ≤ counter x)
    (fun x => x.todo.foldl (learned x) x.s0) ∧
  WaitsWhen .tlwait 0xCA wshape (fun x => x.f.sub = 0 ∧ (∃ l ∈ x.todo, (x.dw l .A).toNat > counter x) ∧ dead x = false)

/-- R301, R304-R306, R325-R329: `wpost` queues a record that passes and gives the number of its last tile; while the queue of the core is
full it stalls its wheel with the record that it has read, which it does not check again; which records pass; `wstat` gives a value of the walk
shown; `wcancel` cancels the context's walks; `accld` reads four values of a DONE slot; `accclr` stores zeros over a slot and clears its error
marks. That `wpost` reads as it issues and `wstat` at a moment until its completion are the model's choices (log 32), and so are the walks that
`wcancel` ends at once and the pair that selector 5 shows (log 34). And:
R330, R331, R341-R343: `seedx` writes the 64 bits that the generator gives from the seed; `seedfit` begins with the record,
error and clamp mask of its fit: sums rounded one by one to nearest even, coefficients to the nearest integer and clamped. -/
def Obligations.WalkInstructionsAndSeededRecords : Prop :=
  (let rec' := fun (x : Ctx) => x.s0.load x.a x.lowest .load ([Space.glob, .sp, .pd, .glob].getD (x.f.mod.toNat % 4) .glob)
    (x.dw x.lowest .A + (x.w x.lowest .B).signExtend 64) 128 128
  let mill := fun (x : Ctx) => x.a.mill.bind x.s0.mill?
  let ok := fun (f : Fields) (a : Agent) => match a with
    | .fe _ => f.mod.toNat % 4 == 0
    | _ => f.mod.toNat % 4 != 3
  let two := fun (k : Nat) => [BitVec.ofNat 32 k, BitVec.ofNat 32 (k / 2 ^ 32)]
  -- the walk that is on the context, and the place of an accumulator slot in the allocation
  let on := fun (x : Ctx) => (mill x).bind fun m => m.liveWalk (x.f.mod.toNat % 2)
  let at' := fun (w : Walk) (n : Nat) => w.rc.cslot.toNat % 2 ^ 60 + n * w.rc.cSize
  let size := fun (w : Walk) => 4 * (w.rc.tmRows * w.rc.tnCols)
  let part := fun (x : Ctx) (w : Walk) (l : Nat) => at' w (x.w l .A).toNat + 4 * ((x.w l .B).toNat * w.rc.tnCols + (x.w l .C).toNat)
  -- the record: one that has waited since its word issued, or the one read now
  let waited := fun (x : Ctx) => match (x.s0.wheel? x.a).bind fun w => w.posting with
    | some (pc, r) => if pc = x.pc then some r else none
    | none => none
  let given := fun (x : Ctx) => match waited x, rec' x with
    | some r, _ => some (r, ([] : List Piece))
    | none, .ok (ps, bs) => some (walkRecOf bs, ps)
    | none, .error _ => none
  let good := fun (x : Ctx) => ∃ m w r ps, mill x = some m ∧ x.s0.wheel? x.a = some w ∧ given x = some (r, ps) ∧
    ((waited x).isSome ∨ m.walkSub r = none)
  let meets := fun (p q : Nat × Nat) => p.1 < q.1 + q.2 ∧ q.1 < p.1 + p.2
  let full := fun (x : Ctx) => match mill x with
    | some m => decide (x.s0.queueUsed m.core ≥ Config.walkQueue)
    | none => false
  let own := fun (x : Ctx) => match mill x, x.s0.wheel? x.a with
    | some m, some w => w.handler && (m.busyCtx 0 || m.busyCtx 1)
    | _, _ => false
  CompletesWhen .wpost 0xD0 (fun f a => { d := .pair, a := .pair, b := .word, modOk := ok f a }) (fun x => good x ∧ full x = false)
    (fun x => match x.a.mill, mill x, given x with
      | some uid, some m, some (r, ps) =>
        let c := x.f.mod.toNat / 4 % 2
        let y := m.ctxs.getD c WalkCtx.start
        let s := (x.s0.countReads ps).fillTlb ps
        let s := { s.modMill uid fun m => { m with ctxs := modAt m.ctxs c fun z => { z with
            posted := z.posted + 1
            tiles := z.tiles + r.tiles
            walks := z.walks ++ [newWalk r c (z.posted + 1) z.tiles x.s0.fresh x.pc] } } with fresh := x.s0.fresh + 1 }
        x.todo.foldl (fun s l => (s.release uid x.a l).putD x.a x.f l x.lowest (two (y.tiles + r.tiles))) s
      | _, _, _ => x.s0) ∧
  (∀ f st, let sh : Shape := { d := .pair, a := .pair, b := .word, modOk := ok f st.cur }
    let x := st.ctx 0xD0 f sh
    st.Issues 0xD0 f sh → good x → full x = true → own x = false →
    ∃ t r ps, given x = some (r, ps) ∧ exec (.wpost f) st = .next t ∧ t.kept = ((x.s0.countReads ps).fillTlb ps).kept ∧
      (t.wheel? st.cur).bind Wheel.posting = some (x.pc, r) ∧ (t.fences st.cur).stall = some st.cur ∧
      ∀ l, (t.thread st.cur l).pc = (st.ready.thread st.cur l).pc) ∧
  (∀ (m : Mill) (r : WalkRec),
    let rows := [32, 64, 128].getD r.tm 128
    let cols := [32, 64, 128].getD r.tn 128
    let depth := if r.afmt = 3 then 64 else 32
    let ceil := fun (a b : Nat) => (a + b - 1) / b
    let slot := fun (fmt lines : Nat) => (([64, 33, 33, 34].getD fmt 14) * lines + 63) / 64 * 64
    let part := fun (p : DWord) (n size : Nat) => (p.toNat % 2 ^ 60, n * size)
    let ra := part r.aslot r.asn (slot r.afmt rows)
    let rb := part r.bslot r.bsn (slot r.bfmt cols)
    let rc := part r.cslot r.csn ((4 * rows * cols + 63) / 64 * 64)
    let space := (m.scratch + m.acc) * 1024
    let port := fun (p : Nat) => ∃ q, p ≤ 31 ∧ m.ports[p]? = some q ∧ ([r.pa, r.pb, r.pc].filter (· == p)).length * r.look ≤ q.depth
    m.walkSub r = none ↔
      (0 < r.m ∧ r.m ≤ 2 ^ 24 ∧ 0 < r.n ∧ r.n ≤ 2 ^ 24 ∧ 0 < r.k ∧ r.k ≤ 2 ^ 24 ∧ ceil r.m rows ≤ 65536 ∧ ceil r.n cols ≤ 65536 ∧
        ceil r.k depth ≤ 65536) ∧
      (r.tm ≤ 2 ∧ r.tn ≤ 2 ∧ r.order ≤ 4 ∧ 1 ≤ r.look ∧ r.look ≤ 8) ∧
      ((r.afmt = 0 ∧ r.bfmt = 0 ∨ (r.afmt = 1 ∨ r.afmt = 2) ∧ (r.bfmt = 1 ∨ r.bfmt = 2) ∨ r.afmt = 3 ∧ r.bfmt = 3 ∨
        r.afmt < 3 ∧ r.bfmt = 8) ∧ (r.flags.getLsbD 2 = true ↔ r.bfmt = 8)) ∧
      (r.look ≤ r.asn ∧ r.asn ≤ 256 ∧ r.look ≤ r.bsn ∧ r.bsn ≤ 256 ∧ 1 ≤ r.csn ∧ r.csn ≤ 256) ∧
      ((∀ p ∈ [r.aslot, r.bslot, r.cslot], p.toNat / 2 ^ 60 = 15) ∧ (∀ p ∈ [ra, rb, rc], p.1 % 64 = 0 ∧ p.1 + p.2 ≤ space) ∧
        m.scratch * 1024 ≤ rc.1 ∧ ¬ meets ra rb ∧ ¬ meets ra rc ∧ ¬ meets rb rc) ∧
      (port r.pa ∧ port r.pb ∧ port r.pc) ∧
      (r.order = 4 → 1 ≤ r.tln ∧ r.tln ≤ 65536 ∧ r.tlist.toNat / 2 ^ 60 = 15 ∧ r.tlist.toNat % 2 ^ 60 % 4 = 0 ∧
        r.tlist.toNat % 2 ^ 60 + 4 * r.tln ≤ space)) ∧
  Completes .wstat 0xD1 (fun f _ => { d := .pair, modOk := decide (f.mod.toNat / 2 % 16 ≤ 6) })
    (fun x => x.looks fun _ => .walk (x.f.mod.toNat % 2) (x.f.mod.toNat / 2 % 16)) ∧
  (∀ c sel, ReadsOn (.walk c sel) fun m =>
    let y := m.ctxs.getD c WalkCtx.start
    match (y.walks.find? Walk.live).or (y.walks.find? fun w => w.st == .ended || w.st == .halted) with
    | none => 0
    | some w =>
      let n := min w.next (w.total - 1)
      let t := (w.tile? (n / w.rc.ks)).getD (0, 0)
      let code := match w.st with
        | .queued => 1
        | .running => 2
        | .cancelling => 3
        | .ended => 4
        | .halted => 5
      match sel with
      | 0 => w.waitA
      | 1 => w.waitB
      | 2 => w.waitC
      | 3 => w.waitTok
      | 4 => w.acks
      | 5 => n % w.rc.ks + t.2 % 2 ^ 16 * 2 ^ 16 + t.1 % 2 ^ 16 * 2 ^ 32
      | _ => w.num % 2 ^ 32 + 2 ^ 32 * (code + 2 ^ 8 * min 255 ((w.aslots ++ w.bslots).filter fun y => y.st == .needed).length +
          2 ^ 16 * min 255 (w.cslots.filter fun y => y.st == .done).length)) ∧
  Completes .wcancel 0xD2 (fun _ _ => {})
    (fun x => match x.a.mill with
      | some uid => x.s0.cancelWalks uid (x.f.mod.toNat % 2)
      | none => x.s0) ∧
  -- no walk of the context is queued or running any more
  (∀ (s : State) (uid c : Nat) (m m' : Mill) (y y' : WalkCtx), s.mill? uid = some m → m.ctxs[c]? = some y →
    (∀ w ∈ y.walks, w.again = none ∧ (w.st = .running → m.liveWalk c = some w)) →
    (s.cancelWalks uid c).mill? uid = some m' → m'.ctxs[c]? = some y' → ∀ w ∈ y'.walks, w.st ≠ .queued ∧ w.st ≠ .running) ∧
  CompletesWhen .accld 0xD3 (fun _ _ => { d := .quad, a := .word, b := .word, c := .word })
    (fun x => ∃ uid w, x.a.mill = some uid ∧ on x = some w ∧ ∀ l ∈ x.todo,
      (∃ y, w.cslots[(x.w l .A).toNat]? = some y ∧ y.st = .done) ∧ (x.w l .B).toNat < w.rc.tmRows ∧
        (x.w l .C).toNat % 4 = 0 ∧ (x.w l .C).toNat + 4 ≤ w.rc.tnCols ∧
        -- its row is not poisoned (R318)
        let row := (at' w (x.w l .A).toNat + 4 * (x.w l .B).toNat * w.rc.tnCols, 4 * w.rc.tnCols)
        (∀ m, mill x = some m → ∀ q ∈ m.rowMarks, ¬ meets q row) ∧ x.s0.poisoned (padKey uid row.1) row.2 = false)
    (fun x => match x.a.mill, on x with
      | some uid, some w => x.todo.foldl (fun s l =>
          let ds := s.dstsOf x.a x.f l 4
          -- four reads of 4 bytes
          ((List.range 4).foldl (fun t i => t.post ⟨x.a, l, x.pc, .ld, BitVec.ofNat 32 (1 + 16 * 4 + 256 * 1), s.fresh, none⟩ (part x w l)
              ⟨padKey uid (part x w l) + 4 * i, 4, 4 * i, 0, false, 0, 0, 4 * i, none⟩ [] none 4 none) s).startLong
            x.a x.f l x.lowest ds (ds.map fun _ => 0) 0 none 4 ((List.range 4).map fun i => (s.fresh + i, none))) x.s0
      | _, _ => x.s0) ∧
  CompletesWhen .accclr 0xD4 (fun _ _ => { a := .word })
    (fun x => ∃ uid w y, x.a.mill = some uid ∧ on x = some w ∧ w.cslots[(x.w x.lowest .A).toNat]? = some y ∧
      y.st ≠ .accumulating ∧ y.st ≠ .full)
    (fun x => match x.a.mill, on x with
      | some uid, some w =>
          let off := at' w (x.w x.lowest .A).toNat
          (((List.range (size w / 8)).foldl (fun s i =>
            s.post ⟨x.a, x.lowest, x.pc, .st, BitVec.ofNat 32 (2 + 16 * Nat.log2 (size w) + 256 * 1), x.s0.fresh, some (padKey uid off, size w)⟩ off
              ⟨padKey uid off + 8 * i, 8, 8 * i, 0, false, 0, 0, 8 * i, none⟩ (List.replicate 8 0) none 0 none) x.s0).modMill uid fun m =>
            -- the rows' error marks go
            { m with rowMarks := m.rowMarks.filter fun q => !(decide (meets q (off, size w))) }).clearMarks (padKey uid off) (size w)
      | _, _ => x.s0)) ∧
  (let new := fun (s : BitVec 24) => (s.getLsbD 23 ^^ s.getLsbD 22) ^^ (s.getLsbD 21 ^^ s.getLsbD 16)
  let next := fun (s : BitVec 24) => s <<< 1 ||| (if new s then 1 else 0)
  let bit := fun (seed : BitVec 24) (m : Nat) => new (next^[m] seed)
  let basis := fun (seed : BitVec 24) => ((List.range 64).map fun m => if bit seed m then 2 ^ m else 0).sum
  let seed := fun (x : Ctx) (l : Nat) => (x.w l .A).setWidth 24
  let e := fun (x : Ctx) (l : Nat) => (x.w l .C).toNat % 16
  let w := fun (x : Ctx) (l t : Nat) => bf16.val (((x.s0.srcGroup x.a x.f l .B 8).getD (t / 2) 0).toNat / 2 ^ (16 * (t % 2)) % 2 ^ 16)
  let plus := fun (b : Bool) (v : FV) => if b then v else v.negate
  let add := fun (acc : Nat) (v : FV) => (sumOp fp32 .rne false [] [fp32.val acc, v]).code
  let r := fun (x : Ctx) (l j : Nat) => (List.range 16).foldl (fun acc t => add acc (plus (bit (seed x l) (16 * j + t)) (w x l t))) 0
  -- the coefficient and whether it was clamped: an infinite sum clamps, and 2^(e-4) * r rounds to the nearest integer
  let coef := fun (x : Ctx) (l j : Nat) => match fp32.val (r x l j) with
    | .inf n => ((if n then -16 else 15 : Int), true)
    | .nan _ => (0, false)
    | .fin n m k =>
      let q := (if n then -1 else 1) * (m : ℚ) * 2 ^ (k + (e x l : Int) - 4)
      let near := if q - ⌊q⌋ < 1 / 2 ∨ q - ⌊q⌋ = 1 / 2 ∧ ⌊q⌋ % 2 = 0 then ⌊q⌋ else ⌊q⌋ + 1
      (max (-16) (min near 15), decide (near < -16 ∨ 15 < near))
  let what := fun (x : Ctx) (l t : Nat) =>
    let n : Int := ((List.range 4).map fun j => if bit (seed x l) (16 * j + t) then (coef x l j).1 else -(coef x l j).1).sum
    (.fin (decide (n < 0)) n.natAbs (-(e x l : Int)) : FV)
  let square := fun (acc : Nat) (v : FV) => (sumOp fp32 .rne false [(v, v)] [fp32.val acc]).code
  let err := fun (x : Ctx) (l : Nat) =>
    if seed x l = 0 then (List.range 16).foldl (fun acc t => square acc (w x l t)) 0
    else (List.range 16).foldl (fun acc t =>
      square acc (fp32.val (sumOp fp32 .rne false [] [w x l t, (what x l t).negate]).code)) 0
  let record := fun (x : Ctx) (l : Nat) (c : Nat → Int) => (seed x l).toNat +
    ((List.range 4).map fun j => (c j % 32).toNat * 2 ^ (24 + 5 * j)).sum + e x l * 2 ^ 44
  let give := fun (n err mask : Nat) => [BitVec.ofNat 32 n, BitVec.ofNat 32 (n / 2 ^ 32), BitVec.ofNat 32 err, BitVec.ofNat 32 mask]
  Completes .seedx 0xD5 (fun _ _ => { d := .pair, a := .word })
    (fun x => x.writes fun l => [BitVec.ofNat 32 (basis (seed x l)), BitVec.ofNat 32 (basis (seed x l) / 2 ^ 32)]) ∧
  Completes .seedfit 0xD6 (fun _ _ => { d := .quad, a := .word, b := .octet, c := .word })
    (fun x => x.begins fun l =>
      if (List.range 16).any fun t => (match w x l t with
          | .fin _ _ _ => false
          | _ => true) then give (record x l fun _ => 0) 0x7FC00000 0
      else if seed x l = 0 then give (record x l fun _ => 0) (err x l) 0
      else give (record x l fun j => (coef x l j).1) (err x l)
        ((List.range 4).map fun j => if (coef x l j).2 then 2 ^ j else 0).sum))

/-! ### The clause header (spec/02) -/

/-- R21, R22, R25: lanes that meet a well-formed header with nothing due open its clause together once every flag of WAIT is clear in
each of them, and go on at the next word; until then none moves: that one waiting lane holds its whole group is the model's reading (log 39). -/
def Obligations.HeadersOpenClausesTogether : Prop :=
  ∀ (h : Header) (st : State), st.lanes ≠ [] → h.ok = true →
    (∀ l ∈ st.lanes, (st.ready.thread st.cur l).clause = none ∧ st.ready.saveDue st.cur l = false ∧
      (st.ready.thread st.cur l).haltDue = false ∧ (st.ready.thread st.cur l).posted = []) →
    let held := st.lanes.any fun l => (List.range 12).any fun i =>
      h.wait.getLsbD i && (st.ready.thread st.cur l).long.any fun o => o.flag == some i
    ∃ t, exec (.clauseHeader h) st = .next t ∧ t.kept = st.ready.kept ∧
      ∀ l, (t.thread st.cur l).pc = (if l ∈ st.lanes ∧ held = false then st.pcNow + 8 else (st.ready.thread st.cur l).pc) ∧
        (t.thread st.cur l).clause = if l ∈ st.lanes ∧ held = false then
          some { hdr := st.pcNow, idx := 0, count := h.count.toNat, set0 := h.set0, set1 := h.set1, yld := false }
        else (st.ready.thread st.cur l).clause

/-! ### Decoding, steps, and what holds of every word -/

/-- The encodings that the spec writes out decode to the instructions they stand for (the examples under R44, R78, R88, R102, R111,
R117, R186, R188, R245, R250, R275, R296, R297, R325, R328, R341, R342). -/
def Obligations.TheSpecsWordsDecode : Prop :=
  let z : Fields := ⟨0, 0, 0, 0, 0, 0, 0, 0, 0, 0, 0, 0, 0, 0, 0⟩
  decodeTableWord 96 0x1_0000_0003_B041_4011 = some (.add { z with len := 1, d := 5, a := 4, b := 59, imm := 1 }) ∧
  decodeTableWord 64 0x0240_0000_9050_4018 = some (.addc { z with d := 1, a := 5, b := 9, mod := 9 }) ∧
  decodeTableWord 64 0x000A_0000_6040_8080 = some (.cmp { z with d := 2, a := 4, b := 6, sub := 10 }) ∧
  decodeTableWord 96 0xFFFF_FFC0_0000_0000_03B0_0181 = some (.bra { z with len := 1, a := 59, imm := 0xFFFFFFC0 }) ∧
  decodeTableWord 64 0x0240_0000_0001_01A4 = some (.mfs { z with d := 4, mod := 9 }) ∧
  decodeTableWord 96 0x10_0002_0003_B021_01C1 = some (.ld { z with len := 1, sub := 2, d := 4, a := 2, b := 59, imm := 16 }) ∧
  decodeTableWord 64 0x8003_0000_0061_0214 = some (.redw { z with sub := 3, d := 4, a := 6, mod := 512 }) ∧
  decodeTableWord 64 0x0041_0000_0022_821C = some (.topk { z with sub := 1, d := 10, a := 2, mod := 1 }) ∧
  decodeTableWord 64 0x0081_0000_8002_02C0 = some (.fence { z with sub := 1, d := 8, b := 8, mod := 2 }) ∧
  decodeTableWord 96 0x8_0080_0063_B021_02C9 = some (.atom { z with len := 1, d := 4, a := 2, b := 59, c := 6, mod := 2, imm := 8 }) ∧
  decodeTableWord 96 0x3_0000_0003_B040_0301 = some (.send { z with len := 1, a := 4, b := 59, imm := 3 }) ∧
  decodeTableWord 96 0x1_0000_0000_03B0_0321 = some (.flstage { z with len := 1, a := 59, imm := 1 }) ∧
  decodeTableWord 64 0x0140_0003_F0C1_8340 = some (.wpost { z with d := 6, a := 12, b := 63, mod := 5 }) ∧
  decodeTableWord 64 0x0000_00E0_D0C2_034C = some (.accld { z with d := 8, a := 12, b := 13, c := 14 }) ∧
  decodeTableWord 64 0x0000_0000_0042_8354 = some (.seedx { z with d := 10, a := 4 }) ∧
  decodeTableWord 96 0x2_0000_03B1_0043_0359 = some (.seedfit { z with len := 1, d := 12, a := 4, b := 16, c := 59, imm := 2 })

/-- R21, R35-R37, R47-R53: every well-formed word and header is read back from its own bytes with every field it has; and a decoded
word encodes to the bits it was read from, as far as its length and the header's layout use them. -/
def Obligations.EncodingsReadBack : Prop :=
  (∀ (i : Instr) (w : BitVec 128), encode i = some w → i.WellFormed = true → decodeBytes (encodeBytes i) = .ok (i, [])) ∧
  ∀ (w : BitVec 128) (i : Instr), decode w = .ok i →
    encode i = some (w &&& BitVec.ofNat 128 ([2 ^ 64 - 1, 2 ^ 96 - 1, 2 ^ 128 - 1, 2 ^ 28 - 1].getD (w.extractLsb' 0 2).toNat 0))

/-- A step does what is first on the agenda, an event, or an issue of the agent whose turn it is, and the current agent's with nothing listed;
then time passes; a slice that is over ends before that (the agenda, its picks, the current agent and `Config.elapsed` are the model's choices,
logs 1 and 2, and so is that time passes after what a step does). An issue takes the bytes at the lanes' PC, 8, 12 or 16 by LEN within one
32-byte block (R25, R35), counts them where a region they lie in is monitored (R414), and executes the instruction that they decode to. And:
R25, R36, R44, R46: where the fetch is at fault, or a word crosses its block or does not decode, every lane of the issue traps there, by its own
clause: a word of no listed opcode or form is class 0x01 subcode 0, one of no listed SUB subcode 1, outside a clause class 0x04 subcode 2, or 0
for a thread's first word (the model's reading, log 53); a crossing one is class 0x04 subcode 1. And:
R155-R160: which lanes issue together. On the broadcast stream those at the lowest PC of the wheel's threads that have not exited and are not in
buffer mode; among the lanes in buffer mode those at the PC whose turn it is, with the same word. A lane leaves buffer mode where its buffer has lost
its word or its PC is the broadcast PC, and a loop buffer holds the 48 words executed last. The turns' order beyond R159 is the model's (log 53). -/
def Obligations.StepsRunTheDecodedInstruction : Prop :=
  let runs := fun (t : State) (out : Out) => ∀ (b b0 b1 rest : List Byte) (i : Instr),
    -- traps that have had to wait are tried again; buffer-mode lanes at several PCs take turns; every other agent issues as it stands
    let r := ((t.retryTraps t.cur).leaveBuffers t.cur).nextBuf t.cur
    let lanes := r.group t.cur
    let l0 := lanes.headD 0
    let pc := (r.thread t.cur l0).pc
    let n := [8, 12, 16, 8].getD ((b.headD 0).toNat % 4) 8
    let starts := fun (l : Nat) => (r.thread t.cur l).clause.isNone && (r.thread t.cur l).entryDue
    let traps := fun (fi : Nat → FaultInfo) =>
      spend (.next ((r.takeTraps t.cur pc (lanes.map fun l => (l, fi l, none))).releaseSync t.cur))
    t.mayIssue t.cur = true → lanes ≠ [] → (∀ l ∈ lanes, r.matchedAt t.cur l = false ∧ r.asking t.cur l = false) →
    (∀ fi, r.fetchWord t.cur l0 pc 0 4 = .error (.fault fi) → out = traps fun _ => fi) ∧
    (r.fetchWord t.cur l0 pc 0 4 = .ok b →
      (32 < pc.toNat % 32 + n → out = traps fun l =>
        { cls := 4, sub := if starts l ∧ (b.headD 0).toNat % 4 ≠ 3 then 0 else 1 }) ∧
      (pc.toNat % 32 + n ≤ 32 → r.fetchWord t.cur l0 pc 0 8 = .ok b0 →
        (if n = 8 then b1 = [] else r.fetchWord t.cur l0 pc 8 (n - 8) = .ok b1) →
        (decodeBytes (b0 ++ b1) = .ok (i, rest) → out = spend (exec i (r.countFetch t.cur l0 pc n))) ∧
        ∀ e, decodeBytes (b0 ++ b1) = .error e → out = traps fun l =>
          if (r.thread t.cur l).clause.isNone then { cls := 4, sub := if starts l then 0 else 2 }
          else { cls := 1, sub := if e = .unlistedSub then 1 else 0 }))
  (∀ s : State,
    let t := s.endSlices
    (t.agenda = [] → runs t (step s)) ∧
    (∀ a l, t.agenda = .turn a :: l → runs { t with agenda := l, cur := a } (step s)) ∧
    (∀ e l, t.agenda = .ev e :: l → step s = spend (exec e { t with agenda := l })) ∧
    (∀ c l, t.agenda = .pick c :: l → step s = spend (.next { t with agenda := l, picks := c })) ∧
    t.agenda = s.agenda ∧ t.cur = s.cur ∧ t.mem = s.mem ∧ t.posted = s.posted ∧ ((∀ g ∈ s.gangs, s.sliceOver g = false) → t = s)) ∧
  -- time passes
  (∀ s : State, spend (.next s) = .next s.tick ∧ s.tick.agenda = s.agenda ∧ s.tick.cur = s.cur ∧
    s.tick.clk = s.clk + Config.elapsed s.steps ∧ s.tick.steps = s.steps + 1 ∧
    ((∀ g ∈ s.gangs, g.save = none) → s.tick.mem = s.mem ∧ s.tick.posted = s.posted)) ∧
  (∀ f, spend (.fault f) = .fault f) ∧ (∀ r, spend (.refused r) = .refused r) ∧
  -- what the fetch does besides: waiting traps, buffer-mode lanes' turn, reads of monitored lines counted, and the translation kept
  (∀ s : State, (∀ a, (∀ l, (s.thread a l).due = none) → s.retryTraps a = s) ∧ (∀ a, (∀ u w, a ≠ .buf u w) → s.nextBuf a = s) ∧
    ∀ a l pc n, let r := s.countFetch a l pc n
      r.mem = s.mem ∧ r.mills = s.mills ∧ r.fe = s.fe ∧ r.posted = s.posted ∧
        ((∀ p ∈ s.parts, p.monitors = []) → r = { s with tlb := r.tlb, tlb2 := r.tlb2 })) ∧
  -- which lanes issue together
  (∀ (s : State) (u w : Nat),
    let a := Agent.wheel u w
    let b := Agent.buf u w
    let len := (s.threads a).length
    let t := fun (l : Nat) => s.thread a l
    -- a thread that a debugger has halted, that has stopped or whose trap waits counts with its PC, but does not issue
    let live := fun (l : Nat) => l < len ∧ (t l).exited = false ∧ (t l).waiting = false ∧ (t l).saveDone = false
    let free := fun (l : Nat) => (t l).halted = false ∧ (t l).stopped = false ∧ (t l).due = none
    let inBuf := fun (l : Nat) => live l ∧ (t l).bufMode = true
    let turn := fun (pc : DWord) =>
      let ready := fun (l : Nat) => inBuf l ∧ (t l).halted = false ∧ (t l).stopped = false
      let last := (s.wheel? a).bind Wheel.bufPc
      (∃ l, ready l ∧ (t l).pc = pc) ∧
        (last = some pc ∨ (∀ l, ready l → last ≠ some (t l).pc) ∧ ∀ l, ready l → pc.toNat ≤ (t l).pc.toNat)
    (∀ l, l ∈ s.group a ↔ live l ∧ (t l).bufMode = false ∧ free l ∧
      ∀ k, live k → (t k).bufMode = false → (t l).pc.toNat ≤ (t k).pc.toNat) ∧
    (∀ l, l ∈ s.group b ↔ inBuf l ∧ free l ∧ turn (t l).pc ∧
      ∃ k, inBuf k ∧ free k ∧ (t k).pc = (t l).pc ∧ (∀ j < k, inBuf j → free j → (t j).pc ≠ (t l).pc) ∧
        (t k).bufWord (t k).pc = (t l).bufWord (t l).pc) ∧
    (s.group a).Pairwise (· < ·) ∧ (s.group b).Pairwise (· < ·) ∧
    -- lanes leave buffer mode, but for those of a wheel that an instruction stalls
    ((s.fences a).stall ≠ none → s.leaveBuffers a = s) ∧
    ((s.fences a).stall = none → ∀ l < len,
      let lost := fun (k : Nat) => (t k).bufMode = true ∧ (t k).bufWord (t k).pc = none
      let heard := fun (k : Nat) => live k ∧ ((t k).bufMode = false ∨ lost k)
      (((t l).bufMode = true ∧ ¬ lost l ∧ ¬ ∃ k, heard k ∧ (∀ j, heard j → (t k).pc.toNat ≤ (t j).pc.toNat) ∧ (t k).pc = (t l).pc) →
        (s.leaveBuffers a).thread a l = t l) ∧
      (lost l ∨ ∃ k, heard k ∧ (∀ j, heard j → (t k).pc.toNat ≤ (t j).pc.toNat) ∧ (t k).pc = (t l).pc) →
        (s.leaveBuffers a).thread a l = { t l with bufMode := false })) ∧
  -- a loop buffer: the newest last, each address once
  ∀ (t : Thread) (es : List (DWord × DWord)),
    let l := (t.loopBuf.filter fun e => e.1 ∉ es.map Prod.fst) ++ es
    t.remember es = { t with loopBuf := l.drop (l.length - 48) }

/-- R14, R25, R26: a word whose guard test fails in every lane that issues it changes nothing but the place of those lanes: the PC goes
past it, the index in the clause rises, a header is due after the last word, without HOLD the latch is only one word older, and the word is in the
lanes' loop buffers (R157). And:
R26, R43: with HOLD on a source, a word puts what that source read into h0 of each participant, h0 into h1 and h1 into h2, each
entry one word older; a lane that does not issue the word takes an entry that is not valid. Stated of `mov` holding A. -/
def Obligations.FailedGuardsGoOnAndHoldShiftsTheLatch : Prop :=
  (∀ (i : Instr) (op : BitVec 8) (f : Fields) (st : State), i.word? = some (op, f) → i.WellFormed = true → st.lanes ≠ [] →
    (match st.cur with
      | .fe _ => feExecutes op.toNat
      | _ => true) = true →
    (∀ l ∈ st.lanes,
      let t := st.ready.thread st.cur l
      (∃ c, t.clause = some c ∧ (op ∈ [0x60, 0x61, 0x62, 0x63, 0x64, 0x65, 0x66, 0x6B, 0xC4] → c.idx + 1 = c.count)) ∧
        (f.g ≠ 0 → t.pending (.guard f.g.toNat) = false) ∧ xor (t.guard f.g.toNat) (f.gn == 1) = false) →
    ∃ t, exec i st = .next t ∧ t.kept = st.ready.kept ∧ st.wentOn f t ∧
      (∀ l ∈ st.lanes, ∀ c, (st.ready.thread st.cur l).clause = some c →
        (t.thread st.cur l).clause = if c.idx + 1 < c.count then some { c with idx := c.idx + 1 } else none) ∧
      (∀ l ∈ st.lanes, (∀ k, st.cur ≠ .fe k) → (t.thread st.cur l).loopBuf = ((st.ready.thread st.cur l).remember
        (let w := encodeFields op f
        if lenBytes f.len ≤ 8 then [(st.pcNow, w.setWidth 64)] else [(st.pcNow, w.setWidth 64), (st.pcNow + 8, (w >>> 64).setWidth 64)])).loopBuf) ∧
      (f.hold = 0 → ∀ l, l < (st.threads st.cur).length → (t.thread st.cur l).latch =
        (st.ready.thread st.cur l).latch.map fun e => { e with age := if e.age < 2 then e.age + 1 else 2 })) ∧
  (∀ f st, st.Issues 0x01 f { d := if isD f then .pair else .word, a := if isD f then .pair else .word } → f.hold = 1 →
    ∃ t, exec (.mov f) st = .next t ∧
      (∀ l ∈ st.takers 0x01 f { d := if isD f then .pair else .word, a := if isD f then .pair else .word },
        (t.thread st.cur l).latch = ((⟨st.ready.srcW st.cur f l .A, 0, true⟩ : LatchEntry) ::
          (st.ready.thread st.cur l).latch.map fun e => { e with age := if e.age < 2 then e.age + 1 else 2 }).take 3) ∧
      ∀ l, l < (st.threads st.cur).length → l ∉ st.lanes → ∃ e r, (t.thread st.cur l).latch = e :: r ∧ e.valid = false)

/-- R25, R28-R30, R33, R36, R42, R44-R46, R103: a word's faults enter their handlers: where every lane of an issue fails a check of R46, and
likewise where the word's own operation fails in every lane, nothing of the operation is done and each lane enters the handler of its fault's
class, with `tpc` at the word, `tcause` telling the place, the record kept and the depth one more with v8-v31 reading zero. The checks come in
order: outside a clause class 0x04 subcode 2 (0 before its first word, the model's reading, log 53), a transfer before the clause's end 0x04/4, an
opcode that a front-end core does not execute 0x01/3, a pending guard 0x03/0, an illegal operand 0x02 with its subcode, a hazard 0x03 with
its own, a marked source 0x0C/2. A transfer's bad target is class 0x04 subcode 0. Words that do not decode stand in `StepsRunTheDecodedInstruction`. -/
def Obligations.FaultsEnterTheirHandlers : Prop :=
  -- every instruction is an issue of its word
  (∀ (i : Instr) (op : BitVec 8) (f : Fields), i.word? = some (op, f) → ∃ shape body, ∀ st, exec i st = issue op shape body f st) ∧
  -- the checks before its operands
  (let first := fun (st : State) (op : BitVec 8) (f : Fields) (sh : Shape) (l : Nat) =>
    let t := st.ready.thread st.cur l
    match t.clause with
    | none => some ((4, if t.entryDue then 0 else 2) : Nat × Nat)
    | some c =>
      if sh.transfer = true ∧ c.idx + 1 ≠ c.count then some (4, 4)
      else if (validSubs op).contains f.sub.toNat = false then some (1, if (validSubs op).isEmpty then 0 else 1)
      else if st.cur.mill.isNone ∧ feExecutes op.toNat = false then some (1, 3)
      else if f.g ≠ 0 ∧ t.pending (.guard f.g.toNat) = true then some (3, 0)
      else none
  let skips := fun (st : State) (f : Fields) (sh : Shape) (l : Nat) =>
    (st.ready.thread st.cur l).guard f.g.toNat != (f.gn == 0) ||
      suppressed st.cur (ownFields f sh) (st.ready.ownShape st.cur (ownFields f sh) sh l) l
  -- then its operands, and what it reads and writes
  let own := fun (st : State) (f : Fields) (sh : Shape) (l : Nat) =>
    let g := ownFields f sh
    let sh' := st.ready.ownShape st.cur g sh l
    match operandSub f sh, st.ready.hazardSub st.cur g sh' l with
    | some k, _ => some ((2, k) : Nat × Nat)
    | none, some k => some (3, k)
    | none, none => if st.ready.readsPoison st.cur g sh' l then some (0x0C, 2) else none
  (∀ (op : BitVec 8) (shape : Fields → Agent → Shape) (body : Ctx → Body) (f : Fields) (st : State) (c : Nat → Nat × Nat) (hpc : Nat → DWord),
    let sh := shape f st.cur
    let fi := fun (l : Nat) => ({ cls := (c l).1, sub := (c l).2 } : FaultInfo)
    st.lanes ≠ [] → (∀ l ∈ st.lanes, (st.ready.thread st.cur l).armed = none) →
    (∀ l ∈ st.lanes, first st op f sh l = some (c l) ∨ first st op f sh l = none ∧ skips st f sh l = false ∧ own st f sh l = some (c l) ∧
      ((c l).1 = 3 → sh.allHaz = false)) →
    State.CanEnterAll st.cur (fun l => (c l).1) hpc st.lanes st.ready →
    ∃ t, issue op shape body f st = .next t ∧ st.ready.Entered st.cur st.pcNow st.lanes fi hpc t) ∧
  -- a collective whose every lane meets a hazard: one fault, the lowest lane's, with those lanes in its record (R349)
  (∀ (op : BitVec 8) (shape : Fields → Agent → Shape) (body : Ctx → Body) (f : Fields) (st : State) (k : Nat → Nat) (hpc : Nat → DWord),
    let sh := shape f st.cur
    let g := ownFields f sh
    let fi : FaultInfo := { cls := 3, sub := k (st.lanes.headD 0), lanes := some (laneMask st.lanes, 0) }
    sh.allHaz = true → st.lanes ≠ [] → (∀ l ∈ st.lanes, (st.ready.thread st.cur l).armed = none) →
    (∀ l ∈ st.lanes, first st op f sh l = none ∧ skips st f sh l = false ∧ operandSub f sh = none ∧
      st.ready.hazardSub st.cur g (st.ready.ownShape st.cur g sh l) l = some (k l)) →
    State.CanEnterAll st.cur (fun _ => 3) hpc st.lanes st.ready →
    ∃ t, issue op shape body f st = .next t ∧ st.ready.Entered st.cur st.pcNow st.lanes (fun _ => fi) hpc t) ∧
  -- the operation's own fault: one for every participant, or each lane its own
  (∀ (op : BitVec 8) (shape : Fields → Agent → Shape) (body : Ctx → Body) (f : Fields) (st : State) (fi : Nat → FaultInfo) (hpc : Nat → DWord),
    let sh := shape f st.cur
    st.Issues op f sh → st.takers op f sh = st.lanes → (∀ l ∈ st.lanes, (fi l).after = false) →
    ((∃ one, body (st.ctx op f sh) = .all one ∧ ∀ l, fi l = one) ∨
      body (st.ctx op f sh) = .done st.ready (st.lanes.map fun l => (l, fi l)) []) →
    State.CanEnterAll st.cur (fun l => (fi l).cls % 256) hpc st.lanes st.ready →
    ∃ t, issue op shape body f st = .next t ∧ st.ready.Entered st.cur st.pcNow st.lanes fi hpc t) ∧
  -- a transfer's bad target
  (let bad : FaultInfo := { cls := 4, sub := 0 }
  let jumps := fun (i : Fields → Instr) (op : BitVec 8) (sh : Shape) (target : Ctx → Nat → DWord) =>
    ∀ f st (hpc : Nat → DWord), st.Issues op f sh → st.takers op f sh = st.lanes →
      (∀ l ∈ st.lanes, st.ready.fetchHeader st.cur l (target (st.ctx op f sh) l) = .error (.fault bad)) →
      State.CanEnterAll st.cur (fun _ => 4) hpc st.lanes st.ready →
      ∃ t, exec (i f) st = .next t ∧ st.ready.Entered st.cur st.pcNow st.lanes (fun _ => bad) hpc t
  let rel := fun (x : Ctx) (l : Nat) => x.pc + (x.w l .A).signExtend 64
  let abs := fun (x : Ctx) (l : Nat) => x.dw l .A
  jumps .bra 0x60 { a := .word, transfer := true } rel ∧ jumps .brx 0x61 { a := .pair, transfer := true } abs ∧
  jumps .call 0x62 { d := .pair, a := .word, transfer := true } rel ∧ jumps .callx 0x63 { d := .pair, a := .pair, transfer := true } abs ∧
  jumps .ret 0x64 { a := .pair, transfer := true } abs ∧
  (∀ (s : State) (a : Agent) (l : Nat) (target : DWord), target.toNat % 4 ≠ 0 → s.fetchHeader a l target = .error (.fault bad)) ∧
  ∀ (s : State) (a : Agent) (l : Nat) (target : DWord) (b : List Byte), target.toNat % 4 = 0 → s.fetchBytes a l target 4 = .ok b →
    (b.headD 0).toNat % 4 ≠ 3 → s.fetchHeader a l target = .error (.fault bad))) ∧
  -- the traps of several lanes, taken one after another
  ∀ (s : State) (a : Agent) (pc : DWord) (lanes : List Nat) (fi : Nat → FaultInfo) (hpc : Nat → DWord),
    lanes.Nodup → (∀ l ∈ lanes, l < (s.threads a).length ∧ (s.thread a l).pc = pc ∧ (s.thread a l).due = none) →
    State.CanEnterAll a (fun l => (fi l).cls % 256) hpc lanes s →
    s.Entered a pc lanes fi hpc (s.takeTraps a pc (lanes.map fun l => (l, fi l, none)))

/-- R31, R110, R349: `rfe` returns to `tpc`: at a header when IDX is 63, else in the clause that HOFF and IDX describe, with its flags of
WAIT clear, and with a `yield` that the trap has interrupted still pending (R201); the depth falls by one, the caller's registers stand as they were and `tpc`, `tcause` stay. At depth 0 it is the
window-stack fault, and the target is checked as a branch's. -/
def Obligations.ReturnsResumeTheClauseThatWasLeft : Prop :=
  ∀ (s : State) (a : Agent) (l : Nat), l < (s.threads a).length →
    let t := s.thread a l
    let idx := t.sys.tcause.toNat / 2 ^ 16 % 2 ^ 6
    let hdr := if idx = 63 then t.sys.tpc else t.sys.tpc - BitVec.ofNat 64 (4 * (t.sys.tcause.toNat / 2 ^ 24 % 2 ^ 8))
    (t.depth = 0 → s.returnFrom a l = .error (.fault { cls := 0x0E, sub := 1 })) ∧
    (∀ e, t.depth ≠ 0 → s.fetchHeader a l hdr = .error e → s.returnFrom a l = .error e) ∧
    (∀ h, s.fetchHeader a l hdr = .ok h → t.winPending = false → t.low < t.depth →
      (idx = 63 ∨ (idx < h.count.toNat ∧ h.ok = true ∧
        ∀ k < 12, h.wait.getLsbD k = true → ∀ o ∈ t.long, o.flag ≠ some k)) →
      ∃ s', s.returnFrom a l = .ok s' ∧ s'.mem = s.mem ∧ (s'.thread a l).pc = t.sys.tpc ∧ (s'.thread a l).sys = t.sys ∧
        (s'.thread a l).depth + 1 = t.depth ∧ (∀ p, (s'.thread a l).getPos p = t.getPos p) ∧ (s'.thread a l).guards = t.guards ∧
        (s'.thread a l).armed = (t.masks.find? fun m => m.depth == t.depth && m.pc == t.sys.tpc) ∧
        (s'.thread a l).clause = if idx = 63 then none
          else some { hdr := hdr, idx := idx, count := h.count.toNat, set0 := h.set0, set1 := h.set1,
                      yld := decide ((t.depth, t.sys.tpc) ∈ t.yields) })

/-- R381, R394, R401, R408, R415, R418: right after power-up the firmware has not loaded, no partition is valid and each is unlocked with the default pond of
128 MiB a die, the cap is 3,000 W, the front-end cores run nothing, the clocks of the dies and the event queue are empty; the memory is in canonical form (the
model's own, log 5). The splits [8, 8, 8, 8] and the other values that the spec does not give are the model's choices (logs 3 and 45). -/
def Obligations.ResetLeavesTheStatedState : Prop :=
  let s := State.reset
  s.Safe ∧ s.board.fwStat = 0 ∧ s.board.up = false ∧ s.board.cap = 3000 ∧ s.clk = 0 ∧ s.evq = [] ∧ s.wake = [] ∧ s.mills = [] ∧
  (∀ d ∈ s.dies, d.seq = 0 ∧ d.kn = [0, 0, 0, 0] ∧ d.copies = [] ∧ d.pond16 = 8) ∧ s.dies.length = 4 ∧
  s.fe.length = 12 ∧ (∀ c ∈ s.fe, c.run = none ∧ c.thread.exited = true ∧ c.fences.gen = 1) ∧
  s.parts.length = 8 ∧ ∀ p ∈ s.parts, p.valid = false ∧ p.tdisp = .unlocked ∧ p.engs = [] ∧ p.split = [8, 8, 8, 8]

/-- The memory's canonical form (the model's own, log 5), addresses rising and no byte listed that is zero, is kept by every step: of every
instruction, every event and every state. -/
def Obligations.SafeIsKeptByEveryStep : Prop :=
  ∀ s t : State, s.Safe → step s = .next t → t.Safe

/-- R1, R223: a byte reads as it was last written and every other byte as before, in memory and through a store under one key; the bytes of
a value lie from its lowest address up. -/
def Obligations.MemoryReadsBackTheLastWrite : Prop :=
  (∀ (m : Memory) (k : Nat) (bs : List Byte) (a : Nat), memGet (memPutList m k bs) a =
    if k ≤ a ∧ a < k + bs.length then bs.getD (a - k) 0 else memGet m a) ∧
  (∀ (m : Memory) (lo hi a : Nat), memGet (memClear m lo hi) a = if lo ≤ a ∧ a < hi then 0 else memGet m a) ∧
  (∀ (s : State) (gen k : Nat) (bs : List Byte) (a : Nat), k + bs.length ≤ 2 ^ 52 ∨ 2 ^ 52 ≤ k → (s.storeBytes gen k bs).plain gen a =
    if k ≤ a ∧ a < k + bs.length then bs.getD (a - k) 0 else s.plain gen a) ∧
  ∀ n v : Nat, (∀ i < n, (bytesOfNat n v).getD i 0 = BitVec.ofNat 8 (v / 2 ^ (8 * i))) ∧ natOfBytes (bytesOfNat n v) = v % 2 ^ (8 * n)

/-! ### Power, resets and storage errors -/

/-- R415-R417, R420-R422, R360, R397, R402: writes of CAP and TOKENS are taken in their ranges and refused outside them; each die runs
1 + ⌊(CAP - 1,300) ÷ 200⌋ tokens or the override, a throttled die one; throttling, its end and the end of a wake are reported by
device-level records; power gating empties the cores first; errors in storage mark what cannot be corrected, registers and cached words
too, and count the others, the 64th of a page frame within 24 hours reported with its address; the patrol scrub leaves a memory without errors as
it was. That the 24 hours slide (log 22), that a power gating takes two occurrences of its event (log 46) and what an error in a TLB or a loop
buffer does (log 54) are the model's choices. -/
def Obligations.PowerAndStorageErrors : Prop :=
  ∀ s : State,
    let spread := fun (s : State) => { s with dies := s.dies.map fun d => { d with tokens :=
      if d.throttled then 1 else if s.board.tokens = 0 then 1 + (s.board.cap - 1300) / 200 else s.board.tokens } }
    (s.board.power = true →
      (∀ v, exec (.cap v) s = .next (if 1300 ≤ v ∧ v ≤ 3000 then spread { s with board := { s.board with cap := v } } else s)) ∧
      (∀ v, exec (.tokens v) s = .next (if v ≤ 13 then spread { s with board := { s.board with tokens := v } } else s)) ∧
      (∀ d < 4, (s.die d).throttled = false → exec (.thermalLimit d) s = .next ((spread { s with
        dies := modAt s.dies d fun x => { x with throttled := true }
        board := { s.board with therm := s.board.therm ||| BitVec.ofNat 32 (2 ^ d) } }).deviceRecord 2 0 [1])) ∧
      (∀ d, (s.die d).throttled = true → exec (.throttleEnd d) s = .next ((spread { s with
        dies := modAt s.dies d fun x => { x with throttled := false }
        board := { s.board with therm := s.board.therm &&& ~~~BitVec.ofNat 32 (2 ^ d) } }).deviceRecord 1 0 []))) ∧
    exec .patrolScrub s = .next s ∧
    (s.board.up = true → s.board.gated = false →
      exec .powerGating s = .next (
        if s.board.gating = true ∧ s.posted = [] ∧ s.xmsgs = [] ∧ s.evq = [] ∧ s.moves = [] ∧ (∀ c ∈ s.fe, c.run = none) ∧
          (∀ m ∈ s.mills, m.st = .evicted)
        then { s with board := { s.board with gated := true, gating := false } }
        else
          let t := (s.gangs.filter fun g => g.st == .resident && !g.restoring && g.save.isNone && !s.gangHalted g).foldl
            (fun t g => t.preempt g.uid 0x21 0) s
          { t with board := { t.board with gating := true, vacated := List.range 416 } })) ∧
    (s.board.gated = true → s.board.waking = true → exec .wakeComplete s =
      .next ({ s with board := { s.board with gated := false, waking := false, vacated := [] } }.deviceRecord 4 0 [])) ∧
    (∀ k, 2 ^ 53 ≤ k → exec (.softError (.word k) true) s = .next { s with poison := insertNat (k / 8) s.poison }) ∧
    (∀ k, k < 0xC000000000 ∨ 0x10000000000 ≤ k ∧ k < 0x30000000000 →
      exec (.softError (.line k) true) s = .next { s with poison := insertNat (2 ^ 60 + k / 64) s.poison } ∧
      exec (.softError (.line k) false) s =
        -- the corrections of the frame in the last 24 hours, at 4.0 GHz, with this one
        let l := ((sget [] s.fixed (k / 4096)).filter fun t => decide (s.clk - t < 24 * 3600 * (4 * 10 ^ 9))) ++ [s.clk]
        let t := { s with fixed := sput [] s.fixed (k / 4096) l }
        .next (if l.length = 64 then t.deviceRecord 2 0x18 (bytesOfNat 8 (k / 4096 * 4096)) else t)) ∧
    -- on-die SRAM: one wrong bit is corrected and counted
    (∀ e : ErrTarget, (match e with
        | .word k => decide (2 ^ 53 ≤ k)
        | .line _ => false
        | _ => true) = true → exec (.softError e false) s = .next { s with sramErrs := s.sramErrs + 1 }) ∧
    (∀ a l p, exec (.softError (.reg a l p) true) s = .next (s.modThread a l fun t => { t with regPoison := insertNat p t.regPoison })) ∧
    (∀ uid w l n, exec (.softError (.uni (.wheel uid w) l n) true) s =
      .next (s.modMill uid fun m => { m with uniPoison := insertNat n m.uniPoison })) ∧
    (∀ k l n, exec (.softError (.uni (.fe k) l n) true) s = .next (s.modThread (.fe k) l fun t => { t with uniPoison := insertNat n t.uniPoison })) ∧
    -- a word of a line in a die's L2, a copy or a line of its own HBM or second tier, and one in a core's L1
    (∀ d ln kid w, let own := (128 * ln < 0xC000000000 ∧ 128 * ln / 0x3000000000 = d) ∨
        (0x10000000000 ≤ 128 * ln ∧ 128 * ln < 0x30000000000 ∧ 128 * ln / 4096 % 4 = d)
      exec (.softError (.copy d ln kid w) true) s = .next (if sget [] (s.die d).copies (1024 * ln + kid % 1024) ≠ [] ∨ own
        then { s with dies := modAt s.dies d fun x => { x with marks := x.marks ++ [(1024 * ln + kid % 1024, w % 16)] } } else s)) ∧
    (∀ c ln kid w, exec (.softError (.l1 c ln kid w) true) s = .next (
      if 128 * ln < 0xC000000000 ∨ 0x10000000000 ≤ 128 * ln ∧ 128 * ln < 0x30000000000
      then { s with dies := modAt s.dies (c / 104) fun x => { x with l1Marks := x.l1Marks ++ [(c, 1024 * ln + kid % 1024, w % 16)] } }
      else s)) ∧
    -- a marked entry of a TLB or a loop buffer, a copy that can be made again, goes (the model's choice, log 54)
    (∀ c r va, exec (.softError (.tlb c r va false) true) s = .next { s with
        tlb := s.tlb.filter fun t => !(t.core == c && t.root == r && decide (t.base ≤ va ∧ va < t.base + pageBytes t.leaf.size)) } ∧
      exec (.softError (.tlb c r va true) true) s = .next { s with
        tlb2 := s.tlb2.filter fun t => !(t.core == c && t.root == r && decide (t.base ≤ va ∧ va < t.base + pageBytes t.leaf.size)) }) ∧
    ∀ a l pc, exec (.softError (.loopBuf a l pc) true) s =
      .next (s.modThread a l fun t => { t with loopBuf := t.loopBuf.filter (·.1 != BitVec.ofNat 64 pc) })

/-- R394, R409-R411, R418, R419: a cold start and a loss of power keep nothing but the identity counter, the counts of keys made and host
memory; FWGO begins to verify the image (the model has the verification end with the event's next occurrence, log 54), runs it with a new attestation key and measurements, and brings the package up with its memory, clocks and link counters zero; a
rejected image is told by FWSTAT; a warm reset destroys every partition, keeps the keys and the wake latch, and brings the package up
again. What the three resets keep where the spec names nothing is the model's choice (log 24), and so is which cause a rejected image has
(log 48). -/
def Obligations.ResetsAndFirmwareStart : Prop :=
  ∀ s : State,
    let host := s.mem.filter fun c => decide (2 ^ 52 ≤ c.1 ∧ c.1 < 2 ^ 53)
    let gone := fun (power : Bool) => { State.reset with
      mem := host
      trust := { State.reset.trust with identity := s.trust.identity, keyGens := s.trust.keyGens, attGen := s.trust.attGen }
      board := { State.reset.board with power := power }
      agenda := s.agenda, picks := s.picks, cur := s.cur, steps := s.steps, fresh := s.fresh, free := s.free }
    let raised := fun (t : State) => t.board.up = true ∧ t.board.gated = false ∧ t.board.vacated = [] ∧ t.clk = 0 ∧
      (∀ c ∈ t.mem, 2 ^ 52 ≤ c.1 ∧ c.1 < 2 ^ 53) ∧ t.poison = [] ∧ t.posted = [] ∧ t.xmsgs = [] ∧ t.tlb = [] ∧ t.tlb2 = [] ∧ t.reqs = [] ∧
      t.snapAt = none ∧ t.snapDue = [] ∧ t.grids = [] ∧ t.gangs = [] ∧ t.mills = [] ∧ t.txns = [] ∧ t.inbox = [] ∧ t.ports = List.replicate 18 LinkPort.start ∧
      -- a die that has reached its temperature limit stays at one token (R417)
      t.board.therm = s.board.therm ∧ t.dies.map (·.throttled) = s.dies.map (·.throttled) ∧
      (∀ d ∈ t.dies, d.seq = 0 ∧ d.kn = [0, 0, 0, 0] ∧ d.copies = [] ∧ d.marks = [] ∧
        d.tokens = if d.throttled then 1 else if t.board.tokens = 0 then 1 + (t.board.cap - 1300) / 200 else t.board.tokens)
    exec .coldStart s = .next (gone true) ∧ exec .powerLoss s = .next (gone false) ∧
    (∀ a, memGet host a = if 2 ^ 52 ≤ a ∧ a < 2 ^ 53 then memGet s.mem a else 0) ∧
    (s.board.power = true → s.board.fwStat.toNat % 4 ≠ 1 → s.board.fwStat.toNat % 4 ≠ 2 →
      exec .fwgo s = .next { s with board := { s.board with fwStat := 1 } }) ∧
    (s.board.power = true → s.board.fwStat.toNat % 4 = 1 →
      let img := memGetList s.mem (2 ^ 52 + s.board.fwAddr.toNat) s.board.fwSize.toNat
      (Config.fwVerdict img = 0 → ∃ t, exec .fwgo s = .next t ∧ raised t ∧ t.board.fwStat = 2 ∧ t.board.cap = s.board.cap ∧
        t.mem = host ∧ t.fe = List.replicate 12 FeCore.idle ∧ t.feClk = 0 ∧ t.parts = s.parts ∧ t.wake = s.wake ∧
        t.trust.measure = [Config.shake256 Config.romImage,
          Config.shake256 (List.replicate 32 0 ++ bytesOfNat 32 (Config.shake256 img).toNat), 0, 0, 0, 0, 0, 0, 0, 0] ∧
        t.trust.sessions = s.trust.sessions ∧
        (if s.trust.identity ≤ 2 ^ 20 - 1 then t.trust.identity = s.trust.identity + 1 ∧ t.trust.attGen = s.trust.attGen + 1 ∧
            t.trust.attIndex = 0 ∧ t.trust.attCert = s.trust.identity + 1 ∧ t.trust.attLive = true
          else t.trust.identity = s.trust.identity ∧ t.trust.attLive = false)) ∧
      (Config.fwVerdict img ≠ 0 → ∃ cause, 1 ≤ cause ∧ cause ≤ 3 ∧
        exec .fwgo s = .next { s with board := { s.board with fwStat := BitVec.ofNat 32 (3 + 256 * cause) } })) ∧
    (s.board.up = true → s.parts.length = 8 → ∃ t, exec .warmReset s = .next t ∧ raised t ∧ (∀ p ∈ t.parts, p.valid = false) ∧
      t.trust = s.trust ∧ t.wake = s.wake ∧ t.board.fwStat = s.board.fwStat ∧ t.board.cap = s.board.cap ∧
      t.board.tokens = s.board.tokens)

/-! ### The host's registers -/

/-- R393, R394, R408: a field write to an entry that is not in force sets the field of its offset; a commit checks every rule of the table and
puts the entry in force or marks it REFUSED; writing 0 to VALID destroys it; a write to a frozen register keeps the register and puts
the interface in ERROR; every write of an entry is an event of the front end (R401; those that are ignored or refused too, the model's reading,
log 54). That the queues of a destroyed partition read zero while its wake bits stay is the model's choice (log 24), and that T1BASE is a physical
address (log 25) and which partition is the first on a die (log 45) are its readings. -/
def Obligations.PartitionEntriesAreCommittedOrRefused : Prop :=
  ∀ (s : State) (p : Nat), p < 8 → s.parts.length = 8 → s.dies.length = 4 → s.board.power = true →
    let e := s.part p
    let others := ((List.range 8).filter fun i => i ≠ p ∧ (s.part i).valid = true).map s.part
    let onDie := fun (q : Partition) (d : Nat) => (∃ c < 52, q.clusters.getLsbD c = true ∧ c / 13 = d) ∨ (q.pond.getD d (0, 0)).2 ≠ 0
    let isFirst := fun (d : Nat) => onDie e d ∧ ∀ q ∈ others, ¬ onDie q d
    let share := fun (base size lo lim : Nat) => base % 2 ^ 30 = 0 ∧ size % 2 ^ 30 = 0 ∧ (size = 0 ∨ (lo ≤ base ∧ base + size ≤ lim))
    let apart := fun (x n y m : Nat) => n = 0 ∨ m = 0 ∨ x + n ≤ y ∨ y + m ≤ x
    let good := e.clusters.toNat < 2 ^ 52 ∧ share e.hbmBase.toNat e.hbmSize.toNat 0 0xC000000000 ∧
      share e.t1Base.toNat e.t1Size.toNat 0x10000000000 0x30000000000 ∧
      e.keyCount % 16 = 0 ∧ (e.keyCount = 0 ∨ e.keyFirst ≠ 0) ∧ e.keyFirst + e.keyCount ≤ 1024 ∧ e.qFirst + e.qCount ≤ 1024 ∧
      e.node.toNat ≤ 4095 ∧
      (∀ q ∈ others, e.clusters &&& q.clusters = 0 ∧ apart e.hbmBase.toNat e.hbmSize.toNat q.hbmBase.toNat q.hbmSize.toNat ∧
        apart e.t1Base.toNat e.t1Size.toNat q.t1Base.toNat q.t1Size.toNat ∧ apart e.keyFirst e.keyCount q.keyFirst q.keyCount ∧
        apart e.qFirst e.qCount q.qFirst q.qCount ∧ ∀ d < 4,
          apart (e.pond.getD d (0, 0)).1 (e.pond.getD d (0, 0)).2 (q.pond.getD d (0, 0)).1 (q.pond.getD d (0, 0)).2) ∧
      ∀ d < 4, ((isFirst d → 4 ≤ e.split.getD d 0 ∧ e.split.getD d 0 ≤ 12) ∧
        (isFirst d → (e.pond.getD d (0, 0)).1 + (e.pond.getD d (0, 0)).2 ≤ 16 * e.split.getD d 0) ∧
        (¬ isFirst d → (e.pond.getD d (0, 0)).1 + (e.pond.getD d (0, 0)).2 ≤ 16 * (s.die d).pond16))
    let inPond := fun (a : Nat) => ∃ d < 4, 2 ^ 53 + d * 2 ^ 28 + (e.pond.getD d (0, 0)).1 * 2 ^ 20 ≤ a ∧
      a < 2 ^ 53 + d * 2 ^ 28 + (e.pond.getD d (0, 0)).1 * 2 ^ 20 + (e.pond.getD d (0, 0)).2 * 2 ^ 20
    let fields : List (Nat × (Nat → Partition → Partition)) := [
      (0x08, fun v e => { e with clusters := BitVec.ofNat 64 (v % 2 ^ 52) }), (0x10, fun v e => { e with hbmBase := BitVec.ofNat 64 v }),
      (0x18, fun v e => { e with hbmSize := BitVec.ofNat 64 v }), (0x20, fun v e => { e with t1Base := BitVec.ofNat 64 v }),
      (0x28, fun v e => { e with t1Size := BitVec.ofNat 64 v }),
      (0x50, fun v e => { e with split := [v % 256, v / 2 ^ 8 % 256, v / 2 ^ 16 % 256, v / 2 ^ 24 % 256] }),
      (0x54, fun v e => { e with keyFirst := v % 2 ^ 16 }), (0x56, fun v e => { e with keyCount := v % 2 ^ 16 }),
      (0x58, fun v e => { e with saveBase := BitVec.ofNat 64 v }), (0x60, fun v e => { e with saveSize := BitVec.ofNat 64 v }),
      (0x68, fun v e => { e with node := BitVec.ofNat 16 (v % 4096) }), (0x6A, fun v e => { e with qFirst := v % 2 ^ 16 }),
      (0x6C, fun v e => { e with qCount := v % 2 ^ 16 })]
    let told : State := { s with evq := s.evq ++ [.partWrite p] }
    (∀ v, exec (.registerWrite .fwAddr v) s = .next { s with board := { s.board with fwAddr := BitVec.ofNat 64 v } } ∧
      exec (.registerWrite .fwSize v) s = .next { s with board := { s.board with fwSize := BitVec.ofNat 32 v } } ∧
      ∀ i o, exec (.registerWrite (.unlisted i o) v) s = .next s) ∧
    (e.tdisp = .unlocked → ∀ v,
      (s.board.up = true → e.valid = false →
        (∀ g ∈ fields, exec (.registerWrite (.partField p g.1) v) s = .next (told.modPart p (g.2 v))) ∧
        (∀ d < 4, exec (.registerWrite (.partField p (0x30 + 8 * d)) v) s =
            .next (told.modPart p fun e => { e with pond := modAt e.pond d fun x => (v % 2 ^ 32, x.2) }) ∧
          exec (.registerWrite (.partField p (0x34 + 8 * d)) v) s =
            .next (told.modPart p fun e => { e with pond := modAt e.pond d fun x => (x.1, v % 2 ^ 32) }))) ∧
      (s.board.up = true → e.valid = true → ∀ off, exec (.registerWrite (.partField p off) v) s = .next told) ∧
      (exec (.registerWrite (.bar p) v) s = .next (s.modPart p fun e => { e with bar0 := BitVec.ofNat 64 v })) ∧
      (∀ m < 64,
        (∃ t, exec (.registerWrite (.monBase p m) v) s = .next t ∧ { t with parts := s.parts } = s ∧ (∀ i ≠ p, t.part i = s.part i) ∧
          { t.part p with monitors := e.monitors } = e ∧ ∀ k, (t.part p).monitors.getD k ⟨0, 0, []⟩ =
            if k = m then { e.monitors.getD k ⟨0, 0, []⟩ with base := BitVec.ofNat 64 v } else e.monitors.getD k ⟨0, 0, []⟩) ∧
        (∃ t, exec (.registerWrite (.monLimit p m) v) s = .next t ∧ { t with parts := s.parts } = s ∧ (∀ i ≠ p, t.part i = s.part i) ∧
          { t.part p with monitors := e.monitors } = e ∧ ∀ k, (t.part p).monitors.getD k ⟨0, 0, []⟩ =
            if k = m then { e.monitors.getD k ⟨0, 0, []⟩ with limit := BitVec.ofNat 64 v } else e.monitors.getD k ⟨0, 0, []⟩))) ∧
    (e.tdisp = .locked ∨ e.tdisp = .run → s.board.up = true →
      (∀ v, (∀ off, exec (.registerWrite (.partField p off) v) s = .next (told.enterError p)) ∧
        exec (.partitionCommit p) s = .next (told.enterError p) ∧ (e.valid = true → exec (.partitionDestroy p) s = .next (told.enterError p)) ∧
        (∀ m, exec (.registerWrite (.monBase p m) v) s = .next (s.enterError p)) ∧
        (∀ m, exec (.registerWrite (.monLimit p m) v) s = .next (s.enterError p)) ∧
        exec (.registerWrite (.bar p) v) s = .next (s.enterError p)) ∧
      let t := s.enterError p
      (t.part p).tdisp = .error ∧ (t.part p).engs = [] ∧ (t.part p).bar0 = e.bar0 ∧ (t.part p).clusters = e.clusters ∧
      (∀ g ∈ t.grids, g.part = p → g.dead = true) ∧
      ∀ q, e.qFirst ≤ q → q < e.qFirst + e.qCount → (t.queue q).state = 2 ∧ (t.queue q).ctrl = (s.queue q).ctrl &&& 0xFE) ∧
    (e.tdisp = .unlocked → s.board.up = true → e.valid = false →
      (good → ∃ t, exec (.partitionCommit p) s = .next t ∧ t.part p = { e with valid := true, refused := false } ∧
        (∀ i ≠ p, t.part i = s.part i) ∧ (∀ d < 4, (isFirst d → (t.die d).pond16 = e.split.getD d 0) ∧
          (¬ isFirst d → (t.die d).pond16 = (s.die d).pond16)) ∧
        (∀ a, (inPond a → memGet t.mem a = 0) ∧ (¬ inPond a → memGet t.mem a = memGet s.mem a)) ∧
        t.board.nodeId = (if s.board.nodeId.getLsbD 31 then s.board.nodeId else BitVec.ofNat 32 (2 ^ 31 + e.node.toNat)) ∧
        t.evq = s.evq ++ [.partWrite p] ∧ t.queues = s.queues ∧ t.mills = s.mills ∧ t.grids = s.grids) ∧
      (¬ good → ∃ t, exec (.partitionCommit p) s = .next t ∧ t.part p = { e with refused := true } ∧
        (∀ i ≠ p, t.part i = s.part i) ∧ t.mem = s.mem ∧ t.dies = s.dies ∧ t.board.nodeId = s.board.nodeId ∧
        t.evq = s.evq ++ [.partWrite p])) ∧
    (e.tdisp = .unlocked → s.board.up = true → e.valid = true → exec (.partitionCommit p) s = .next told) ∧
    (e.tdisp = .unlocked → s.board.up = true → e.valid = true → ∃ t, exec (.partitionDestroy p) s = .next t ∧
      (t.part p).valid = false ∧ (t.part p).tdisp = .unlocked ∧ (t.part p).engs = [] ∧ (∀ a, inPond a → memGet t.mem a = 0) ∧
      (∀ q, e.qFirst ≤ q → q < e.qFirst + e.qCount → t.queue q = Queue.zero ∧ ∀ c ∈ t.cmds, c.queue ≠ q) ∧
      (∀ g ∈ t.grids, g.part = p → g.dead = true) ∧ .partWrite p ∈ t.evq ∧ t.wake = s.wake)

/-- R395-R397, R400, R402, R403: the registers of a queue and of an event ring; a doorbell stores TAIL and sets the wake bit, queueing one
event; a queue is enabled, disabled and restarted by CTRL; a record goes to EVTAIL and is signalled, or is lost and counted; space that
returns brings one overflow record. That a queue is enabled only while its interface is UNLOCKED or in RUN (log 23) and that a restart clears STATE
alone (log 24) are the model's choices. -/
def Obligations.QueuesAndEventRingsFollowTheirRegisters : Prop :=
  ∀ (s : State) (q p : Nat), s.partOfQueue q = some p → p < s.parts.length → s.board.power = true →
    let x := s.queue q
    let r := (s.part p).ring
    let same := fun (t : State) => (∀ k ≠ q, t.queue k = s.queue k) ∧ { t with queues := s.queues, mem := s.mem, cmds := s.cmds } = s
    let status := fun (v : Nat) => memPutList s.mem (2 ^ 52 + x.status.toNat + 8) (bytesOfNat 4 v)
    (∀ v, ∀ g ∈ ([(0x00, { x with base := BitVec.ofNat 64 v }),
        (0x08, if 4 ≤ v % 256 ∧ v % 256 ≤ 16 then { x with logsz := v % 256 } else x),
        (0x09, { x with ctrl := (x.ctrl &&& 0xFD) ||| (BitVec.ofNat 8 v &&& 2) }), (0x10, { x with root := BitVec.ofNat 64 v }),
        (0x18, { x with status := BitVec.ofNat 64 v })] : List (Nat × Queue)),
      ∃ t, exec (.registerWrite (.queueField q g.1) v) s = .next t ∧ t.queue q = g.2 ∧ same t ∧ t.mem = s.mem ∧ t.cmds = s.cmds) ∧
    (∀ n, ∃ t, exec (.doorbell q n) s = .next t ∧ t.queue q = { x with tail := n % 2 ^ 32 } ∧ (∀ k ≠ q, t.queue k = s.queue k) ∧
      { t with queues := s.queues, wake := s.wake, evq := s.evq, board := s.board } = s ∧ t.wake = insertNat q s.wake ∧
      t.evq = (if q ∈ s.wake then s.evq else s.evq ++ [.doorbell q]) ∧
      t.board = { s.board with waking := s.board.waking || s.board.gated }) ∧
    ((s.part p).tdisp = .unlocked ∨ (s.part p).tdisp = .run → ∃ t, exec (.queueEnable q) s = .next t ∧ same t ∧ t.cmds = s.cmds ∧
      t.queue q = { x with ctrl := x.ctrl ||| 1, state := if x.state = 2 then 0 else x.state } ∧
      t.mem = if x.state = 2 then status 0 else s.mem) ∧
    ((s.part p).tdisp = .locked ∨ (s.part p).tdisp = .error → exec (.queueEnable q) s = .next s) ∧
    (∃ t, exec (.queueDisable q) s = .next t ∧ same t ∧ t.cmds = s.cmds ∧
      let busy := ∃ c ∈ s.cmds, c.queue = q ∧ c.done = false
      (busy → t.queue q = { x with ctrl := x.ctrl &&& 0xFE } ∧ t.mem = s.mem) ∧
      (¬ busy → t.queue q = { x with ctrl := x.ctrl &&& 0xFE, state := 2 } ∧ t.mem = status 2)) ∧
    (∃ t, exec (.queueRestart q) s = .next t ∧ same t ∧
      t.cmds = (s.cmds.map fun c => { c with old := c.old || c.queue == q }) ∧
      (if x.state = 1 then t.queue q = { x with state := 0 } ∧ t.mem = status 0 else t.queue q = x ∧ t.mem = s.mem)) ∧
    -- the next record is at EVTAIL; a lost one only counts
    let full := fun (r : Ring) => (r.evtail - r.evhead).toNat = 2 ^ r.evlog
    let put := fun (r : Ring) (m : Memory) (src kind qn st : Nat) (info : List Byte) =>
      let r' := { r with seqs := sput 0 r.seqs src (sget 0 r.seqs src + 1) }
      if full r then ({ r' with lost := r.lost + 1, summary := true }, m)
      else ({ r' with evtail := r.evtail + 1, msix := r.msix + 1 },
        memPutList m (2 ^ 52 + (r.evbase.toNat + 32 * (r.evtail.toNat % 2 ^ r.evlog)))
          (bytesOfNat 2 src ++ bytesOfNat 2 kind ++ bytesOfNat 4 (sget 0 r.seqs src + 1) ++ bytesOfNat 2 qn ++ bytesOfNat 2 st ++
            info ++ List.replicate (20 - info.length) 0))
    -- once there is space again, a pending overflow record comes first
    let flush := fun (r : Ring) (m : Memory) =>
      if r.lost = 0 ∨ full r then (r, m)
      else
        let x := put r m 0x8000 3 0xFFFF 0 (bytesOfNat 4 r.lost.toNat)
        ({ x.1 with lost := 0, summary := false }, x.2)
    let gives := fun (t : State) (x : Ring × Memory) => { t with parts := s.parts, mem := s.mem } = s ∧ (∀ i ≠ p, t.part i = s.part i) ∧
      { t.part p with ring := r } = s.part p ∧ ((t.part p).ring, t.mem) = x
    (∀ v, (∃ t, exec (.eventRingConfig p .evbase v) s = .next t ∧
        gives t (flush { r with evbase := BitVec.ofNat 64 v, evhead := 0, evtail := 0 } s.mem)) ∧
      (4 ≤ v ∧ v ≤ 16 → ∃ t, exec (.eventRingConfig p .evlog v) s = .next t ∧
        gives t (flush { r with evlog := v, evhead := 0, evtail := 0 } s.mem)) ∧
      (¬ (4 ≤ v ∧ v ≤ 16) → exec (.eventRingConfig p .evlog v) s = .next s) ∧
      ∃ t, exec (.evhead p v) s = .next t ∧ gives t (flush { r with evhead := BitVec.ofNat 32 v } s.mem)) ∧
    ∀ src kind qn st info, info.length ≤ 20 →
      let x := flush r s.mem
      gives (s.hostRecord p src kind qn st info) (put x.1 x.2 src kind qn st info)

/-! ### The front end and its commands -/

/-- R396, R397, R399-R401: an idle front-end core takes the oldest event whose queue's lock is free, and its run starts; a doorbell's TAIL is
read and the wake bit cleared, a TAIL too far ahead is class 0x14 subcode 0; a fault request carries the lock of the queue that its thread works
for; a completed command writes DONESEQ and, asked, a completion record; the first error of a queue stops it and stays in its registers, every
error is an event. Where a run starts, which registers it finds, and that what the last run left in flight is discarded are the model's choices
(log 4), as is what comes while 4,096 events wait (log 54). -/
def Obligations.FrontEndCoresServeTheOldestFreeEvent : Prop :=
  (∀ (s : State) (core : Nat) (e : FeEvent) (pre post : List FeEvent), s.board.up = true → s.board.gated = false →
    core < 12 → (s.thread (.fe core) 0).exited = true → s.evq = pre ++ e :: post →
    pre.length < 4096 → (∀ x ∈ pre, ∃ q, s.lockOf x = some q ∧ s.locked q = true) → (∀ q, s.lockOf e = some q → s.locked q = false) →
    let s0 := { s with evq := pre ++ post }
    let served := match e with
      | .doorbell q =>
        let u := { s0.modQueue q fun x => { x with seen := x.tail } with wake := s.wake.filter (· != q) }
        let x := s.queue q
        if (x.tail + 2 ^ 32 - x.head) % 2 ^ 32 > 2 ^ x.logsz - 1 then u.queueError q 0 { FaultRec.zero with cls := 0x14 } else u
      -- a LAUNCH completes with the last grid of its tree
      | .gridDone c => (match s.cmd? c with
        | some d => if d.tree = 0 ∧ d.done = false then s0.endCmd c else s0
        | none => s0)
      | .escalated q seq r => if s.partOfQueue q = none then s0 else s0.queueError q seq r
      | _ => s0
    exec (.frontEndEvent core) s = .next (served.modFe core fun c => { c with
      run := some e
      lock := s.lockOf e
      -- what the last run left in flight is discarded as it completes, and `xroot` and `xkey` read 0
      thread := { c.thread with
        pc := Config.feEntry core &&& ~~~3, clause := none, exited := false, stopped := false, entryDue := true
        long := c.thread.long.map fun o => { o with flag := none, writes := [], touch := [], flags := 0 }
        sys := { c.thread.sys with xroot := 0, xkey := 0 } } })) ∧
  -- whose lock an event carries, and a run that holds one until it ends
  (∀ (s : State) (c : Cmd) (q : Nat) (seq : BitVec 32) (r : FaultRec), s.cmd? c.uid = some c → s.lockOf (.doorbell q) = some q ∧
    s.lockOf (.escalated q seq r) = some q ∧ s.lockOf (.gridDone c.uid) = some c.queue ∧ s.lockOf (.cmdDone c.uid) = some c.queue ∧
    (s.locked q = true ↔ ∃ x ∈ s.fe, x.run ≠ none ∧ x.lock = some q)) ∧
  (∀ (s : State) (id : Nat) (q : Option Nat), s.lockOf (.faultReq id q) = q) ∧
  (∀ (s : State) (a : Agent) (lane root page : Nat) (fi : FaultInfo), (∀ r ∈ s.reqs, ¬ (r.root = root ∧ r.page = page ∧ r.mill = a.mill)) →
    ∃ q, (s.addRequest a lane root page fi).evq = s.evq ++ [.faultReq s.fresh q] ∧
      (∀ uid g, a.mill = some uid → s.gridOfMill uid = some g → q = some g.queue) ∧
      (∀ n, a = .fe (12 + n) → q = some n) ∧ ∀ n < 12, a = .fe n → q = none) ∧
  (∀ (s : State) (q p : Nat) (seq : BitVec 32) (r : FaultRec), s.partOfQueue q = some p →
    let x := s.queue q
    ∃ u : State, s.queueError q seq r = u.hostRecord p q 2 q (r.cls.toNat + 256 * r.sub.toNat) (bytesOfNat 4 seq.toNat ++ r.bytes.take 16) ∧
      { u with queues := s.queues, mem := s.mem } = s ∧ (∀ k ≠ q, u.queue k = s.queue k) ∧
      (x.state = 1 → u.queue q = x ∧ u.mem = s.mem) ∧
      (x.state ≠ 1 → u.queue q = { x with state := 1, errseq := seq, error := r } ∧
        u.mem = memPutList (memPutList (memPutList s.mem (hostKey (x.status.toNat + 0x08)) (bytesOfNat 4 1))
          (hostKey (x.status.toNat + 0x0C)) (bytesOfNat 4 seq.toNat)) (hostKey (x.status.toNat + 0x40)) r.bytes)) ∧
  (∀ (s : State) (c : Cmd) (p : Nat), s.cmd? c.uid = some c → s.partOfQueue c.queue = some p →
    let x := s.queue c.queue
    ∃ u : State, s.completeCmd c.uid = (if c.flags.getLsbD 0 then u.hostRecord p c.queue 1 c.queue
        ((c.err.map fun r => r.cls.toNat + 256 * r.sub.toNat).getD 0) (bytesOfNat 4 c.seq.toNat) else u) ∧
      { u with queues := s.queues, mem := s.mem, cmds := s.cmds } = s ∧ (∀ k ≠ c.queue, u.queue k = s.queue k) ∧
      u.queue c.queue = { x with doneseq := c.seq } ∧ u.mem = memPutList s.mem (hostKey (x.status.toNat + 4)) (bytesOfNat 4 c.seq.toNat) ∧
      u.cmd? c.uid = some { c with done := true }) ∧
  -- a completed command is an event of the front end too
  (∀ (s : State) (c : Cmd), s.cmd? c.uid = some c →
    let t := (s.completeCmd c.uid).settleDisable c.queue
    s.endCmd c.uid = { t with evq := t.evq ++ [.cmdDone c.uid] }) ∧
  (∀ (s : State) (c : Cmd) (uid : Nat) (r : FaultRec), s.failStarted uid c r =
    ((s.modCmd uid fun d => { d with done := true, err := some r }).queueError c.queue c.seq r).settleDisable c.queue) ∧
  ∀ (s : State) (q : Nat),
    let x := s.queue q
    let busy := ∃ c ∈ s.cmds, c.queue = q ∧ c.done = false
    (x.state = 2 ∨ x.ctrl.getLsbD 0 = true ∨ busy → s.settleDisable q = s) ∧
    (x.state ≠ 2 → x.ctrl.getLsbD 0 = false → ¬ busy → (s.settleDisable q).queue q = { x with state := 2 } ∧
      (∀ k ≠ q, (s.settleDisable q).queue k = s.queue k) ∧ { s.settleDisable q with queues := s.queues, mem := s.mem } = s ∧
      (s.settleDisable q).mem = memPutList s.mem (hostKey (x.status.toNat + 8)) (bytesOfNat 4 2))

/-- R398, R399, R412, R413, R436: the command at HEAD starts when its queue runs and nothing started holds it back: LAUNCH enqueues its seed
grid; SIGNAL starts at once and writes its word after the command it names, WAITTL waits for its word, each a multiple of 8; ENGAGE opens an engagement
with new keys; RELEASE aborts, scrubs, destroys the keys and writes the receipt; SNAPSHOT latches, takes its image and writes it; FLUSH empties the TLBs; an
unlisted OPCODE, or arguments the command refuses, put the queue in error. The model's choices: where SNAPSHOT's image goes (log 14), how a
command's writes end (log 42), that ENGAGE takes the lowest free key-IDs (log 43), that a LAUNCH waits at HEAD while the launch queue is full
(log 53), and how zeros reach pages of other devices (log 44). -/
def Obligations.CommandsStartInRingOrderAndDoTheirWork : Prop :=
  ∀ (s : State) (q p : Nat), s.partOfQueue q = some p → (∀ x ∈ s.cmds, x.uid ≠ s.fresh) →
    let x := s.queue q
    let bs := memGetList s.mem (hostKey (x.base.toNat + 64 * (x.head % 2 ^ x.logsz))) 64
    let num := fun (off n : Nat) => natOfBytes ((bs.drop off).take n)
    let c : Cmd := ⟨s.fresh, q, num 0 1, BitVec.ofNat 8 (num 1 1), BitVec.ofNat 32 (num 4 4),
      [BitVec.ofNat 64 (num 8 8), BitVec.ofNat 64 (num 16 8), BitVec.ofNat 64 (num 24 8)], 0, false, none, 0, false, none, []⟩
    let open' := fun (d : Cmd) => d ∈ s.cmds ∧ d.queue = q ∧ d.done = false
    let ready := s.board.up = true ∧ s.board.gated = false ∧ x.state = 0 ∧ x.ctrl.getLsbD 0 = true ∧ x.head ≠ x.seen ∧
      (∀ d, open' d → d.opcode = 1 ∧ d.flags.getLsbD 1 = false) ∧ ∀ seq r, .escalated q seq r ∉ s.evq
    let fails := fun (cls sub : Nat) (va : DWord) (access : BitVec 32) => (s.startCmd c).failStarted s.fresh c
      { FaultRec.zero with cls := BitVec.ofNat 8 cls, sub := BitVec.ofNat 8 sub, va := va, access := access }
    -- what a SIGNAL that need not wait does
    let signals := fun (t : State) (d : Cmd) (out : Out) =>
      ((d.arg 0).toNat % 8 ≠ 0 → out = .next (t.failStarted d.uid d
        { FaultRec.zero with cls := 0x0A, va := d.arg 0, access := accessField .store .glob 8 })) ∧
      ((d.arg 0).toNat % 8 = 0 →
        (∀ ps, t.cmdPieces q (t.cmdSpace p q) .store (d.arg 0) 8 = .ok ps → out =
          .next (((t.modCmd d.uid fun d => { d with phase := 1 }).cmdWrite q (d.arg 0) ps 8 (bytesOfNat 8 (d.arg 1).toNat)).finishWrites d)) ∧
        (∀ root page fi, t.cmdPieces q (t.cmdSpace p q) .store (d.arg 0) 8 = .error (.absent root page fi) →
          out = .next (t.addRequest (cmdAgent q) 0 root page fi)) ∧
        ∀ fi, t.cmdPieces q (t.cmdSpace p q) .store (d.arg 0) 8 = .error (.fault fi) → out = .next (t.failStarted d.uid d
          { FaultRec.zero with cls := BitVec.ofNat 8 fi.cls, sub := BitVec.ofNat 8 fi.sub, va := fi.va, access := fi.access }))
    ((s.startCmd c).cmds = s.cmds ++ [c] ∧ (s.startCmd c).fresh = s.fresh + 1 ∧
      (s.startCmd c).queue q = { x with head := (x.head + 1) % 2 ^ 32, refused := [] } ∧
      (s.startCmd c).mem = memPutList s.mem (hostKey x.status.toNat) (bytesOfNat 4 ((x.head + 1) % 2 ^ 32))) ∧
    (¬ ready → (∀ d, open' d → d.opcode = 1) → exec (.launch q) s = .next s ∧ exec (.signal q) s = .next s ∧
      exec (.waittl q) s = .next s ∧ exec (.engage q) s = .next s ∧ exec (.release q) s = .next s ∧ exec (.snapshot q) s = .next s ∧
      exec (.flush q) s = .next s) ∧
    (ready →
      (c.opcode = 0 ∨ c.opcode > 7 → ∀ i ∈ [Instr.launch q, .signal q, .waittl q, .engage q, .release q, .snapshot q, .flush q],
        exec i s = .next (fails 1 0 0 0)) ∧
      -- while the launch queue is full the command stays at HEAD (the model's choice, log 53)
      (c.opcode = 1 → s.launchFull p = true → exec (.launch q) s = .next s) ∧
      (c.opcode = 1 → s.launchFull p = false → (∀ e, s.readLaunch p true (s.cmdRead p q) (c.arg 0) = .ok e →
          -- its reads of monitored ranges count
          let t := (e.reads (c.arg 0)).foldl (fun t r => t.countCmd p q r.1 r.2) s
          exec (.launch q) s = .next ((t.startCmd c).enqueue p q s.fresh true e)) ∧
        ∀ fi, s.readLaunch p true (s.cmdRead p q) (c.arg 0) = .error (.fault fi) →
          exec (.launch q) s = .next (fails fi.cls fi.sub fi.va fi.access)) ∧
      (c.opcode = 2 →
        let named := (s.cmds.filter fun d => d.queue == q && !d.old && d.seq == (c.arg 2).setWidth 32).getLast?
        let c2 : Cmd := { c with names := named.map (·.uid) }
        let t := s.startCmd c2
        -- it has started, and waits for the command that it names
        (∀ d, named = some d → s.cmd? d.uid = some d → d.done = false → exec (.signal q) s = .next t) ∧
        ((∀ d, named = some d → s.cmd? d.uid = some d ∧ d.done = true) → signals t c2 (exec (.signal q) s))) ∧
      (c.opcode = 3 →
        ((c.arg 0).toNat % 8 ≠ 0 → exec (.waittl q) s = .next (fails 0x0A 0 (c.arg 0) (accessField .load .glob 8))) ∧
        ∀ ps, (c.arg 0).toNat % 8 = 0 → s.cmdPieces q (s.cmdSpace p q) .load (c.arg 0) 8 = .ok ps →
          exec (.waittl q) s = .next { s.startCmd c with waitTl := s.waitTl ++ [(q, c.arg 0, c.arg 1)] }) ∧
      (c.opcode = 4 →
        let n := (c.arg 1).toNat
        let free := (((List.range (s.part p).keyCount).map fun i => (s.part p).keyFirst + i).filter fun k =>
          !(s.part p).engs.any fun e => e.kids.contains k)
        let ok := (∀ e ∈ (s.part p).engs, e.num ≠ (c.arg 0).toNat) ∧ (c.arg 0).toNat ≤ 65535 ∧ 1 ≤ n ∧ n ≤ 16 ∧ n ≤ free.length
        (¬ ok → exec (.engage q) s = .next (fails 0x14 5 0 0)) ∧
        (ok → ∃ t : State, exec (.engage q) s = .next (t.endCmd s.fresh) ∧
          (t.part p).engs = (s.part p).engs ++ [⟨(c.arg 0).toNat, free.take n, [], [], [], [], [], 0⟩] ∧
          t.trust.keyGens = s.trust.keyGens + n ∧ (∀ i < n, t.kidGen (free.getD i 0) = s.trust.keyGens + i + 1) ∧
          (∀ k, k ∉ free.take n → t.kidGen k = s.kidGen k) ∧ t.cmds = s.cmds ++ [c])) ∧
      (c.opcode = 5 →
        ((∀ e ∈ (s.part p).engs, e.num ≠ (c.arg 0).toNat) → exec (.release q) s = .next (fails 0x14 5 0 0)) ∧
        ∀ e ps, s.engOf p (c.arg 0).toNat = some e → s.cmdPieces q { s.cmdSpace p q with
            kids := some (((List.range (s.part p).keyCount).map fun i => (s.part p).keyFirst + i).filter fun k => !e.kids.contains k) }
            .store (c.arg 1) (min (c.arg 2).toNat 2836) = .ok ps →
          exec (.release q) s = .next ((s.grids.filter fun g => g.part == p && g.lr.eng == e.num).foldl (fun t g => t.abortGrid g.uid)
            (s.startCmd c))) ∧
      (c.opcode = 6 →
        exec (.snapshot q) s = .next ((s.startCmd c).latch.takeImages)) ∧
      (c.opcode = 7 →
        let keep := fun (t : TlbEntry) => !(t.root == x.root.toNat &&
          decide (t.base < (c.arg 0).toNat + (c.arg 1).toNat ∧ (c.arg 0).toNat < t.base + pageBytes t.leaf.size))
        exec (.flush q) s = .next ({ s.startCmd c with tlb := s.tlb.filter keep, tlb2 := s.tlb2.filter keep }.endCmd s.fresh))) ∧
    -- a SIGNAL that has started
    (∀ d, open' d → (∀ d', open' d' → d'.opcode = 2 → d' = d) → d.opcode = 2 →
      (d.phase = 0 → (∀ n e, d.names = some n → s.cmd? n = some e → e.done = false → exec (.signal q) s = .next s) ∧
        ((∀ n, d.names = some n → ∀ e, s.cmd? n = some e → e.done = true) → signals s d (exec (.signal q) s))) ∧
      (0 < d.phase → exec (.signal q) s = .next (s.finishWrites d))) ∧
    -- the image of a SNAPSHOT is that of the moment at which the last block has latched
    (∀ d, s.cmd? d.uid = some d → d.queue = q → d.opcode = 6 → d.phase = 0 → d.done = false →
      (s.snapDue ≠ [] → s.takeImages = s) ∧
      (s.snapDue = [] → { s.takeImages with cmds := s.cmds } = s ∧ s.takeImages.cmd? d.uid = some { d with phase := 1, body := s.image p })) ∧
    (∀ d, open' d → (∀ d', open' d' → d'.opcode = 6 → d' = d) → d.opcode = 6 →
      (d.phase = 0 → exec (.snapshot q) s = .next s) ∧
      (d.phase = 1 →
        let n := min d.body.length ((d.arg 1).toNat / 64 * 64)
        let s1 := if n < d.body.length then s.modCmd d.uid fun d => { d with err := some { FaultRec.zero with cls := 0x16 } } else s
        ∀ ps, s1.cmdPieces q (s1.cmdSpace p q) .store (d.arg 0) n = .ok ps → exec (.snapshot q) s =
          .next ((s1.cmdWrite q (d.arg 0) ps 8 (d.body.take n)).modCmd d.uid fun d => { d with phase := 2, body := [] })) ∧
      (1 < d.phase → exec (.snapshot q) s = .next (s.finishWrites d))) ∧
    (∀ d e, open' d → (∀ d', open' d' → d'.opcode = 5 → d' = d) → d.opcode = 5 → s.engOf p (d.arg 0).toNat = some e →
      (d.phase = 0 → (∃ g ∈ s.grids, g.part = p ∧ g.lr.eng = e.num) → exec (.release q) s = .next s) ∧
      (d.phase = 0 → (∀ g ∈ s.grids, ¬ (g.part = p ∧ g.lr.eng = e.num)) → ∃ t, exec (.release q) s = .next t ∧
        (∀ g ∈ (t.part p).engs, g.num ≠ e.num) ∧ (∀ k ∈ e.kids, sget 0 t.kidGens k = 0) ∧
        -- its frames, its spill areas in host memory, its save areas and the pond granules that it has written are zero
        ∀ a, ((∃ f ∈ s.framesOf p e.kids, f.2.1 ≤ a ∧ a < f.2.1 + f.2.2) ∨ (∃ x ∈ e.spills, ∃ r ∈ s.spillRanges x, r.1 ≤ a ∧ a < r.1 + r.2) ∨
          (∃ r ∈ e.saves, r.1 ≤ a ∧ a < r.1 + r.2) ∨ ∃ g ∈ e.granules, 2 ^ 53 + 64 * g ≤ a ∧ a < 2 ^ 53 + 64 * g + 64) → memGet t.mem a = 0)) ∧
    -- another RELEASE has ended its engagement meanwhile
    (∀ d, open' d → (∀ d', open' d' → d'.opcode = 5 → d' = d) → d.opcode = 5 → d.phase = 0 → s.engOf p (d.arg 0).toNat = none →
      exec (.release q) s = .next (s.failStarted d.uid d { FaultRec.zero with cls := 0x14, sub := 5 })) ∧
    -- the receipt is written once the zeros sent to other devices are acknowledged and its buffer's pages are there; a buffer too small fails
    (∀ d, open' d → (∀ d', open' d' → d'.opcode = 5 → d' = d) → d.opcode = 5 →
      (d.phase = 1 → (∃ w ∈ s.posted, w.owner = cmdAgent q) → exec (.release q) s =
        .next (if ∃ w ∈ s.posted, w.owner = cmdAgent q ∧ w.bad.isSome then s.finishWrites d else s)) ∧
      (d.phase = 1 → (∀ w ∈ s.posted, w.owner ≠ cmdAgent q) → (d.arg 2).toNat < 2836 → exec (.release q) s =
        .next (s.failStarted d.uid d { FaultRec.zero with cls := 0x16, sub := 1 })) ∧
      (d.phase = 1 → (∀ w ∈ s.posted, w.owner ≠ cmdAgent q) → 2836 ≤ (d.arg 2).toNat →
        (∀ ps, s.cmdPieces q (s.cmdSpace p q) .store (d.arg 1) 2836 = .ok ps → exec (.release q) s =
          .next ((s.cmdWrite q (d.arg 1) ps 8 (d.body.take 2836)).modCmd d.uid fun d => { d with phase := 2, body := [] })) ∧
        ∀ root page fi, s.cmdPieces q (s.cmdSpace p q) .store (d.arg 1) 2836 = .error (.absent root page fi) →
          ∃ t, exec (.release q) s = .next t ∧ { t with reqs := s.reqs, evq := s.evq, fresh := s.fresh, fe := s.fe } = s ∧
            ∃ r ∈ t.reqs, r.root = root ∧ r.page = page ∧ r.mill = none) ∧
      (1 < d.phase → exec (.release q) s = .next (s.finishWrites d))) ∧
    (∀ w d, s.waitTl.find? (·.1 == q) = some w → open' d → d.opcode = 3 → (∀ d', open' d' → d'.opcode = 3 → d' = d) →
      (∀ t ∈ s.txns, ∀ a, t.owner = some a → a.1 ≠ cmdAgent q) → ∀ bs, s.cmdRead p q w.2.1 8 = .ok bs →
      let t := s.countCmd p q w.2.1 8
      (natOfBytes bs < w.2.2.toNat → exec (.waittlSatisfied q) s = .next t) ∧
      (natOfBytes bs ≥ w.2.2.toNat → exec (.waittlSatisfied q) s =
        .next ({ t with waitTl := s.waitTl.filter (·.1 != q) }.endCmd d.uid))) ∧
    ∀ d, s.cmd? d.uid = some d → d.queue = q →
      ((∀ w ∈ s.posted, w.owner ≠ cmdAgent q) → s.finishWrites d = s.endCmd d.uid) ∧
      ((∃ w ∈ s.posted, w.owner = cmdAgent q) → (∀ w ∈ s.posted, w.owner = cmdAgent q → w.bad = none) → s.finishWrites d = s) ∧
      ∀ w k, s.posted.find? (fun w => w.owner == cmdAgent q && w.bad.isSome) = some w → w.bad = some k →
        s.finishWrites d = { s with posted := s.posted.filter fun w => w.owner != cmdAgent q }.failStarted d.uid d
          { FaultRec.zero with cls := 0x18, sub := BitVec.ofNat 8 k, va := w.va, access := w.access }

/-! ### The device link -/

/-- R386-R390: a flit in order with a right CRC and a listed TYPE is taken: the next number is expected, what its ACK covers is released, its
CREDITs count; any other is dropped and answered with a NAK. A taken request performs at the memory side and is answered with its STATUS,
a taken response ends its transaction; a NAK replays, and 16 without progress retrain the port. What the device exports is free (log 41), as is
what it does with bits of SEQ and DSTNODE that are stated zero (log 41). The lines that a request brings from memory are counted (R414). -/
def Obligations.FlitsAreTakenInOrderAndServed : Prop :=
  (∀ (s : State) (port : Nat) (f : Flit), port < s.ports.length → (s.port port).st ≠ 2 →
    -- each die has room for the pushes of what the flit may write (R381)
    (∀ d < 4, (s.xmsgs.filter fun m => m.src == d).length + 1024 ≤ 2 ^ 20) →
    let p := s.port port
    let listed := f.vc = 0 ∧ f.typ ∈ [1, 2, 3] ∨ f.vc = 1 ∧ f.typ ∈ [1, 2, 3] ∨ f.vc = 2 ∧ f.typ ∈ [1, 2] ∨ f.vc = 3 ∧ f.typ ∈ [1, 2, 3, 4]
    let good := listed ∧ f.crc = crc64 (flitBody f) ∧ f.seq = p.rxNext
    let acked := fun (ack : Nat) (x : Flit) => decide ((ack + 4096 - x.seq) % 4096 < 2048)
    let rest := p.unacked.filter fun x => !acked f.ack x
    let got := (s.modPort port fun _ => { p with
      rxNext := (p.rxNext + 1) % 4096
      unacked := rest
      replays := if rest.length < p.unacked.length then 0 else p.replays
      credits := [p.credits.getD 0 0 + f.credit % 16, p.credits.getD 1 0 + f.credit / 16 % 16, p.credits.getD 2 0 + f.credit / 256 % 16,
        p.credits.getD 3 0 + f.credit / 4096 % 16]
      freed := if f.vc < 3 then modAt p.freed f.vc (· + 1) else p.freed }).pumpPort port
    let line := f.addr / 128 * 128
    let ours := fun (n : Nat) => f.dstNode = s.nodeId ∧ f.addr % 128 + n ≤ 128 ∧
      (f.addr < 0xC000000000 ∨ 0x10000000000 ≤ f.addr ∧ f.addr < 0x30000000000) ∧ Config.exports f.addr = true
    let kid := Config.linkKid (f.addr / 64)
    let w := if f.opc / 16 % 2 = 1 then 64 else 32
    let op := f.opc % 16
    let legal := op ≤ 9 ∨ op = 10 ∧ w = 32
    let old := natOfBytes ((List.range (w / 8)).map fun i => s.plain (s.kidGen kid) (f.addr + i))
    let st := if ¬ ours (w / 8) ∨ f.addr % (w / 8) ≠ 0 then 1 else if s.markedAtHome f.addr (w / 8) then 2 else 0
    let after := fun (write : Prop) [Decidable write] (v : Nat) =>
      let t := got.monitorAll f.addr (w / 8) kid (decide write)
      if st = 0 then (if write then t.settleFree (t.kidGen kid) kid f.addr (bytesOfNat (w / 8) v) else t) else got
    let tell := fun (t : State) => (.next (t.tellCredits port) : Out)
    let oldBack := fun (t : State) (st : Nat) (v : Nat) => tell (t.respond f.srcNode (f.addr / 128)
      { flitBlank 1 2 with tag := f.tag, status := st, opnd0 := BitVec.ofNat 64 v })
    (¬ good → ∀ i ∈ ([(0, 1, .linkRead port f), (0, 2, .linkAtomic port f), (0, 3, .linkCas port f), (1, 1, .linkReadData port f),
        (1, 2, .linkOldValue port f), (1, 3, .linkAcknowledgement port f), (2, 1, .linkWrite port f), (2, 2, .linkReduction port f),
        (3, 1, .nak port f), (3, 2, .idle port f), (3, 3, .retrainRequest port f), (3, 4, .retrainAcknowledgement port f),
        (f.vc, f.typ, .corruptFlit port f)] : List (Nat × Nat × Instr)),
      i.1 = f.vc → i.2.1 = f.typ → exec i.2.2 s = .next (s.sendOn port { flitBlank 3 1 with nakSeq := p.rxNext })) ∧
    (good →
      (f.vc = 0 → f.typ = 1 →
        let n := f.size + 1
        let answer := fun (t : State) (st : Nat) (bs : List Byte) => tell (t.respond f.srcNode (f.addr / 128) { flitBlank 1 1 with
          tag := f.tag, size := f.size, status := st
          data := List.replicate (f.addr % 128) 0 ++ bs ++ List.replicate (128 - f.addr % 128 - n) 0 })
        exec (.linkRead port f) s =
          if ¬ ours n then answer got 1 (List.replicate n 0)
          else if s.markedAtHome f.addr n then answer got 2 (List.replicate n 0)
          else answer (got.monitorAll f.addr n kid false) 0 (got.viewBytes ⟨none, none, none, none⟩ kid f.addr n)) ∧
      (f.vc = 0 → f.typ = 2 → (legal → exec (.linkAtomic port f) s =
          oldBack (after True (atomNew op w old (f.opnd0.toNat % 2 ^ w))) st (if st = 0 then old else 0)) ∧
        (¬ legal → exec (.linkAtomic port f) s = oldBack got 1 0)) ∧
      (f.vc = 0 → f.typ = 3 → exec (.linkCas port f) s =
        oldBack (after (old = f.opnd0.toNat % 2 ^ w) (f.opnd1.toNat % 2 ^ w)) st (if st = 0 then old else 0)) ∧
      (f.vc = 2 → f.typ = 2 → (legal ∧ op ≠ 8 → exec (.linkReduction port f) s =
          tell ((after True (atomNew op w old (f.opnd0.toNat % 2 ^ w))).acknowledge f.srcNode f.tag st)) ∧
        (¬ (legal ∧ op ≠ 8) → exec (.linkReduction port f) s = tell (got.acknowledge f.srcNode f.tag 1))) ∧
      (f.vc = 2 → f.typ = 1 →
        let runs := maskRuns 129 0 f.mask f.data
        (¬ (0x40000000000 ≤ f.addr ∧ f.addr < 0x50000000000) →
          let mine := f.dstNode = s.nodeId ∧ (line < 0xC000000000 ∨ 0x10000000000 ≤ line ∧ line < 0x30000000000) ∧ Config.exports line = true
          let st := if ¬ mine then 1 else if runs.any (fun r => s.blocked (line + r.1) r.2.length) then 2 else 0
          -- each of the line's halves that it writes counts once
          let kid := Config.linkKid (line / 64)
          let counted := [line, line + 64].foldl (fun t k =>
            if runs.any fun r => decide (line + r.1 < k + 64 ∧ k < line + r.1 + r.2.length) then t.monitorAll k 64 kid true else t) got
          exec (.linkWrite port f) s = tell ((if st = 0 then
              runs.foldl (fun t r => t.settleFree (t.kidGen kid) kid (line + r.1) r.2) counted else got).acknowledge f.srcNode f.tag st)) ∧
        (0x40000000000 ≤ f.addr ∧ f.addr < 0x50000000000 →
          let part := f.addr / 2 ^ 37 % 8
          let rank := f.addr / 2 ^ 21 % 2 ^ 16
          let base := f.addr % 2 ^ 21 / 128 * 128
          let grid := s.grids.find? fun g => g.part == part && !g.seed && decide (rank < (if g.dead then g.placed else g.lr.gangs) * g.lr.gang)
          (∀ g, grid = some g → Config.admits f.srcNode f.srcPart part = true → g.dead = false →
            f.addr % 2 ^ 21 < (g.lr.scratch + g.lr.acc) * 1024 →
            (∀ r ∈ runs, base + r.1 + r.2.length ≤ (g.lr.scratch + g.lr.acc) * 1024) → exec (.linkWrite port f) s =
              tell { got with
                inbox := got.inbox ++ [⟨got.fresh, g.uid, rank, runs.map fun r => (base + r.1, r.2), f.srcNode, f.tag⟩]
                fresh := got.fresh + 1 }) ∧
          ((∀ g, grid = some g → Config.admits f.srcNode f.srcPart part = false ∨ g.dead = true ∨
              (g.lr.scratch + g.lr.acc) * 1024 ≤ f.addr % 2 ^ 21 ∨ ∃ r ∈ runs, base + r.1 + r.2.length > (g.lr.scratch + g.lr.acc) * 1024) →
            exec (.linkWrite port f) s = tell (got.acknowledge f.srcNode f.tag 1)))) ∧
      (f.vc = 1 → (∀ t ∈ s.txns, t.tag = f.tag → t.resp = none) → ∀ t, s.txns.find? (fun t => t.tag == f.tag) = some t →
        let others := s.txns.filter fun u => u.tag != f.tag
        let done := match t.posted with
          | some id => got.dropPosted id
          | none => got
        let failed := match t.posted with
          | some id => got.modPosted id fun a => { a with bad := some (if f.status = 3 then 2 else if f.status = 2 then 0 else 1) }
          | none => got
        (f.typ = 1 → exec (.linkReadData port f) s =
          if f.status = 0 then tell { done with txns := others ++ [{ t with resp := some (0, (f.data.drop (t.va.toNat % 128)).take t.size) }] }
          else tell { failed with txns := others ++ [{ t with resp := some (f.status, []) }] }) ∧
        (f.typ = 2 → exec (.linkOldValue port f) s =
          if f.status = 0 then tell { done with txns := others ++ [{ t with resp := some (0, bytesOfNat t.size f.opnd0.toNat) }] }
          else tell { failed with txns := others ++ [{ t with resp := some (f.status, []) }] }) ∧
        (f.typ = 3 → exec (.linkAcknowledgement port f) s =
          if f.status = 0 then tell { done with txns := others } else tell { failed with txns := others })) ∧
      (f.vc = 3 → f.typ = 2 → exec (.idle port f) s = tell got) ∧
      (f.vc = 3 → f.typ = 3 → exec (.retrainRequest port f) s = tell (got.sendOn port (flitBlank 3 4))) ∧
      (f.vc = 3 → f.typ = 4 → exec (.retrainAcknowledgement port f) s =
        tell (if p.st = 1 then (got.modPort port fun p => { p with st := 0, replays := 0 }).pumpPort port else got)) ∧
      (f.vc = 3 → f.typ = 1 →
        let q := got.port port
        let left := q.unacked.filter fun x => !acked (f.nakSeq + 4095) x
        let n := if left.length < q.unacked.length then 1 else q.replays + 1
        let t := got.modPort port fun p => { p with unacked := left, replays := n }
        exec (.nak port f) s = if n ≥ 16 ∧ p.st = 0 then
          tell ((t.modPort port fun p => { p with st := 1 }).sendOn port (flitBlank 3 3)) else tell t))) ∧
  (∀ (s : State) (port : Nat), port < s.ports.length → (s.port port).st = 1 →
    exec (.portRetrain port true) s = .next ((s.modPort port fun p => { p with st := 0, replays := 0 }).pumpPort port) ∧
    ∃ t u : State, exec (.portRetrain port false) s = .next t ∧
      u = { s.modPort port fun p => { p with st := 2, unacked := [], sendQ := [] } with evq := s.evq ++ [.link port] } ∧
      t = ((s.port port).unacked ++ (s.port port).sendQ).foldl (fun v x => v.moveFlit x) u) ∧
  (∀ (s : State) (port : Nat) (f : Flit), (s.port port).st = 2 → ∀ i ∈ [Instr.linkRead port f, .linkAtomic port f, .linkCas port f,
    .linkReadData port f, .linkOldValue port f, .linkAcknowledgement port f, .linkWrite port f, .linkReduction port f, .nak port f,
    .idle port f, .retrainRequest port f, .retrainAcknowledgement port f, .corruptFlit port f], exec i s = .next s) ∧
  (∀ (m : BitVec 128) (data : List Byte), data.length = 128 → ∀ (i : Nat) (v : Byte),
    (∃ r ∈ maskRuns 129 0 m data, r.1 ≤ i ∧ r.2[i - r.1]? = some v) ↔ (m.getLsbD i = true ∧ data[i]? = some v)) ∧
  -- no flit passes an earlier one of its VC or, in issue order, of its line (R385)
  (∀ (p : LinkPort) (l : List Flit) (f : Flit), p.nextFlit [] l = some f → ∃ pre post, l = pre ++ f :: post ∧ p.canSend f = true ∧
    ∀ g ∈ pre, g.vc ≠ f.vc ∧ ¬ (g.vc ∈ [0, 2] ∧ f.vc ∈ [0, 2] ∧ g.dstNode = f.dstNode ∧ g.addr / 128 = f.addr / 128)) ∧
  ∀ (s : State) (port : Nat) (f : Flit), port < s.ports.length →
    let p := s.port port
    p.sendQ = [] → p.unacked.length < 1024 → (f.vc = 3 ∨ p.st = 0 ∧ p.credits.getD f.vc 0 ≠ 0) →
    let g := { f with seq := (p.txSeq + 1) % 4096, ack := (p.rxNext + 4095) % 4096, credit := packCredits p.freed }
    (s.sendOn port f) = s.modPort port fun _ => { p with
      txSeq := (p.txSeq + 1) % 4096, unacked := p.unacked ++ [{ g with crc := crc64 (flitBody g) }], freed := [0, 0, 0, 0]
      credits := if f.vc = 3 then p.credits else setAt p.credits f.vc (p.credits.getD f.vc 0 - 1) }

/-! ### Cross-die messages and page moves -/

/-- R224, R380-R384: the oldest message of a pair of dies is applied once its causal cover holds: a remote write performs at its home, a push
updates the receiver's copy and may end its write, a fetch response fills a copy; the receiver's KN then names it. A die sends a beacon
where SEQ has advanced without a message. A page move sets MOV and shoots the page down; its commit, once nothing of the page is under
way, copies bytes to the new place under the page's key, gives the leaf its new FRAME, TIER, NODE and CMP and clears MOV; a page of another device
is asked for, and one for another device sent, first. That a beacon neither advances SEQ nor waits for a cover, and when a move is ready, are the
model's choices (log 40), as are the steps of a move from or to another device (log 54). -/
def Obligations.CrossDieMessagesApplyInCausalOrder : Prop :=
  -- a TLB's copy of a leaf: of the page at an address, or of the same frame under another root
  let copyOf' := fun (e : TlbEntry) (root va : Nat) (l : Leaf) =>
    (e.root = root ∧ e.base < va + pageBytes l.size ∧ va < e.base + pageBytes e.leaf.size) ∨
    (e.leaf.tier = l.tier ∧ e.leaf.node = l.node ∧ e.leaf.frame = l.frame ∧ e.leaf.size = l.size)
  (∀ (s : State) (src dst : Nat) (m : XMsg) (pre post : List XMsg), s.xmsgs = pre ++ m :: post → m.src = src → m.dst = dst →
    (∀ x ∈ pre, ¬ (x.src = src ∧ x.dst = dst)) → (∀ x ∈ post, x.src = src → x.dst = dst → ¬ (x.num = m.num ∧ x.kind = m.kind)) →
    dst < s.dies.length →
    let cover := ∀ k < 4, k ≠ src → k ≠ dst → ((s.die dst).kn.getD k 0 + 2 ^ 48 - m.clk.getD k 0) % 2 ^ 48 < 2 ^ 47
    let got := { s.modDie dst fun d => { d with kn := setAt d.kn src m.num } with xmsgs := pre ++ post }
    (∀ id, m.kind = .write id →
      (cover → exec (.remoteWrite src dst) s = .next (match s.posted? id with
        | some p => if s.roomHome p then got.settlePosted p else s
        | none => got)) ∧
      (¬ cover → exec (.remoteWrite src dst) s = .next s)) ∧
    (∀ key kid bs n id, m.kind = .push key kid bs n id →
      (¬ cover → exec (.push src dst) s = .next s) ∧
      (cover →
        -- an operation of another die that its own die has now heard of is over
        let left := fun (l : List Posted) => l.filter fun q => !(q.settled.isSome && q.red.isSome) || got.arriving q
        ∃ t, exec (.push src dst) s = .next t ∧ { t with dies := got.dies, posted := got.posted, code := got.code } = got ∧
        (∀ d ≠ dst, t.die d = got.die d) ∧ { t.die dst with copies := [], marks := [] } = { got.die dst with copies := [], marks := [] } ∧
        (∀ ln k, ln ≠ key / 128 → t.copyOf dst ln k = s.copyOf dst ln k) ∧
        -- a copy under another key-ID no longer says what the line holds, and goes; the one under the same key-ID takes the bytes
        (∀ k, k % 1024 ≠ kid % 1024 → t.copyOf dst (key / 128) k = none) ∧
        (s.copyOf dst (key / 128) kid = none → t.copyOf dst (key / 128) kid = none) ∧
        (∀ l, s.copyOf dst (key / 128) kid = some l → ∃ l', t.copyOf dst (key / 128) kid = some l' ∧ l'.length = l.length ∧ ∀ i < l.length,
          l'.getD i 0 = if key % 128 ≤ i ∧ i < key % 128 + bs.length then bs.getD (i - key % 128) 0 else l.getD i 0) ∧
        (id = none → t.posted = left s.posted) ∧
        ∀ i, id = some i →
          let more := ∃ x ∈ pre ++ post, x.dst < 4 ∧ ∃ k e b c, x.kind = .push k e b c (some i)
          (more → t.posted = left s.posted) ∧ (¬ more → t.posted = left (s.posted.filter (·.id != i))))) ∧
    (∀ line kid bs, m.kind = .fetch line kid bs →
      (cover → exec (.fetchResponse src dst) s = .next (got.modDie dst fun d => { d with
        copies := sput [] d.copies (1024 * line + kid % 1024) bs
        -- the words marked at the home are marked here
        marks := d.marks.filter (·.1 != 1024 * line + kid % 1024) ++
          (s.homeMarks (line * 128) 128).map fun b => (1024 * line + kid % 1024, b % 128 / 8) })) ∧
      (¬ cover → exec (.fetchResponse src dst) s = .next s)) ∧
    -- a load that has read at the home, and a replayed one
    (∀ id bs, m.kind = .answer id bs → exec (.fetchResponse src dst) s = .next (if cover then (match s.posted? id with
        | some p => (got.modThread p.owner p.lane fun t => t.fillPart id bs).dropPosted id
        | none => got) else s)) ∧
    (∀ tag bs, m.kind = .reply tag bs → exec (.fetchResponse src dst) s = .next (if cover then
        { got with txns := s.txns.map fun t => if t.tag = tag then { t with resp := some (0, bs) } else t } else s)) ∧
    (m.kind = .beacon → exec (.clockBeacon src dst) s = .next got)) ∧
  (∀ (s : State) (src dst : Nat), (∀ x ∈ s.xmsgs, ¬ (x.src = src ∧ x.dst = dst)) → src < 4 → dst < 4 → src ≠ dst →
    let n := (s.die src).seq
    ((s.die src).sentTo.getD dst 0 ≠ n → exec (.clockBeacon src dst) s =
      .next { s.modDie src fun d => { d with sentTo := setAt d.sentTo dst n } with xmsgs := s.xmsgs ++ [⟨src, dst, n, [], .beacon⟩] }) ∧
    ((s.die src).sentTo.getD dst 0 = n → exec (.clockBeacon src dst) s = .next s)) ∧
  (∀ (s : State) (src dst : Nat) (k : XKind), src < s.dies.length →
    let n := ((s.die src).seq + 1) % 2 ^ 48
    let kn := setAt (s.die src).kn src n
    s.sendX src dst k = { s.modDie src fun d => { d with seq := n, kn := kn, sentTo := setAt d.sentTo dst n } with
      xmsgs := s.xmsgs ++ [⟨src, dst, n, kn, k⟩] }) ∧
  (∀ (s : State) (d line : Nat), d < s.dies.length →
    ∃ t, exec (.dropsItsCopy d line) s = .next t ∧ { t with dies := s.dies, code := s.code } = s ∧ (∀ e ≠ d, t.die e = s.die e) ∧
      { t.die d with copies := [], marks := [] } = { s.die d with copies := [], marks := [] } ∧
      (∀ k, t.copyOf d line k = none) ∧ ∀ ln k, ln ≠ line → t.copyOf d ln k = s.copyOf d ln k) ∧
  -- a die never has more than 2^20 messages outstanding: what would send one more waits (R381)
  (∀ (s : State) (h : Nat), (s.xmsgs.filter fun m => m.src == h).length ≥ 2 ^ 20 →
    (∀ d line kid, homeOf (line * 128) = some h → s.fetchLine d line kid = s) ∧
    (∀ p : Posted, p.die = some h → s.sendWrite p = s) ∧ ∀ p : Posted, homeOf p.key = some h → s.settlePosted p = s) ∧
  (∀ (s : State) (root va lo hi : Nat) (l : Leaf) (entry : Nat), walkGo s (va % 2 ^ 57) 4 root = .leaf l entry →
    let new := lo % 2 ^ 64 + hi % 2 ^ 64 * 2 ^ 64
    let to' := { l with frame := (leafOf new).frame, tier := (leafOf new).tier, node := (leafOf new).node, cmp := (leafOf new).cmp }
    let good := l.mov = false ∧ entV new = true ∧ entLeaf new = true ∧ entSize new = l.size ∧ to'.wellFormed = true ∧
      s.entryReady entry = true
    let size := pageBytes l.size
    let page := va - va % size
    (¬ good → exec (.pageMove root va lo hi) s = .next s) ∧
    (good → ∃ t src, exec (.pageMove root va lo hi) s = .next t ∧
      { t with mem := s.mem, lineKeys := s.lineKeys, poison := s.poison, moves := s.moves, tlb := s.tlb, tlb2 := s.tlb2, dies := s.dies,
               xmsgs := s.xmsgs, posted := s.posted, code := s.code, settle := s.settle, fresh := s.fresh, parts := s.parts } = s ∧
      leafOf (t.tableEntry entry) = { l with mov := true } ∧
      (∀ a, entry % 16 = 0 → a < entry ∨ entry + 16 ≤ a → t.plain 0 a = s.plain 0 a) ∧
      leafOf src = l ∧ t.moves = s.moves ++ [⟨root, page, entry, size, src, BitVec.ofNat 64 lo, BitVec.ofNat 64 hi, 0, []⟩] ∧
      (∀ e, e ∈ t.tlb ↔ e ∈ s.tlb ∧ ¬ copyOf' e root page l) ∧ ∀ e, e ∈ t.tlb2 ↔ e ∈ s.tlb2 ∧ ¬ copyOf' e root page l)) ∧
  ∀ (s : State) (k : Nat) (mv : PageMove), s.moves[k]? = some mv →
    let old := leafOf mv.src
    let place := leafOf (mv.lo.toNat + mv.hi.toNat * 2 ^ 64)
    let new := { old with frame := place.frame, tier := place.tier, node := place.node, cmp := place.cmp, mov := false }
    let ends := fun (t : State) => t.moves = s.moves.eraseIdx k ∧ leafOf (t.tableEntry mv.entry) = new ∧
      (∀ e, e ∈ t.tlb ↔ e ∈ s.tlb ∧ ¬ copyOf' e mv.root mv.va old) ∧ ∀ e, e ∈ t.tlb2 ↔ e ∈ s.tlb2 ∧ ¬ copyOf' e mv.root mv.va old
    let apart := fun (b : Nat) => mv.size % 64 = 0 ∧ (mv.entry + 80 ≤ b ∨ b + mv.size + 64 ≤ mv.entry)
    let was := if old.tier ≤ 1 then s.kidGen old.kid else 0
    let now := if new.tier ≤ 1 then s.kidGen new.kid else 0
    (s.entryReady mv.entry = false → exec (.pageMoveCommit k) s = .next s) ∧
    (s.entryReady mv.entry = true →
      (mv.stage = 0 → s.moveReady mv old.base new.base = false → exec (.pageMoveCommit k) s = .next s) ∧
      (mv.stage = 0 → s.moveReady mv old.base new.base = true →
        (∀ a b, old.base = some a → new.base = some b → ∃ t, exec (.pageMoveCommit k) s = .next t ∧ ends t ∧
          (apart b → ∀ i < mv.size, t.plain now (b + i) = s.plain was (a + i))) ∧
        -- to another device, but for a page with a marked line; from another device
        (∀ a, old.base = some a → new.base = none → exec (.pageMoveCommit k) s = .next (if s.poisoned a mv.size then s
          else s.moveOn k 2 mv ((s.countMove mv old false).sendPage mv new ((List.range mv.size).map fun i => s.plain was (a + i))))) ∧
        (old.base = none → exec (.pageMoveCommit k) s = .next (s.moveOn k 1 mv (s.askPage mv old)))) ∧
      (0 < mv.stage → (∃ x ∈ s.txns, x.tag ∈ mv.tags ∧ x.resp = none) → exec (.pageMoveCommit k) s = .next s) ∧
      (0 < mv.stage → (∀ x ∈ s.txns, x.tag ∈ mv.tags → x.resp ≠ none) →
        let bs := s.askedPage mv.tags
        (mv.stage = 1 → (∀ b, new.base = some b → ∃ t, exec (.pageMoveCommit k) s = .next t ∧ ends t ∧
            (apart b → bs.length = mv.size → ∀ i < mv.size, t.plain now (b + i) = bs.getD i 0)) ∧
          (new.base = none → ∃ u : State, { u with free := s.free } = s ∧
            exec (.pageMoveCommit k) s = .next (u.moveOn k 2 mv (u.sendPage mv new bs)))) ∧
        (1 < mv.stage → ∃ t, exec (.pageMoveCommit k) s = .next t ∧ ends t)))

/-! ### Placement, slices, the end of mills -/

/-- R149-R151, R154, R169-R174, R225, R273, R356-R358, R435: a placement takes the first gang of the ready order that fits, whole and in one
cluster, the head's reservation kept free; a mill that starts has its wheels at the entry with a header due, its parameters in s0-s15 and
its images in place; a pause runs out; a mill whose work is over drains and is freed with its scratchpad zero; a slice that is over
ends in a pre-emption where an equal or earlier gang waits, and is renewed elsewhere. That a grid's gangs join the order one by one is the model's
choice (log 35). -/
def Obligations.GangsArePlacedRunTheirSlicesAndEnd : Prop :=
  (∀ (s : State) (part : Nat) (head : Gang) (rest : List Gang), (s.part part).valid = true → s.board.gated = false →
    s.readyOrder part = head :: rest →
    let u := s.settleReservation part head
    let barred := (u.part part).resv.map (·.cluster)
    (∀ cores, u.gangFits part head none = some cores →
      exec (.gangPlacement part) s = .next ((u.place head cores).modPart part fun p => { p with resv := none })) ∧
    (u.gangFits part head none = none →
      ((∀ g ∈ rest, u.gangFits part g barred = none) → exec (.gangPlacement part) s = .next u) ∧
      ∀ pre g post cores, rest = pre ++ g :: post → (∀ h ∈ pre, u.gangFits part h barred = none) →
        u.gangFits part g barred = some cores →
        let v := (u.place g cores).modGang head.uid fun h => { h with age := h.age + 1 }
        exec (.gangPlacement part) s = .next (match v.gang? head.uid with
          | some h => v.settleReservation part h
          | none => v))) ∧
  (∀ (s : State) (part : Nat),
    let key := fun (g : Gang) => if g.starve ≥ 64 then 0 else match s.grid? g.grid with
      | some x => x.lr.deadline
      | none => 0
    (s.readyOrder part).Pairwise (fun g h => key g < key h ∨ key g = key h ∧ (g.order < h.order ∨ g.order = h.order ∧ g.num ≤ h.num)) ∧
    ∀ g, g ∈ s.readyOrder part ↔
      g ∈ s.gangs ∧ (g.st = .unplaced ∨ g.st = .evicted) ∧ (s.grid? g.grid).map (·.part) = some part) ∧
  (∀ (s : State) (part : Nat) (g : Gang) (gr : Grid) (barred : Option Nat) (cores : List (Nat × List Nat)), s.grid? g.grid = some gr →
    s.gangFits part g barred = some cores → (cores.map Prod.fst).Nodup ∧
      cores.length = (if g.st = .unplaced then gr.lr.gang else (s.unfinished g).length) ∧
      ∃ cl < 52, (s.part part).clusters.getLsbD cl = true ∧ barred ≠ some cl ∧ ∀ c ∈ cores, c.1 / 8 = cl ∧ c.1 ∉ s.board.vacated ∧
        let on := s.mills.filter fun m => m.core == c.1 && (m.st == .running || m.st == .draining)
        on.length < 8 ∧ (on.map fun m => m.scratch + m.acc).sum + gr.lr.scratch + gr.lr.acc ≤ 1536 ∧
        c.2.length = gr.lr.wheels + gr.lr.hres) ∧
  (∀ (s : State) (g : Gang) (gr : Grid) (cores : List (Nat × List Nat)), s.grid? g.grid = some gr → g.st = .unplaced → s.inbox = [] →
    let t := s.place g cores
    t.mem = s.mem ∧ t.mills = s.mills ++ (List.range cores.length).map (fun i =>
      startMill gr (s.fresh + i) g.uid g.num i (cores.getD i (0, [])).1 (cores.getD i (0, [])).2) ∧
    t.gangs = (s.gangs.map fun h => if h.uid = g.uid then
        { h with st := .resident, age := 0, starve := 0, mills := (List.range cores.length).map fun i => s.fresh + i } else h) ++
      (if g.num + 1 < gr.lr.gangs then
        [⟨s.fresh + cores.length, gr.uid, g.num + 1, .unplaced, g.order, 0, g.starve, false, none, false, []⟩] else [])) ∧
  (∀ (gr : Grid) (uid gang num f2 core : Nat) (pipes : List Nat),
    let m := startMill gr uid gang num f2 core pipes
    let r := gr.lr
    m.st = .running ∧ m.core = core ∧ m.f2 = f2 ∧ m.gang = gang ∧ m.bud = (if r.budget = 0 then 800000 else r.budget) ∧
    (∀ i < 16, sget 0 m.sregs i = gr.params.getD i 0) ∧ (∀ i, 16 ≤ i → sget 0 m.sregs i = 0) ∧ m.claims = [] ∧
    m.tables = List.replicate 8 ((List.range 32).map fun i => BitVec.ofNat 8 i) ∧ m.flume = Flume.start ∧ m.ctxs = [WalkCtx.start, WalkCtx.start] ∧
    (∀ k < 16, m.pats[k]? = some ⟨gr.patImg.getD k 0, 0, 0⟩) ∧ (gr.portImg = [] → ∀ k < 32, m.ports[k]? = some ⟨[], 8, false, false, 0, false⟩) ∧
    m.wheels.length = r.wheels + r.hres ∧ ∀ w < r.wheels + r.hres, ∃ x, m.wheels[w]? = some x ∧ x.threads.length = 32 ∧
      x.pipe = pipes.getD w 0 ∧ x.handler = decide (r.wheels ≤ w) ∧ x.fences = Fences.start ∧ x.inst = none ∧
      ∀ l < 32, x.threads[l]? = some (if w < r.wheels then
        { Thread.start r.entry (decide (r.extOf 0 ≤ l)) with sys := r.sys num f2 w l } else Thread.start 0 true)) ∧
  (∀ (s : State) (k : Nat) (c : FeCore), s.fe[k]? = some c → exec (.pauseExpiry (.fe k)) s = .next (s.pass c.paused) ∧
    (s.pass c.paused).fe[k]? = some { c with paused := 0 } ∧ (s.pass c.paused).clk = s.clk + c.paused) ∧
  (∀ (s : State) (m w : Nat) (x : Wheel), s.wheel? (.wheel m w) = some x → exec (.pauseExpiry (.wheel m w)) s = .next (s.pass x.paused) ∧
    (s.pass x.paused).wheel? (.wheel m w) = some { x with paused := 0 }) ∧
  (∀ (s : State) (uid : Nat) (m : Mill), s.mill? uid = some m →
    let over' := m.st = .running ∧ m.aborted = false ∧
      (∀ w ∈ m.wheels, if w.handler then w.inst = none else ∀ t ∈ w.threads, t.exited = true) ∧
      (∀ c ∈ m.ctxs, ∀ w ∈ c.walks, w.pending = false) ∧ m.flume.noteOpen (s.schedOf uid) = false ∧
      ∀ k < m.pats.length, m.satisfiable k = false
    let halted := m.flume.halt ≠ none ∨ ∃ c ∈ m.ctxs, c.halted = true
    (¬ over' → exec (.millFinish uid) s = .next s) ∧
    (over' → halted → exec (.millFinish uid) s = .next (s.millError uid m.lastEng)) ∧
    (over' → ¬ halted → exec (.millFinish uid) s = .next (s.modMill uid fun m => { m with st := .draining })) ∧
    let drained := (m.st = .draining ∨ m.st = .evicted ∧ m.aborted = true) ∧ (∀ p ∈ s.posted, p.mill = some uid → p.rd ≠ 0) ∧
      (∀ t ∈ s.txns, t.mill = some uid → t.posted ≠ none → t.resp ≠ none) ∧ (∀ o ∈ m.flume.ops, o.failed = true) ∧
      (m.aborted = true ∨ s.nextOp m = none)
    (¬ drained → exec (.millFree uid) s = .next s) ∧
    (drained → ∃ t, exec (.millFree uid) s = .next t ∧ (∀ x ∈ t.mills, x.uid = uid → x.st = .freed) ∧
      -- its scratchpad reads zero, and so does the save area that an evicted mill still has
      (∀ a, memGet t.mem a = if padKey uid 0 ≤ a ∧ a < padKey uid 0 + (m.scratch + m.acc) * 1024 ∨
        (m.area.any fun x => decide (x.1 ≤ a ∧ a < x.1 + x.2)) = true then 0 else memGet s.mem a) ∧
      (s.gang? m.gang ≠ none → (∀ x ∈ s.mills, x.gang = m.gang → x.uid = uid ∨ x.st = .freed) → (∀ g ∈ t.gangs, g.uid ≠ m.gang) ∧
        ∀ x ∈ t.mills, x.gang ≠ m.gang))) ∧
  -- the budget falls while the gang runs and none of its mills is frozen
  (∀ (s : State) (n uid : Nat) (m : Mill) (g : Gang), s.mill? uid = some m → s.gang? m.gang = some g →
    ∃ m', (s.pass n).mill? uid = some m' ∧ m'.bud = if m.st = .running ∧ g.save = none ∧ g.restoring = false ∧
      ∀ x ∈ g.mills.filterMap s.mill?, x.frozen = false then m.bud - n else m.bud) ∧
  ∀ (s : State) (uid : Nat) (g : Gang) (gr : Grid), s.gang? uid = some g → s.grid? g.grid = some gr →
    let over' := g.st = .resident ∧ g.save = none ∧ g.restoring = false ∧
      (g.yield = true ∨ ∃ m ∈ g.mills.filterMap s.mill?, m.st = .running ∧ m.bud = 0)
    let u := s.modGang uid fun g => { g with yield := false }
    let due := ∃ h ∈ s.gangs, (h.st = .unplaced ∨ h.st = .evicted) ∧ (s.grid? h.grid).map (·.part) = some gr.part ∧
      s.effKey h ≤ gr.lr.deadline
    let held := ∃ m ∈ g.mills.filterMap s.mill?, ∃ w ∈ m.wheels, ∃ t ∈ w.threads, t.halted = true ∨ t.haltDue = true
    (¬ over' → exec (.sliceEnd uid) s = .next s) ∧
    (over' → due → ¬ held → exec (.sliceEnd uid) s = .next (u.modGang uid fun g => if g.save = none then { g with save := some ⟨0x20, 0, false⟩ } else g)) ∧
    (over' → ¬ due ∨ held → ∃ t, exec (.sliceEnd uid) s = .next t ∧
      t.mills = (s.mills.map fun m => if m.gang = g.uid then { m with bud := if gr.lr.budget = 0 then 800000 else gr.lr.budget } else m) ∧
      { t with mills := s.mills, gangs := s.gangs } = s ∧
      t.gangs = u.gangs.map fun h => if (h.st = .unplaced ∨ h.st = .evicted) ∧ (s.grid? h.grid).map (·.part) = some gr.part ∧
        s.effKey h > gr.lr.deadline then { h with starve := min 64 (h.starve + 1) } else h)

/-! ### Pre-emption, restore, the debugger -/

/-- R360-R368, R372: a request asks a resident gang to save, and the front end's vacates its cores; a thread at a stopping point enters the
save vector without a record, noting its depth; once every thread has saved the gang freezes, a mill closes at drain counter 0 and
leaves its core with what R364 keeps, its image in an area of the save pool under its engagement's lowest key-ID; a wheel past the save limit puts
its mill in error; a restore renews the budget, gives the area back zeroed and enters the restore vector with the window pending. That the whole
restore waits for a page is the model's choice (log 37), as are the area's lowest place, its length, what its bytes are and the wait for room
(log 54). -/
def Obligations.GangsAreSavedAndRestored : Prop :=
  (∀ (s : State) (uid sub : Nat) (g : Gang), s.gang? uid = some g →
    let held := ∃ m ∈ g.mills.filterMap s.mill?, ∃ w ∈ m.wheels, ∃ t ∈ w.threads, t.halted = true ∨ t.haltDue = true
    let asked := s.modGang uid fun g => if g.save = none then { g with save := some ⟨0x21, BitVec.ofNat 8 sub, false⟩ } else g
    let cores := (g.mills.filterMap s.mill?).filterMap fun m => if m.st = .running ∨ m.st = .draining then some m.core else none
    (g.st ≠ .resident ∨ g.restoring = true ∨ sub > 1 ∨ held → exec (.preemptRequest uid sub) s = .next s) ∧
    (g.st = .resident → g.restoring = false → ¬ held → sub = 1 → exec (.preemptRequest uid sub) s = .next asked) ∧
    (g.st = .resident → g.restoring = false → ¬ held → sub = 0 → ∃ t, exec (.preemptRequest uid sub) s = .next t ∧
      { t with board := s.board } = asked ∧ { t.board with vacated := s.board.vacated } = s.board ∧
      ∀ c, c ∈ t.board.vacated ↔ c ∈ s.board.vacated ∨ c ∈ cores)) ∧
  (∀ (s : State) (a : Agent) (l : Nat) (q : SaveReq) (hpc : DWord), s.saving a = some q → l < (s.threads a).length →
    let t := s.thread a l
    (q.frozen = true ∨ t.exited = true ∨ t.stopped = true ∨ t.saveDepth ≠ none ∨ t.due ≠ none ∨
      (t.clause ≠ none ∧ t.blocked = false ∧ t.waiting = false) ∨ (∃ x ∈ (s.fences a).slots, x ≠ none) ∨
      (∃ r ∈ s.reqs, ∃ x ∈ r.threads, x.1.same a = true ∧ x.2.1 = l) → exec (.saveVectorEntry a l) s = .next s) ∧
    (q.frozen = false → t.exited = false → t.stopped = false → t.saveDepth = none → t.due = none → t.clause = none ∨ t.blocked = true →
      t.waiting = false → (∀ x ∈ (s.fences a).slots, x = none) → (∀ r ∈ s.reqs, ∀ x ∈ r.threads, ¬ (x.1.same a = true ∧ x.2.1 = l)) →
      s.CanEnter a l q.cls.toNat hpc → t.long = [] → (s.wheel? a).isSome → ∃ u, exec (.saveVectorEntry a l) s = .next u ∧ u.mem = s.mem ∧
        u.posted = s.posted ∧ (u.thread a l).pc = hpc ∧ (u.thread a l).clause = none ∧ (u.thread a l).depth = t.depth + 1 ∧
        (u.thread a l).saveDepth = some (t.depth + 1) ∧ (u.thread a l).lastRec = t.lastRec ∧ (u.thread a l).recCount = t.recCount ∧
        (u.thread a l).sys = { t.sys with tpc := t.pc, tcause := t.causeWord q.cls.toNat q.sub.toNat } ∧
        (u.wheel? a).map (·.saveFrom) = (s.wheel? a).map (fun w => some (w.saveFrom.getD s.clk)) ∧
        ∀ k, k ≠ l → (u.thread a k).kept = (s.thread a k).kept)) ∧
  (∀ (s : State) (uid : Nat) (g : Gang) (q : SaveReq), s.gang? uid = some g → g.save = some q →
    let saved := ∀ m ∈ g.mills.filterMap s.mill?, m.st = .running → ∀ w ∈ m.wheels, ∀ t ∈ w.threads, t.exited = true ∨ t.saveDone = true
    (saved → exec (.saveFreeze uid) s = .next (s.modGang uid fun g => { g with save := some { q with frozen := true } })) ∧
    (¬ saved → exec (.saveFreeze uid) s = .next s)) ∧
  (∀ (s : State) (uid : Nat) (m : Mill), s.mill? uid = some m →
    let frozen := ∃ g q, s.gang? m.gang = some g ∧ g.save = some q ∧ q.frozen = true
    -- its scratchpad's writes and its flume's elements have performed
    let quiet := s.drainOf uid = 0 ∧ ∀ p ∈ s.posted, p.mill = some uid → p.rd = 0 → p.bad = none → p.settled = none →
      padOf p.key ≠ some uid ∧ p.owner ≠ .wheel uid 255
    (m.st = .running → frozen → quiet → exec (.saveClose uid) s = .next (s.modMill uid fun m => { m with closed := true })) ∧
    (m.st ≠ .running ∨ ¬ frozen ∨ ¬ quiet → exec (.saveClose uid) s = .next s) ∧
    -- with no room in the partition's save pool the step waits (the model's choice, log 54)
    (∀ gr, s.gridOfMill uid = some gr → s.takeArea gr.part ((m.scratch + m.acc) * 1024 + 2 ^ 17) = none → exec (.saveImage uid) s = .next s) ∧
    (∀ gr e base, m.st = .running → m.closed = true → frozen → (∀ c ∈ m.ctxs, ∀ w ∈ c.walks, w.busy = false) →
      s.gridOfMill uid = some gr → s.engOf gr.part gr.lr.eng = some e → s.takeArea gr.part ((m.scratch + m.acc) * 1024 + 2 ^ 17) = some base →
      let n := (m.scratch + m.acc) * 1024 + 2 ^ 17
      -- the operations of the schedule, from the first on, that the stage has released
      let rel := fun (e : FlEntry) => if m.flume.stage.toNat < e.stage then 0 else if e.sstep = 0 then e.reps
        else min e.reps ((m.flume.stage.toNat - e.stage) / e.sstep + 1)
      let full := fun (e : FlEntry) => rel e == e.reps
      ∃ t m', exec (.saveImage uid) s = .next t ∧ t.mill? uid = some m' ∧
        (∀ a, memGet t.mem a = if base ≤ a ∧ a < base + n then 0 else memGet s.mem a) ∧ (base % 64 = 0 → keyed (base + n) = true → t.poisoned base n = false) ∧
        (gr.part < s.parts.length → ∃ e', t.engOf gr.part gr.lr.eng = some e' ∧ (base, n) ∈ e'.saves ∧ { e' with saves := e.saves } = e) ∧
        (∀ kid, (kid ∈ e.kids ∧ ∀ k ∈ e.kids, kid ≤ k) → (t.part gr.part).monitors = ((s.monitorAll base n kid true).part gr.part).monitors) ∧
        (e.kids ≠ [] → ∃ kid ∈ e.kids, (∀ k ∈ e.kids, kid ≤ k) ∧ ∀ i < n / 16, sget 0 t.lineKeys (base / 16 + i) = s.kidGen kid) ∧
        (∀ k ≠ uid, t.mill? k = s.mill? k) ∧ t.posted = s.posted.filter (fun p => !(p.rd != 0 && p.mill == some uid)) ∧
        (∀ g, s.gang? m.gang = some g → t.gang? m.gang = some (if ∃ x ∈ g.mills.filterMap t.mill?, x.st = .running then g else
          { g with st := .evicted, save := none, order := s.fresh, age := 0, starve := 0, yield := false })) ∧
        m' = { m with
          st := .evicted
          wheels := m.wheels.map fun w => { w with
            threads := w.threads.map fun t => { t with
              clause := none, stack := [], latch := List.replicate 3 ⟨0, 0, false⟩, long := [], loopBuf := [], bufMode := false,
              regPoison := [], refused := [], blocked := false, armed := none, due := none }
            fences := ⟨[none, none, none, none], w.fences.gen, none⟩, paused := 0, saveFrom := none, posting := none }
          area := some (base, n), behind := []
          ctxs := m.ctxs.map fun c => { c with walks := c.walks.map fun w =>
            if w.onCtx then { w with again := some w.st, st := .queued, post := 0 } else w }
          flume := { m.flume with resume := max (m.flume.next - 1) (((gr.sched.takeWhile full).map fun e => e.reps).sum +
            ((gr.sched.dropWhile full).head?.map rel).getD 0) } })) ∧
  (∀ (s : State) (part n b : Nat), s.takeArea part n = some b → b + n ≤ (s.part part).saveBase.toNat + (s.part part).saveSize.toNat ∧
    ∀ m ∈ s.mills, ∀ gr lo len, m.st ≠ .freed → s.gridOfMill m.uid = some gr → gr.part = part → m.area = some (lo, len) →
      b + n ≤ lo ∨ lo + len ≤ b) ∧
  (∀ (s : State) (uid w : Nat) (x : Wheel) (q : SaveReq) (t0 : Nat), s.wheel? (.wheel uid w) = some x → s.saving (.wheel uid w) = some q →
    x.saveFrom = some t0 →
    let late := (∃ t ∈ x.threads, t.exited = false ∧ t.saveDone = false) ∧ s.clk - t0 ≥ 262144
    (late → exec (.saveTimeout uid w) s = .next (s.millError uid (s.mkRec (.wheel uid w) 0 { cls := 0x21, sub := 2 } 0 0))) ∧
    (¬ late → exec (.saveTimeout uid w) s = .next s)) ∧
  (∀ (s : State) (uid : Nat) (g : Gang) (gr : Grid) (s2 : State), s.gang? uid = some g → s.grid? g.grid = some gr →
    let s1 := ((s.resident g).foldl (fun s m => ((s.openArea m).requeue m.uid).modMill m.uid fun m =>
      { m with bud := if gr.lr.budget = 0 then 800000 else gr.lr.budget, closed := false, area := none }) s).landInbox
    (g.restoring = false → exec (.restore uid) s = .next s) ∧
    (g.restoring = true → s1.restoreAll (s1.savedThreads g) = .ok s2 →
      exec (.restore uid) s = .next (s2.modGang uid fun g => { g with restoring := false }))) ∧
  -- the area that is read again counts, and is zero before other use
  (∀ (s : State) (m : Mill), (m.area = none → s.openArea m = s) ∧ ∀ lo n, m.area = some (lo, n) →
    { s.openArea m with mem := s.mem, lineKeys := s.lineKeys, poison := s.poison, parts := s.parts } = s ∧
    (∀ a, memGet (s.openArea m).mem a = if lo ≤ a ∧ a < lo + n then 0 else memGet s.mem a) ∧
    ∀ gr e kid, s.gridOfMill m.uid = some gr → s.engOf gr.part gr.lr.eng = some e → (kid ∈ e.kids ∧ ∀ k ∈ e.kids, kid ≤ k) →
      (s.openArea m).parts = (s.monitorAll lo n kid false).parts) ∧
  ∀ (s : State) (a : Agent) (l : Nat) (hpc : DWord) (h : Header) (v : State), l < (s.threads a).length →
    let u := s.modThread a l fun t =>
      { t with winPending := true, low := t.depth, saveDepth := none, saveDone := false, clause := none, entryDue := true }
    u.vector a l 0x22 = .ok (some hpc, v) → v.fetchHeader a l hpc = .ok h →
      s.restoreThread a l = .ok ((v.keepFetch a l hpc).modThread a l fun t => { t with pc := hpc, restAt := some t.depth })

/-- R369, R370, R404: a debugger claims breakpoints and addresses; a halt stops the threads of a wheel that are at a header and the others at their
next one, and latches a snapshot; a freeze stops a mill's wheels at headers and its engines; a resumed thread goes on where it stopped;
a frozen mill whose threads have all stopped can be read whole. That a resume also ends the freeze of its mill, and that a debugger's halt latches the
snapshot, are the model's choices (log 36). -/
def Obligations.TheDebuggerHaltsFreezesReadsAndResumes : Prop :=
  ∀ (s : State) (uid : Nat) (m : Mill), s.mill? uid = some m →
    let able := m.st = .running ∧ ∃ g, s.gang? m.gang = some g ∧ g.restoring = false ∧ g.save = none
    -- a thread stops where it stands at a header, and is to stop at its next one elsewhere
    let halt := fun (t : Thread) => if t.exited = true ∨ t.halted = true then t
      else if t.clause = none then { t with halted := true, haltDue := false } else { t with haltDue := true }
    let stands := fun (t : Thread) => t.halted = true ∨ t.haltDue = true ∧ (t.clause = none ∨ t.blocked = true ∨ t.waiting = true)
    (∀ on, exec (.breakpointClaim uid (.breakpoints on)) s = .next (s.modMill uid fun m => { m with claimed := on })) ∧
    (∀ pc, ∃ t, exec (.breakpointClaim uid (.address true pc)) s = .next t ∧ { t with watch := s.watch } = s ∧
      ∀ x, x ∈ t.watch ↔ x ∈ s.watch ∨ x = (uid, pc)) ∧
    (∀ pc, ∃ t, exec (.breakpointClaim uid (.address false pc)) s = .next t ∧ { t with watch := s.watch } = s ∧
      ∀ x, x ∈ t.watch ↔ x ∈ s.watch ∧ x ≠ (uid, pc)) ∧
    (∀ w lane, let a := Agent.wheel uid w
      (¬ able ∨ (s.thread a lane).exited = true → exec (.debugHalt a lane) s = .next s) ∧
      (able → (s.thread a lane).exited = false → ∃ u : State, exec (.debugHalt a lane) s = .next u.latch ∧
        (∀ k, k < (s.threads a).length → (u.thread a k).halted = (halt (s.thread a k)).halted ∧
          (u.thread a k).haltDue = (halt (s.thread a k)).haltDue ∧ (u.thread a k).pc = (s.thread a k).pc) ∧
        -- a thread with nothing in flight is as it was but for that
        ((∀ k, (s.thread a k).long = []) → u.mem = s.mem ∧ u.posted = s.posted ∧
          ∀ k, k < (s.threads a).length → u.thread a k = halt (s.thread a k)))) ∧
    (¬ able → exec (.debugFreeze uid) s = .next s) ∧
    (able → ∃ t m', exec (.debugFreeze uid) s = .next t ∧ t.mill? uid = some m' ∧ m'.frozen = true ∧
      (∀ w l, (w < m.wheels.length) → l < (s.threads (.wheel uid w)).length →
        (t.thread (.wheel uid w) l).halted = (halt (s.thread (.wheel uid w) l)).halted ∧
        (t.thread (.wheel uid w) l).haltDue = (halt (s.thread (.wheel uid w) l)).haltDue) ∧
      ((∀ w ∈ m.wheels, ∀ t ∈ w.threads, t.long = []) → t.mem = s.mem ∧ t.posted = s.posted ∧ (∀ k ≠ uid, t.mill? k = s.mill? k) ∧
        m'.wheels = m.wheels.map fun w => { w with threads := w.threads.map halt })) ∧
    (∀ w lane, let a := Agent.wheel uid w
      let t := s.thread a lane
      (t.halted = false ∧ t.haltDue = false → exec (.debugResume a lane) s = .next s) ∧
      (t.halted = true ∨ t.haltDue = true →
        let u := (s.modThread a lane fun t =>
          { t with halted := false, haltDue := false, resumed := some t.pc }).modMill uid fun m => { m with frozen := false }
        -- it counts as waiting again: the last of those that wait at syncw releases them all (R193)
        let all := (∃ x ∈ u.threads a, x.waiting = true) ∧ ∀ x ∈ u.threads a, x.exited = true ∨ x.waiting = true ∧ x.halted = false
        (¬ all → exec (.debugResume a lane) s = .next u) ∧
        (all → exec (.debugResume a lane) s = .next (u.modWheel a fun w =>
          { w with threads := w.threads.map fun x => { x with waiting := false } })))) ∧
    -- no lane that could issue next is on its way
    let stopped := m.frozen = true ∧ (∀ w < m.wheels.length, (∀ l ∈ s.group (.wheel uid w), stands (s.thread (.wheel uid w) l)) ∧
      ∀ l ∈ s.group (.buf uid w), stands (s.thread (.buf uid w) l)) ∧ ∀ c ∈ m.ctxs, ∀ w ∈ c.walks, w.busy = false
    (¬ stopped → exec (.debugRead uid) s = .next s) ∧
    (stopped → ∃ t, exec (.debugRead uid) s = .next t ∧ { t with debugOut := s.debugOut } = s ∧
      (∀ w x, m.wheels[w]? = some x → ∀ l < x.threads.length, let t' := s.thread (.wheel uid w) l
        stands t' → t'.pc ∈ t.debugOut ∧ (∀ n < 32, (t'.getV n).setWidth 64 ∈ t.debugOut) ∧ t'.guards.setWidth 64 ∈ t.debugOut ∧
          (∀ e ∈ t'.latch.zipIdx, BitVec.ofNat 64 (e.1.val.toNat + if t'.latchOk e.2 then 2 ^ 32 else 0) ∈ t.debugOut) ∧
          -- the completion flags that instructions in flight hold
          BitVec.ofNat 64 ((List.range 12).map fun i => if ∃ o ∈ t'.long, o.flag = some i then 2 ^ i else 0).sum ∈ t.debugOut ∧
          ∀ i v, i < 15 → s.sysGet (.wheel uid w) l i = some v → v ∈ t.debugOut) ∧ (∀ n < 64, (sget 0 m.sregs n).setWidth 64 ∈ t.debugOut) ∧
      m.flume.stage.setWidth 64 ∈ t.debugOut ∧ ∀ q ∈ s.queues, BitVec.ofNat 64 q.2.head ∈ t.debugOut)

/-! ### The sluice and the flume -/

/-- R161, R265-R271: of the satisfiable patterns the aged ones fire first, then the highest PRIO, then the lowest number: the head messages
leave the ports into v0-v7 of the lowest free handler wheel; the instance begins once its stamped accesses have performed and retires
when its threads have ended, releasing the wheel, its claims and the live count. That the threads of a frozen mill's new instance start halted is
the model's choice (log 36). -/
def Obligations.PatternsFireAndHandlersRetire : Prop :=
  (∀ (s : State) (uid : Nat) (m : Mill) (g : Grid) (h : Gang), s.mill? uid = some m → s.gridOfMill uid = some g → s.gang? m.gang = some h →
    let runs := m.st = .running ∧ m.aborted = false ∧ h.save = none ∧ h.restoring = false
    let ports := fun (p : Pattern) => (List.range 32).filter fun i => p.entry.getLsbD i
    let isFree := fun (w : Nat) => ∃ x, m.wheels[w]? = some x ∧ x.handler = true ∧ x.inst = none
    let sat := fun (n : Nat) => ∃ p, m.pats[n]? = some p ∧ p.entry.getLsbD 40 = true ∧ p.live < p.entry.toNat / 2 ^ 36 % 16 + 1 ∧
      (∀ i ∈ ports p, ∃ q, m.ports[i]? = some q ∧ q.fifo ≠ []) ∧ ∃ w, isFree w
    let rank := fun (p : Pattern) => (if p.age ≥ 256 then 16 else 0) + p.entry.toNat / 2 ^ 32 % 16
    (¬ runs → exec (.patternFire uid) s = .next s) ∧ ((∀ n, ¬ sat n) → exec (.patternFire uid) s = .next s) ∧
    (∀ n p w, runs → sat n → m.pats[n]? = some p → (∀ k q, sat k → m.pats[k]? = some q → rank q < rank p ∨ rank q = rank p ∧ n ≤ k) →
      isFree w → (∀ v < w, ¬ isFree v) →
      let msgs := (ports p).map fun i => ((m.ports.getD i Port.default).fifo.headD ⟨0, []⟩)
      ∃ t m', exec (.patternFire uid) s = .next t ∧ { t with mills := s.mills } = s ∧ t.mill? uid = some m' ∧ (∀ k ≠ uid, t.mill? k = s.mill? k) ∧
        { m' with ports := m.ports, pats := m.pats, wheels := m.wheels } = m ∧
        (∀ i, m'.ports[i]? = m.ports[i]?.map fun q => if i ∈ ports p then { q with fifo := q.fifo.drop 1 } else q) ∧
        (∀ k q, m.pats[k]? = some q → (k = n → m'.pats[k]? = some { q with live := q.live + 1, age := 0 }) ∧
          (k ≠ n → sat k → m'.pats[k]? = some { q with age := min (q.age + 1) 256 }) ∧ (¬ sat k → m'.pats[k]? = some q)) ∧
        (∀ v ≠ w, m'.wheels[v]? = m.wheels[v]?) ∧
        ∃ x, m'.wheels[w]? = some x ∧ x.inst = some ⟨n, (msgs.map (·.stamps)).flatten, false⟩ ∧ x.paused = 0 ∧ x.threads.length = 32 ∧
          ∀ l < 32, ∃ u, x.threads[l]? = some u ∧ u.pc = p.entry.extractLsb' 64 64 ∧ u.hpat = n ∧ u.exited = false ∧ u.halted = m.frozen ∧ u.clause = none ∧
            u.sys = g.lr.sys h.num m.f2 w l ∧ u.depth = 0 ∧
            (∀ i, i < msgs.length → u.getV (2 * i) = ((msgs.getD i ⟨0, []⟩).val.setWidth 32) ∧
              u.getV (2 * i + 1) = (((msgs.getD i ⟨0, []⟩).val >>> 32).setWidth 32)) ∧
            ∀ k, 2 * msgs.length ≤ k → u.getV k = 0)) ∧
  ∀ (s : State) (uid w : Nat) (x : Wheel) (i : Instance), s.wheel? (.wheel uid w) = some x → x.inst = some i →
    let shown := ∀ y ∈ i.stamps, ∀ p, s.posted? y.1 = some p → s.doneFor p (.wheel uid 0) y.2 = true
    let ended := ∀ t ∈ x.threads, t.exited = true ∧ t.long = []
    (¬ shown → exec (.handlerWheelStart uid w) s = .next s) ∧
    (shown → exec (.handlerWheelStart uid w) s =
      .next ({ s with posted := s.posted.map fun (p : Posted) => ({ p with readers := (p.readers.filter fun (r : Agent × Nat × Option AccSet) => !r.1.same (.wheel uid w)) ++
        -- its threads know the writes that it was handed (R234, R240)
        (if p.id ∈ i.stamps.map Prod.fst ∧ p.rd = 0 then (List.range 32).map fun l => (Agent.wheel uid w, l, none) else []) } : Posted) }.modWheel
          (.wheel uid w) fun x => { x with inst := some { i with stamps := [], begun := true } })) ∧
    (¬ ended → exec (.handlerRetire uid w) s = .next s) ∧
    (ended → ∃ t, exec (.handlerRetire uid w) s = .next t ∧ { t with mills := s.mills, posted := s.posted } = s ∧
      t.mills = (s.mills.map fun m => if m.uid = uid then { m with
        wheels := modAt m.wheels w fun x => { x with inst := none }
        pats := modAt m.pats i.pat fun p => { p with live := p.live - 1 }
        claims := m.claims.filter fun c => c.2 != w + 1 } else m) ∧
      t.posted = s.posted.map fun p => if p.owner.same (.wheel uid w) = true ∧ p.held = none then
        { p with held := some ((s.thread (.wheel uid w) p.lane).sys.frp, (s.thread (.wheel uid w) p.lane).recCount) } else p)

/-- R242, R283, R285-R288, R291, R293: the next operation in number order starts once its stage is released and a place is free; an element is
read and written at the addresses of its kind, and one that fails halts the context; a notice goes out in number order once its
operation's transfers are over; a complete operation raises the timeline over all that are complete. That the lowest failed operation names the halt,
that an index and a bit of the mask are read once, and that the halves of 16 bytes come in either order, are the model's choices (log 33). -/
def Obligations.TheFlumeIssuesMovesNotifiesAndCompletes : Prop :=
  (∀ (s : State) (uid : Nat) (m : Mill), s.mill? uid = some m → 1 ≤ m.flume.next →
    let runs := (m.st = .running ∨ m.st = .draining) ∧ m.aborted = false ∧ s.enginesFrozen m = false
    let sched := s.schedOf uid
    let first := fun (i : Nat) => 1 + ((sched.take i).map fun e => if e.rep = 0 then 1 else e.rep).sum
    let held := m.flume.resume < m.flume.next ∧ ∃ o ∈ m.flume.ops, o.num ≤ m.flume.resume ∧ ∃ e, sched[o.entry]? = some e ∧ s.opMoved uid o e = false
    let mayStart := fun (i r : Nat) (e : FlEntry) => runs ∧ sched[i]? = some e ∧ r < (if e.rep = 0 then 1 else e.rep) ∧ m.flume.next = first i + r ∧
      e.stage + r * e.sstep ≤ m.flume.stage.toNat ∧ m.flume.halt = none ∧ m.flume.ops.length < 16 ∧ ¬ held
    (∀ i r e, mayStart i r e → exec (.flumeIssue uid) s = .next (s.modMill uid fun m => { m with flume := { m.flume with
      next := m.flume.next + 1, ops := m.flume.ops ++ [⟨m.flume.next, i, r, [], false, false, [], [], []⟩] } })) ∧
    ((∀ i r e, ¬ mayStart i r e) → exec (.flumeIssue uid) s = .next s) ∧
    (∀ n t o e, m.flume.ops.find? (·.num == n) = some o → sched[o.entry]? = some e →
      (¬ runs ∨ o.failed = true ∨ t ≥ e.n0 * e.n1 ∨ t ∈ o.done ∨ s.asking (.wheel uid 255) n = true → exec (.flumeElement uid n t) s = .next s) ∧
      (runs → o.failed = false → t < e.n0 * e.n1 → t ∉ o.done → s.asking (.wheel uid 255) n = false →
        -- what the operation has read of its index list, its bitmask and its halves stays with it
        (∀ u o' all, s.elemRun m o e t = .ok (u, o', all) → exec (.flumeElement uid n t) s = .next (u.modMill uid fun m => { m with flume := { m.flume with
          ops := m.flume.ops.map fun q => if q.num = n then { q with
            rows := o'.rows, mask := o'.mask, halves := o'.halves, done := if all = true then insertNat t q.done else q.done } else q } })) ∧
        (∀ fi, s.elemRun m o e t = .error (.fault fi) → exec (.flumeElement uid n t) s = .next (s.flumeHalt uid o fi)) ∧
        (∀ root page fi, s.elemRun m o e t = .error (.absent root page fi) →
          exec (.flumeElement uid n t) s = .next (s.addRequest (.wheel uid 255) n root page fi)))) ∧
    (∀ n o e, m.flume.ops.find? (·.num == n) = some o → sched[o.entry]? = some e → s.opBad uid n = none →
      let noticed := (e.note.getLsbD 7 = true ∧ ∀ h, m.flume.halt = some h → o.num < h.1) → o.noticed = true
      (s.opMoved uid o e = false ∨ ¬ noticed → exec (.flumeOpComplete uid n) s = .next s) ∧
      (s.opMoved uid o e = true → noticed → ∃ t m', exec (.flumeOpComplete uid n) s = .next t ∧ { t with mills := s.mills } = s ∧
        t.mill? uid = some m' ∧ (∀ k ≠ uid, t.mill? k = s.mill? k) ∧ { m' with flume := m.flume } = m ∧
        let f' := m'.flume
        { f' with timeline := m.flume.timeline, doneOps := m.flume.doneOps, ops := m.flume.ops } = m.flume ∧
        f'.ops = m.flume.ops.filter (·.num != n) ∧
        let done := fun (k : Nat) => k = n ∨ k ∈ m.flume.doneOps
        m.flume.timeline ≤ f'.timeline ∧ (∀ k, m.flume.timeline < k → k ≤ f'.timeline → done k) ∧ ¬ done (f'.timeline + 1) ∧
        ∀ k, f'.timeline < k → (k ∈ f'.doneOps ↔ done k))) ∧
    (¬ runs → exec (.flumeNotice uid) s = .next s) ∧
    (∀ o e, runs → s.noticeOp m = some (o, e) →
      let sent := fun (t : State) => t.modMill uid fun m => { m with flume := { m.flume with
        ops := m.flume.ops.map fun q => if q.num = o.num then { q with noticed := true } else q } }
      let c := e.note.toNat / 32 % 2
      let port := e.note.toNat % 32
      (s.opMoved uid o e = false → exec (.flumeNotice uid) s = .next s) ∧
      (s.opMoved uid o e = true → e.note.getLsbD 6 = true →
        (m.walking c = true → exec (.flumeNotice uid) s = .next (sent (s.modMill uid fun m => { m with
          ctxs := modAt m.ctxs c fun x => { x with input := x.input ++ [⟨BitVec.ofNat 64 (4 * 2 ^ 60 + c * 2 ^ 59 +
            e.note.toNat % 2 * 2 ^ 58 + (e.nslot + o.rep) % 256 * 2 ^ 16), []⟩] } }))) ∧
        (m.walking c = false → exec (.flumeNotice uid) s = .next (s.flumeHalt uid o { cls := 0x13, sub := 11 }))) ∧
      (s.opMoved uid o e = true → e.note.getLsbD 6 = false → ∀ p, m.ports[port]? = some p →
        (p.fifo.length < p.depth → exec (.flumeNotice uid) s = .next (sent (s.modMill uid fun m => { m with
          ports := modAt m.ports port fun p => { p with fifo := p.fifo ++ [⟨BitVec.ofNat 64 (7 * 2 ^ 60 + o.rep * 2 ^ 32 + o.entry),
            -- whoever takes it learns of the operation's writes
            (s.posted.filter fun p => p.owner == .wheel uid 255 && p.lane == o.num).map fun p => (p.id, if e.kind = 4 then .gang else .mill)⟩] } }))) ∧
        (p.depth ≤ p.fifo.length → exec (.flumeNotice uid) s = .next s)))) ∧
  -- an operation that fails halts the context under the lowest number that has failed
  (∀ (s : State) (uid : Nat) (o : FlOp) (fi : FaultInfo) (m : Mill), s.mill? uid = some m →
    ∃ m', (s.flumeHalt uid o fi).mill? uid = some m' ∧ m'.engCount = m.engCount + 1 ∧ m'.lastEng.cls = BitVec.ofNat 8 fi.cls ∧
      m'.lastEng.sub = BitVec.ofNat 8 fi.sub ∧ m'.lastEng.va = fi.va ∧ m'.lastEng.info0 = BitVec.ofNat 64 o.entry ∧
      m'.lastEng.seq = BitVec.ofNat 64 o.num ∧ (∀ q ∈ m'.flume.ops, q.num = o.num → q.failed = true) ∧
      m'.flume.halt = some (match m.flume.halt with
        | some h => if o.num < h.1 then (o.num, o.entry) else h
        | none => (o.num, o.entry))) ∧
  (∀ (s : State) (m : Mill) (o : FlOp) (e : FlEntry), s.noticeOp m = some (o, e) → o ∈ m.flume.ops ∧ (s.schedOf m.uid)[o.entry]? = some e ∧
    e.note.getLsbD 7 = true ∧ o.noticed = false ∧ ∀ h, m.flume.halt = some h → o.num < h.1) ∧
  -- a page refused to an operation fails that operation's accesses alone
  (∀ (f : Flume) (op page : Nat), page ∈ f.refusedTo op ↔ (op, page) ∈ f.refused) ∧
  -- where an element is read and written: a row's index is read once, and each bit of the bitmask once
  (∀ (s : State) (uid : Nat) (refused : List Nat) (o : FlOp) (e : FlEntry) (t : Nat), 0 < e.n0 →
    let r : Nat := t / e.n0
    let c : Int := (t % e.n0 : Nat) * (2 ^ e.esz : Nat)
    let src : Int := tagAddr e.src + o.rep * e.rsrc
    let dst : Int := tagAddr e.dst + o.rep * e.rdst
    (e.kind = 0 ∨ e.kind = 4 → s.readFor uid refused e o t = .ok o ∧ o.place e t = ⟨some (src + r * e.src1 + c), dst + r * e.dst1 + c, false⟩) ∧
    (∀ j bad, e.kind = 1 ∨ e.kind = 2 → o.rows.find? (·.1 == r) = some (r, j, bad) → s.readFor uid refused e o t = .ok o ∧
      o.place e t = if e.kind = 1 then ⟨some (src + j * e.src1 + c), dst + r * e.dst1 + c, bad⟩
        else ⟨some (src + r * e.src1 + c), dst + j * e.dst1 + c, bad⟩) ∧
    (∀ bs bad ps, e.kind = 1 ∨ e.kind = 2 → o.rows.find? (·.1 == r) = none →
      s.engRead uid o.num refused .sp (e.aux + 4 * (o.rep * e.n1 + r)) 4 4 = .ok (bs, bad, ps) →
      s.readFor uid refused e o t = .ok { o with rows := o.rows ++ [(r, natOfBytes bs, bad)] }) ∧
    (e.kind = 3 → t < o.mask.length → s.readFor uid refused e o t = .ok o ∧
      o.place e t = ⟨if (o.mask.getD t (false, false)).1 then some (src + ((o.mask.take t).filter (·.1)).length * (2 ^ e.esz : Nat)) else none,
        dst + r * e.dst1 + c, (o.mask.getD t (false, false)).2⟩) ∧
    (∀ bs bad ps, e.kind = 3 → o.mask.length = t →
      s.engRead uid o.num refused .sp (e.aux + o.rep * ((e.n0 * e.n1 + 7) / 8) + t / 8) 1 1 = .ok (bs, bad, ps) →
      s.readFor uid refused e o t = .ok { o with mask := o.mask ++ [((bs.getD 0 0).getLsbD (t % 8), bad)] })) ∧
  -- an element of 16 bytes is read as two halves at moments of their own
  (∀ (s : State) (m : Mill) (o : FlOp) (e : FlEntry) (t : Nat) (a : Int),
    let rd := s.engRead m.uid o.num (m.flume.refusedTo o.num) (tagSpace e.src)
    (∀ v, e.esz < 4 → rd a (2 ^ e.esz) (2 ^ e.esz) = .ok v → s.elemRead m o e t a = .ok (o, some v)) ∧
    (e.esz = 4 → ∀ ps, s.engPieces m.uid (m.flume.refusedTo o.num) .engRead (tagSpace e.src) a 16 16 = .ok ps →
      let up := s.pick 3 t ≠ 0
      (∀ bs bad rs, o.halves.find? (·.1 == t) = none → rd (if up then a + 8 else a) 8 8 = .ok (bs, bad, rs) →
        ∃ h, s.elemRead m o e t a = .ok ({ o with halves := o.halves ++ [(t, h, bad)] }, none) ∧ h = (if up then [1] else [0]) ++ bs) ∧
      (∀ u h bad bs bad' rs, o.halves.find? (·.1 == t) = some (t, u :: h, bad) → rd (if u = 1 then a else a + 8) 8 8 = .ok (bs, bad', rs) →
        s.elemRead m o e t a = .ok (o, some (if u = 1 then bs ++ h else h ++ bs, bad || bad', rs))))) ∧
  -- a whole element is posted at its destination's pieces, in parts of 8 bytes at most
  ∀ (s : State) (m : Mill) (o o' q : FlOp) (e : FlEntry) (t : Nat) (bs : List Byte) (bad : Bool) (rs ws : List Piece),
    s.readFor m.uid (m.flume.refusedTo o.num) e o t = .ok o' → e.kind ≠ 4 →
    let p := o'.place e t
    (match p.src with
      | none => q = o' ∧ bs = List.replicate (2 ^ e.esz) 0 ∧ bad = false ∧ rs = []
      | some a => s.elemRead m o' e t a = .ok (q, some (bs, bad, rs))) →
    s.elemCheck m o.num e p.dst m.uid = .ok ws → (bad || p.marked) = false → (∀ p ∈ ws, p.tier ≠ 3 ∧ p.off + p.len ≤ bs.length) →
    let g := min (2 ^ e.esz) 8
    ∃ u, s.elemRun m o e t = .ok (u, q, true) ∧ u.mem = s.mem ∧
      u.posted.map (fun p => (p.key, p.bytes, p.owner, p.lane)) = s.posted.map (fun p => (p.key, p.bytes, p.owner, p.lane)) ++
        (ws.map fun p => (List.range ((p.len + g - 1) / g)).map fun i =>
          (p.key + g * i, ((bs.drop p.off).take p.len).drop (g * i) |>.take g, Agent.wheel m.uid 255, q.num)).flatten

/-! ### The walk engine -/

/-- R305-R307, R309-R314, R316, R323: the oldest queued walk of a context starts when its context is free and its regions overlap
no running walk's; a k-step begins when its operands and its accumulator slot are there, nothing is in the array, it is the context's turn
and the cluster has a power token, and its end rounds once per element, dense and seeded; READY and ACCFREE move the slot they name, and any other
halts the walk with the message in the record. Whose turn the array is while both contexts could go on, when the token is held and the marks of
rows are the model's choices (log 34), as are the end of the burst that gives the token back and when the list is read (log 53).
And R334-R336: the step of a seeded k-step, with the column's scale. -/
def Obligations.TheWalkEngineStepsThroughItsPairs : Prop :=
  (∀ (s : State) (uid c : Nat) (m : Mill), s.mill? uid = some m →
    let runs := m.st = .running ∧ m.aborted = false ∧ s.enginesFrozen m = false
    (¬ runs → exec (.walkStart uid c) s = .next s) ∧
    ∀ w, runs → s.oldest m.core c = some (uid, w) → (∀ p ∈ s.coreWalks m.core, p.2.ctx = c → p.2.onCtx = false) →
      (((∀ x ∈ m.ctxs, ∀ v ∈ x.walks, v.onCtx = true → ∀ p ∈ v.rc.regions, ∀ q ∈ w.rc.regions, regionsMeet p q = false) →
        exec (.walkStart uid c) s =
          .next ((s.modWalk uid c w.num fun w => { w with st := w.again.getD .running, again := none }).walkPump uid c)) ∧
      ((∃ x ∈ m.ctxs, ∃ v ∈ x.walks, v.onCtx = true ∧ ∃ p ∈ v.rc.regions, ∃ q ∈ w.rc.regions, regionsMeet p q = true) →
        exec (.walkStart uid c) s = .next (s.walkPump uid c)))) ∧
  (∀ (s : State) (core c u : Nat) (w : Walk), s.oldest core c = some (u, w) →
    (u, w) ∈ s.coreWalks core ∧ w.ctx = c ∧ w.st = .queued ∧
    ∀ p ∈ s.coreWalks core, p.2.ctx = c → p.2.st = .queued → w.post ≤ p.2.post) ∧
  (∀ (s : State) (uid c : Nat) (m : Mill) (w : Walk) (i j : Nat), (s.walkPump uid c).mill? uid = some m → m.liveWalk c = some w →
    let u := s.walkPump uid c
    let t := w.next / w.rc.ks
    let k := w.next % w.rc.ks
    w.tile? t = some (i, j) →
    let n := t % w.rc.csn
    let held := fun (l : List OpSlot) (idx : Nat) => ∃ x ∈ l, x.idx = idx ∧ x.k = k ∧ (x.st = .ready ∨ x.st = .inuse)
    let acc := ∃ y, w.cslots[n]? = some y ∧ (k = 0 → y.st = .free) ∧ (k ≠ 0 → y.st = .accumulating ∧ y.tile = t)
    -- a power token: the cluster holds one, or its die has one left
    let cluster := m.core / 8
    let token := cluster ∈ u.holders ∨ (u.holders.filter fun k => k / 13 == m.core / 104).length < (u.die (m.core / 104)).tokens
    let may := m.st = .running ∧ m.aborted = false ∧ u.enginesFrozen m = false ∧ w.st = .running ∧ w.busy = false ∧
      w.next < w.rc.tiles * w.rc.ks ∧ held w.aslots i ∧ held w.bslots j ∧ acc ∧ (∀ p ∈ u.coreWalks m.core, p.2.busy = false) ∧
      u.arrayTurn m.core c = true ∧ token
    let size := 4 * w.rc.tmRows * w.rc.tnCols
    let off := w.rc.cslot.toNat % 2 ^ 60 + n * w.rc.cSize
    -- the contents a tile starts with: what the slot holds under KEEP, zeros otherwise
    let start := if w.rc.flags.getLsbD 0 then u.padRead uid off size else List.replicate size 0
    let use := fun (idx : Nat) (x : OpSlot) => if x.st ≠ .free ∧ x.idx = idx ∧ x.k = k then { x with st := .inuse } else x
    let begun := { u.modWalk uid c w.num fun w => { w with
        aslots := w.aslots.map (use i)
        bslots := w.bslots.map (use j)
        cslots := if k = 0 then setAt w.cslots n ⟨.accumulating, t, start⟩ else w.cslots
        busy := true
        next := w.next + 1 } with
      served := sput 0 u.served m.core (1 + c)
      holders := if cluster ∈ u.holders then u.holders else u.holders ++ [cluster] }
    (¬ may → exec (.kstepBegin uid c) s = .next u) ∧
    (u.ctxReady m.core (1 - c) = none → u.arrayTurn m.core c = true) ∧
    (may → exec (.kstepBegin uid c) s = .next (if k = 0 ∧ w.rc.flags.getLsbD 0 = false then
      (begun.padWrite uid off start).modMill uid fun m =>
        { m with rowMarks := m.rowMarks.filter fun q => !(decide (q.1 < off + size ∧ off < q.1 + q.2)) } else begun))) ∧
  (∀ (s : State) (uid c : Nat) (m : Mill) (w : Walk) (i j sa sb : Nat), s.mill? uid = some m → m.liveWalk c = some w →
    m.st = .running → m.aborted = false → w.busy = true →
    let t := (w.next - 1) / w.rc.ks
    let k := (w.next - 1) % w.rc.ks
    w.tile? t = some (i, j) → slotOf w.aslots i k = some sa → slotOf w.bslots j k = some sb →
    let ended := (s.kstepWrite uid w t k i j sa sb).modWalk uid c w.num fun w =>
      let x := { w with busy := false }
      if w.st = .cancelling then x.abandon
      else if k + 1 = w.rc.ks then { x with cslots := setAt w.cslots (t % w.rc.csn) ⟨.full, t, []⟩ } else x
    -- the power token goes back with the last k-step of the cluster
    let back := if ended.mills.any fun m' => m'.core / 8 == m.core / 8 && m'.ctxs.any fun y => y.walks.any fun v => v.busy then ended
      else { ended with holders := ended.holders.filter (· != m.core / 8) }
    exec (.kstepEnd uid c) s = .next ((back.moveWindow uid c).walkPump uid c)) ∧
  -- then the operand slots that no pair of the window uses are free
  (∀ (s : State) (uid c : Nat) (w : Walk), s.liveWalk uid c = some w → w.st = .running → w.rc.order ≠ 4 →
    let free := fun (v : Walk) (isB : Bool) (x : OpSlot) => if x.st == .inuse && (v.window.all fun n => match v.tile? (n / v.rc.ks) with
        | some (i, j) => n % v.rc.ks != x.k || (if isB then j else i) != x.idx
        | none => true) then { x with st := .free } else x
    s.moveWindow uid c = s.modWalk uid c w.num fun v => { v with aslots := v.aslots.map (free v false), bslots := v.bslots.map (free v true) }) ∧
  (∀ (w : Walk) (ab bb cb : List Byte) (i j ks r c : Nat),
    let q := w.rc
    (i * q.tmRows + r ≥ q.m ∨ j * q.tnCols + c ≥ q.n → accElement w ab bb cb i j ks r c = 0) ∧
    (i * q.tmRows + r < q.m → j * q.tnCols + c < q.n → q.bfmt ≠ 8 →
      let a := fun (t : Nat) => operandAt ab q.afmt q.tk q.tmRows r t
      let b := fun (t : Nat) => operandAt bb q.bfmt q.tk q.tnCols c t
      let step := (exactSum .rne (((List.range q.tk).filter fun t => decide (ks * q.tk + t < q.k)).map fun t => mulV (a t) (b t))).1
      accElement w ab bb cb i j ks r c =
        (finish fp32 .rne false (exactSum .rne [fp32.val (fieldU cb (4 * (r * q.tnCols + c)) 4), step]).1).code)) ∧
  -- a seeded k-step: two blocks of a column, each a seed's four vectors under a record's coefficients and exponent
  (∀ (w : Walk) (ab bb cb : List Byte) (i j ks r c : Nat), i * w.rc.tmRows + r < w.rc.m → j * w.rc.tnCols + c < w.rc.n → w.rc.bfmt = 8 → w.rc.afmt ≠ 3 →
    let q := w.rc
    let field := fun (off n : Nat) => natOfBytes ((bb.drop off).take n)
    let rec' := fun (h : Nat) => field (6 * (h * q.tnCols + c)) 6
    let seed := fun (h : Nat) => rec' h % 2 ^ 24
    let coef := fun (h n : Nat) => ((BitVec.ofNat 5 (rec' h / 2 ^ (24 + 5 * n))).toInt : Int)
    -- the generator's state is 24 bits, and each step shifts its new bit in
    let next := fun (x : Nat) => (x * 2 + (x / 2 ^ 23 + x / 2 ^ 22 + x / 2 ^ 21 + x / 2 ^ 16) % 2) % 2 ^ 24
    let plus := fun (h n t : Nat) => (next^[16 * n + t + 1] (seed h)) % 2 = 1
    let act := fun (k : Nat) => if 32 * ks + k < q.k then operandAt ab q.afmt q.tk q.tmRows r k else .fin false 0 0
    let sum := fun (l : List FV) => (exactSum .rne l).1
    let vec := fun (h n : Nat) => sum ((List.range 16).map fun t => if plus h n t then act (16 * h + t) else (act (16 * h + t)).negate)
    let block := fun (h : Nat) => FV.shift (-((rec' h / 2 ^ 44 % 16 : Nat) : Int)) (sum ((List.range 4).map fun n =>
      mulV (.fin (decide (coef h n < 0)) (coef h n).natAbs 0) (vec h n)))
    let terms := ((List.range 2).filter fun h => decide (32 * ks + 16 * h < q.k ∧ seed h ≠ 0)).map block
    accElement w ab bb cb i j ks r c = (finish fp32 .rne false (exactSum .rne [fp32.val (fieldU cb (4 * (r * q.tnCols + c)) 4),
      mulV (sum terms) (bf16.val (field (12 * q.tnCols + 2 * c) 2))]).1).code) ∧
  (∀ (s : State) (uid c : Nat) (m : Mill) (v : Msg) (rest : List Msg), s.mill? uid = some m → m.st = .running → m.aborted = false →
    (m.ctx c).input = v :: rest → v.stamps.all (s.stampDone uid) = true →
    let n := v.val.toNat / 2 ^ 16 % 256
    let taken := s.modCtx uid c fun x => { x with input := x.input.drop 1 }
    -- the engine knows the accesses that a READY is stamped with (R241)
    let ids := v.stamps.map Prod.fst
    let known : State := { taken with
      posted := s.posted.map fun p => if p.id ∈ ids ∧ uid ∉ p.engines then { p with engines := uid :: p.engines } else p }
    (v.val.toNat / 2 ^ 60 = 4 → ∀ w, m.liveWalk c = some w →
      let isB := v.val.getLsbD 58
      let awaited := ∃ x, (if isB then w.bslots else w.aslots)[n]? = some x ∧ x.st = .needed
      (awaited → exec (.ready uid c) s = .next ((known.modWalk uid c w.num fun y => if isB then { y with bslots := modAt y.bslots n fun x =>
          { x with st := if y.st = .cancelling then .free else .ready } } else { y with aslots := modAt y.aslots n fun x =>
          { x with st := if y.st = .cancelling then .free else .ready } }).walkPump uid c)) ∧
      (¬ awaited → exec (.ready uid c) s = .next (s.haltWalk uid w 7 v.val))) ∧
    (v.val.toNat / 2 ^ 60 = 5 → ∀ w, m.liveWalk c = some w →
      (∀ x, w.cslots[n]? = some x → x.st = .done → exec (.accfree uid c) s = .next ((taken.takeFree uid c n x.tile w).walkPump uid c)) ∧
      ((∀ x, w.cslots[n]? = some x → x.st ≠ .done) → exec (.accfree uid c) s = .next (s.haltWalk uid w 7 v.val)))) ∧
  -- a walk that halts is over at once, its context is halted, and the record names the fault
  (∀ (s : State) (uid sub : Nat) (w : Walk) (info : DWord) (m : Mill), s.mill? uid = some m →
    ∃ m', (s.haltWalk uid w sub info).mill? uid = some m' ∧ m'.engCount = m.engCount + 1 ∧ m'.lastEng.cls = 0x12 ∧ m'.lastEng.sub = BitVec.ofNat 8 sub ∧
      m'.lastEng.pc = w.postPc ∧ m'.lastEng.info0 = info ∧
      ∀ y, m'.ctxs[w.ctx]? = some y → y.halted = true ∧ y.input = [] ∧ ∀ v ∈ y.walks, v.num = w.num → v.st = .halted) ∧
  (∀ (s : State) (uid c n tile : Nat) (w : Walk),
    let u := (s.modWalk uid c w.num fun x => { x with cslots := modAt x.cslots n fun y => { y with st := .free }, acks := x.acks + 1 }).modWalk
      uid c w.num fun x => { x with freed := insertNat tile w.freed }
    let v := u.modCtx uid c fun x => x.complete (w.base + tile + 1) (w.base + tile + 1)
    s.takeFree uid c n tile w = if w.st ≠ .cancelling ∧ (insertNat tile w.freed).length = w.rc.tiles then v.modCtx uid c fun x => x.endWalk w false
      else v) ∧
  ∀ kind ctx b hi mid slot num : Nat, kind < 16 → ctx < 2 → b < 2 → hi < 2 ^ 16 → mid < 2 ^ 16 → slot < 256 →
    let v := (walkMsg kind ctx b hi mid slot num).toNat
    v / 2 ^ 60 = kind ∧ v / 2 ^ 59 % 2 = ctx ∧ v / 2 ^ 58 % 2 = b ∧ v / 2 ^ 56 % 4 = 0 ∧ v / 2 ^ 40 % 2 ^ 16 = hi ∧
      v / 2 ^ 24 % 2 ^ 16 = mid ∧ v / 2 ^ 16 % 256 = slot ∧ v % 2 ^ 16 = num % 2 ^ 16

/-! ### Work in flight -/

/-- R24, R221, R228, R230, R235, R237, R245, R249-R252, R353: a long-latency instruction completes by delivering what its accesses read,
clearing its pending bits and its flag; an access performs at its location, a memory-side operation replacing the old value by its own rule; a
fence slot is freed once every recorded access has performed at its scope; a failed access becomes a posted fault of its thread; a
resolved fault request is gone, and a refused page is remembered by all that waited for it. That an older `.sc` fence of its wheel comes first is the
model's reading (log 17), what a fence with EN in S has covered is log 16's, whether a failed access is made again is a free choice (log 38), and
the log of resolved faults is the model's (log 19). -/
def Obligations.WorkInFlightCompletes : Prop :=
  (∀ (s : State) (a : Agent) (lane id : Nat) (o : LongOp), (s.thread a lane).long.find? (·.id == id) = some o →
    let back := ∀ tag t, o.wait = some tag → s.txns.find? (·.tag == tag) = some t → t.resp ≠ none
    (¬ back → exec (.longLatencyComplete a lane id) s = .next s) ∧
    -- its accesses perform as far as they can; one that cannot yet holds it
    (∀ u o', back → o.look = none → s.performParts a lane o = (u, o') → (∃ q ∈ o'.parts, q.2 = none ∧ ∃ p, u.posted? q.1 = some p ∧ p.bad = none) →
      exec (.longLatencyComplete a lane id) s = .next u) ∧
    (back → (∀ q ∈ o.parts, q.2.isSome = true) → o.look = none →
      let rest := match o.wait with
        | some tag => { s with txns := s.txns.filter (·.tag != tag) }
        | none => s
      -- a failed access leaves its fault with a thread that has not exited
      let failed := if (s.thread a lane).exited then [] else s.posted.filter fun p =>
        p.bad.isSome && (some p.id == (o.wait.bind s.txn?).bind Txn.posted || o.parts.any fun q => q.1 == p.id)
      exec (.longLatencyComplete a lane id) s = .next ((failed.foldl (fun s p => (s.dropPosted p.id).modThread a lane fun t => { t with
        posted := t.posted ++ [⟨{ s.mkRec a lane ({
          cls := 0x18, sub := p.bad.getD 0, va := p.va, access := p.access, info0 := BitVec.ofNat 64 (p.bad.getD 0) } : FaultInfo) p.pc 1 with
          seq := BitVec.ofNat 64 (t.recCount + t.posted.length + 1) }, false⟩] }) rest).landed
        a lane (s.longResult o)))) ∧
  (∀ (s : State) (o : LongOp),
    let got := fun (ws : List Word) => { o with writes := (o.writes.map Prod.fst).zip ws }
    (o.wait = none → o.parts = [] → s.longResult o = o) ∧
    (o.wait = none → o.parts ≠ [] → s.longResult o = got (loadWords o.ext (o.parts.map fun q => q.2.getD []).flatten)) ∧
    ∀ tag t n bs, o.wait = some tag → o.parts = [] → s.txns.find? (·.tag == tag) = some t → t.resp = some (n, bs) →
      s.longResult o = if n = 0 then got (loadWords o.ext bs) else { o with writes := o.writes.map fun w => (w.1, 0) }) ∧
  (∀ (t : Thread) (o : LongOp), (t.finishLong o).long = t.long.filter (·.id != o.id) ∧ (t.finishLong o).pc = t.pc ∧
    (t.exited = true → (t.finishLong o).stack = t.stack ∧ (t.finishLong o).guards = t.guards) ∧
    ∀ k v, t.exited = false → o.writes = [(.guard k, v)] → (t.finishLong o).stack = t.stack ∧
      (k < 8 → (t.finishLong o).guards.getLsbD k = (v != 0))) ∧
  (∀ (s : State) (id : Nat) (sc : Scope) (p : Posted), s.posted? id = some p → p.tag = none → p.bad = none → s.before p = [] →
    -- a load reads, and its thread learns of the writes that it read
    (p.rd ≠ 0 → p.red = none →
      let r : Reader := if p.sc = true then ⟨none, none, none, none⟩ else s.readerOf p.owner p.lane
      let bs := s.viewBytesTo r p.id p.kid p.key p.rd
      let known := s.learn p (s.sourcesOf r p.id p.key p.rd)
      let far := p.remoteHome = true ∧ (p.sc = true ∨ cachedLine p.key = false)
      let lacks := fun (k : Nat) => p.sc = false ∧ s.needsFetch p.die p.kid k = true
      (¬ far → ¬ lacks p.key → ¬ lacks (p.key + (p.rd - 1)) → exec (.accessPerform id sc) s =
        .next ((known.modThread p.owner p.lane fun t => t.fillPart p.id bs).dropPosted p.id)) ∧
      -- at another die's home, by an answer that is on its way at most once; and a line that the die lacks is fetched first
      (far → ∀ h d, homeOf p.key = some h → p.die = some d → exec (.accessPerform id sc) s =
        .next (if s.answering p.id = true ∨ s.roomX h 1 = false then s else known.sendX h d (.answer p.id bs))) ∧
      (¬ far → ∀ d, p.die = some d → (lacks p.key → exec (.accessPerform id sc) s = .next (s.fetchLine d (p.key / 128) p.kid)) ∧
        (¬ lacks p.key → lacks (p.key + (p.rd - 1)) → exec (.accessPerform id sc) s = .next (s.fetchLine d ((p.key + (p.rd - 1)) / 128) p.kid)))) ∧
    -- a store of a page that is not SC may be seen inside its die first
    (p.rd = 0 → p.red = none → p.sc = false → sc.rank < 3 → exec (.accessPerform id sc) s =
      .next { s.modPosted id fun p => { p with
          reach := match p.reach with
            | none => some sc
            | some x => if x.rank < sc.rank then some sc else some x
          place := some (p.place.getD (s.places + 1)) } with places := s.places + 1 }) ∧
    (p.rd = 0 → p.settled = none → p.remoteHome = false → 3 ≤ sc.rank → (∀ h, homeOf p.key = some h → s.roomX h 3 = true) →
      let rd := fun (k : Nat) => s.plain (s.kidGen p.kid) k
      let old := (List.range p.size).map fun i => rd (p.key + i)
      let marked := s.partBlocked p.whole p.key p.size = true ∨ p.red.isSome = true ∧ s.poisoned p.key p.size = true ∨
        (∃ k, p.second = some k ∧ s.poisoned k 4 = true) ∨ ∃ b ∈ s.homeMarks p.key p.size,
          p.red.isSome = true ∨ ¬ (p.whole.1 ≤ b ∧ b + 8 ≤ p.whole.1 + p.whole.2)
      -- it counts, unless the home has gathered it with another write of the line (R414)
      let counted := fun (u : State) => if u.gathered p.key (some p.id) = true then u else u.monitorAll p.key p.size p.kid true
      let settle := fun (u : State) (bs : List Byte) =>
        let v := (counted (u.clearWhole p)).settleBytes p.kid p.key bs (some p.id)
        let w := v.modPosted p.id fun q => { q with red := none, bytes := bs, settled := some v.settle, reach := some .die }
        if w.pushing p.id then w else w.endPosted p.id
      (marked → exec (.accessPerform id sc) s = .next ((s.modPosted p.id fun q => { q with bad := some 0 }).modThread p.owner p.lane fun t =>
        t.fillPart p.id (List.replicate p.size 0))) ∧
      (¬ marked → p.red = none → exec (.accessPerform id sc) s = .next (settle s p.bytes)) ∧
      (∀ o, ¬ marked → p.red = some o →
        let u := (s.learn p (s.sourcesOf ⟨none, none, none, none⟩ 0 p.key p.size)).modThread p.owner p.lane fun t => t.fillPart p.id old
        (o.op = 11 → natOfBytes old ≠ o.b.toNat % 2 ^ o.w → 
          -- a comparison that fails has read and leaves nothing
          let v := (u.monitorAll p.key p.size p.kid false).modPosted p.id fun q => { q with settled := some u.settle, sc := false }
          exec (.accessPerform id sc) s = .next { v with
            posted := v.posted.filter fun q => !(q.settled.isSome && q.red.isSome) || v.arriving q }) ∧
        ((o.op = 11 → natOfBytes old = o.b.toNat % 2 ^ o.w) → exec (.accessPerform id sc) s =
          .next (settle u (bytesOfNat (o.w / 8) (o.new rd (natOfBytes old)))))))) ∧
  -- what learns of the writes that an access read: its thread, the fences that recorded it and the handler wheels it is stamped on
  (∀ (s : State) (p : Posted) (ws : List Nat), s.learn p [] = s ∧ (ws ≠ [] →
    (s.learn p ws).posted = (s.posted.map fun q =>
      if q.id ∈ ws ∧ (p.owner, p.lane, some p.set) ∉ q.readers then { q with readers := q.readers ++ [(p.owner, p.lane, some p.set)] } else q) ∧
    ∀ uid w x, s.wheel? (.wheel uid w) = some x → ∃ y, (s.learn p ws).wheel? (.wheel uid w) = some y ∧ y.threads = x.threads ∧
      y.fences = { x.fences with slots := x.fences.slots.map fun z => z.map fun z =>
        if p.id ∈ z.recs then { z with recs := z.recs ++ ws.filter fun n => !z.recs.contains n } else z } ∧
      ∀ i, x.inst = some i → ∀ sc, i.stamps.find? (·.1 == p.id) = some (p.id, sc) →
        y.inst = some { i with stamps := i.stamps ++ (ws.filter fun n => !i.stamps.contains (n, sc)).map fun n => (n, sc) })) ∧
  (∀ (o : MemOp) (rd : Nat → Byte) (old : Nat),
    let c := o.c.toNat % 2 ^ o.w
    let sg := fun (x : Nat) => if x / 2 ^ (o.w - 1) % 2 = 1 then (x : Int) - 2 ^ o.w else (x : Int)
    (o.op = 0 → o.new rd old = (old + c) % 2 ^ o.w) ∧ (o.op = 1 → o.new rd old = if sg c < sg old then c else old) ∧
    (o.op = 2 → o.new rd old = if sg c > sg old then c else old) ∧ (o.op = 3 → o.new rd old = min old c) ∧
    (o.op = 4 → o.new rd old = max old c) ∧ (o.op = 5 → o.new rd old = old &&& c) ∧ (o.op = 6 → o.new rd old = old ||| c) ∧
    (o.op = 7 → o.new rd old = old ^^^ c) ∧ (o.op = 8 → o.new rd old = c) ∧
    (o.op = 9 → o.new rd old = if old ≥ c then 0 else old + 1) ∧
    (o.op = 11 → o.new rd old = if old = o.b.toNat % 2 ^ o.w then c else old) ∧
    (o.op = 10 → o.new rd old = (finish fp32 .rne false (exactSum .rne [fp32.val old, fp32.val c]).1).code) ∧
    -- an element of a pond range, with the scalar or with the element of the second range
    let k := o.c.toNat % 2 ^ 32
    let y := natOfBytes ((List.range 4).map fun i => rd (o.b.toNat + i))
    let sum := fun (a b : Nat) => (finish fp32 .rne false (exactSum .rne [fp32.val a, fp32.val b]).1).code
    let neg := fun (x : Nat) => if x / 2 ^ 31 % 2 = 1 then (x : Int) - 2 ^ 32 else (x : Int)
    (o.op = 16 ∨ o.op = 24 → o.new rd old = k) ∧ (o.op = 17 → o.new rd old = (old + k) % 2 ^ 32) ∧
    (o.op = 18 → o.new rd old = old * k % 2 ^ 32) ∧ (o.op = 19 → o.new rd old = if neg k > neg old then k else old) ∧
    (o.op = 20 → o.new rd old = (old + y) % 2 ^ 32) ∧ (o.op = 25 → o.new rd old = sum old k) ∧
    (o.op = 26 → o.new rd old = (finish fp32 .rne false (mulV (fp32.val old) (fp32.val k))).code) ∧
    (o.op = 27 → o.new rd old = (minMaxOp true false old k).code) ∧ (o.op = 28 → o.new rd old = sum old y)) ∧
  (∀ (s : State) (a : Agent) (n : Nat) (x : FenceSlot), (s.fences a).slots[n]? = some (some x) →
    let done := (∀ id ∈ x.recs, ∀ p, s.posted? id = some p → s.doneFor p a x.scope = true) ∧
      (x.sc = true → (s.fences a).olderSc x.gen = false)
    -- what a fence with EN in S has recorded comes before the work that its threads release from here on
    let ends := if x.en then { s with posted := s.posted.map fun p => if p.id ∈ x.recs then
      { p with fenced := p.fenced ++ (x.lanes.map fun l => (a, l)).filter fun w => !p.fenced.contains w } else p } else s
    (done → exec (.fenceSlotComplete a n) s = .next (ends.setFences a { s.fences a with slots := setAt (s.fences a).slots n none })) ∧
    (¬ done → exec (.fenceSlotComplete a n) s = .next s)) ∧
  (∀ (s : State) (id cause uid w : Nat) (p : Posted) (m : Mill), s.posted? id = some p → p.owner = .wheel uid w → w ≠ 255 → s.mill? uid = some m →
    (p.bad ≠ some cause → exec (.postedFaultArrival id cause) s = .next s) ∧
    (p.bad = some cause → m.st = .freed → exec (.postedFaultArrival id cause) s = .next (s.dropPosted p.id)) ∧
    (p.bad = some cause → m.st = .running → p.held = none → (s.thread p.owner p.lane).exited = false →
      (s.thread p.owner p.lane).saveDone = false →
      let r := s.mkRec p.owner p.lane { cls := 0x18, sub := cause, va := p.va, access := p.access, info0 := BitVec.ofNat 64 cause } p.pc 1
      exec (.postedFaultArrival id cause) s =
        .next ((s.modThread p.owner p.lane fun t => { t with posted := t.posted ++ [⟨r, false⟩] }).dropPosted p.id)) ∧
    -- where no thread is left to take it the front end may resolve the failure, and the access is made again; or the mill is in error
    (p.bad = some cause → m.st = .draining ∨ (m.st = .running ∨ m.st = .evicted) ∧ (p.held.isSome = true ∨ (s.thread p.owner p.lane).exited = true) → s.pick 8 p.id ≠ 0 →
      exec (.postedFaultArrival id cause) s = .next (s.replayPosted p)) ∧
    (p.bad = some cause → m.st = .draining → s.pick 8 p.id = 0 → exec (.postedFaultArrival id cause) s = .next ((s.millError uid
      (s.mkRec p.owner p.lane { cls := 0x18, sub := cause, va := p.va, access := p.access, info0 := BitVec.ofNat 64 cause } p.pc 1)).dropPosted p.id))) ∧
  (∀ (s : State) (p : Posted), p.tag = none →
    (p.rd = 0 → s.replayPosted p = s.modPosted p.id fun q => { q with bad := none }) ∧ (p.rd ≠ 0 → s.replayPosted p = s.dropPosted p.id)) ∧
  ∀ (s : State) (req : Nat) (r : FaultReq), s.reqs.find? (·.id == req) = some r →
    let u := { s with reqs := s.reqs.filter (·.id != req) }
    -- the front end's log names each fault that was resolved, with FLAGS bit 1
    exec (.faultResolution req true) s = .next { u with feLog := s.feLog ++ r.threads.map fun w => { w.2.2 with flags := w.2.2.flags ||| 2 } } ∧
    exec (.faultResolution req false) s = .next (r.threads.foldl (fun s w => s.refusePage r.page (w.1, w.2.1)) u) ∧
    ∀ (v : State) (uid : Nat), (∀ w lane, w ≠ 255 → v.refusePage r.page (.wheel uid w, lane) =
        v.modThread (.wheel uid w) lane fun t => { t with refused := insertNat r.page t.refused }) ∧
    -- of the flume, by the operation that met it
    ∀ op, v.refusePage r.page (.wheel uid 255, op) = v.modMill uid fun m => { m with flume := { m.flume with
      refused := if m.flume.refused.contains (op, r.page) then m.flume.refused else m.flume.refused ++ [(op, r.page)] } }

/-! ### Trust -/

/-- R406-R411, R414, R419: what each SPDM request, TDISP request and function-level reset does, and the response it leaves; signed
responses take a signature, a request outside its state an error response, and LOCK measures the entry before it freezes it. The codes
of the responses are the model's, from the standards (log 20). -/
def Obligations.TrustRequestsChangeTheirStateAndAnswer : Prop :=
  (∀ (s : State) (body : List Byte) (p code : Nat), s.board.up = true →
    let said := fun (u : State) (req code : Nat) (bs : List Byte) =>
      { u with trust := { u.trust with out := u.trust.out ++ [⟨code, bs⟩] }, evq := u.evq ++ [.spdm req] }
    let std := fun (req : Nat) => Config.spdmBody req body
    -- past index 2^20 - 1 of the identity key nothing is signed
    let signed := fun (req code : Nat) (bs : List Byte) => if s.trust.identity > 2 ^ 20 - 1 then said s req 0x7F [5, BitVec.ofNat 8 req] else
      match s.trust.sign bs with
      | (some sig, t) => said { s with trust := t } req code (bs ++ sig)
      | (none, t) => said { s with trust := t } req 0x7F [5, BitVec.ofNat 8 req]
    exec (.getVersion body) s = .next (said s 0x84 0x04 (Config.spdmVersions [(1, 3)] ++ std 0x84)) ∧
    exec (.getCapabilities body) s = .next (said s 0xE1 0x61 (std 0xE1)) ∧
    exec (.negotiateAlgorithms body) s = .next (said s 0xE3 0x63 (Config.spdmAlgorithms [.shake256, .xmss, .xmssMt, .mlKem1024] body)) ∧
    exec (.getDigests body) s = .next (said s 0x81 0x01 (std 0x81)) ∧
    exec (.getCertificate body) s = .next (said s 0x82 0x02 (std 0x82)) ∧
    exec (.challenge body) s = .next (signed 0x83 0x03 (std 0x83)) ∧
    exec (.getMeasurements body) s =
      .next (signed 0xE0 0x60 (std 0xE0 ++ (s.trust.measure.map fun m => bytesOfNat 32 m.toNat).flatten)) ∧
    exec (.keyExchange body) s = .next (said { s with
      trust := { s.trust with sessions := s.trust.sessions ++ [(s.fresh, Config.sessionKey s.fresh)] }, fresh := s.fresh + 1 } 0xE4 0x64 (std 0xE4)) ∧
    exec (.finish body) s = .next (said s 0xE5 0x65 (std 0xE5)) ∧
    (s.trust.sessions = [] → exec (.keyUpdate body) s = .next (said { s with fresh := s.fresh + 1 } 0xE9 0x69 (std 0xE9))) ∧
    (∀ l x, s.trust.sessions = l ++ [x] →
      exec (.keyUpdate body) s = .next (said { s with
        trust := { s.trust with sessions := l ++ [(x.1, Config.sessionKey s.fresh)] }, fresh := s.fresh + 1 } 0xE9 0x69 (std 0xE9)) ∧
      exec (.endSession body) s = .next (said { s with trust := { s.trust with sessions := l } } 0xEC 0x6C (std 0xEC))) ∧
    exec (.vendorDefinedRequest p) s = .next (signed 0xFE 0x7E ((((s.part p).log.map LogEntry.bytes).flatten ++
      bytesOfNat 8 (s.part p).logDrops) ++ bytesOfNat 32 (s.part p).chainHead.toNat)) ∧
    exec (.unsupportedRequest code) s = .next (said s code 0x7F [7, BitVec.ofNat 8 code])) ∧
  -- a leaf index signs once; a key whose 65,536 are used gives way to a new one, that the next identity index certifies
  (∀ (t : Trust) (bs : List Byte),
    (t.attLive = false → t.sign bs = (none, t)) ∧
    (t.attLive = true → t.attIndex < 65536 → t.sign bs = (some (Config.signature t.attGen t.attIndex bs), { t with attIndex := t.attIndex + 1 })) ∧
    (t.attLive = true → 65536 ≤ t.attIndex → t.identity ≤ 2 ^ 20 - 1 → t.sign bs = (some (Config.signature (t.attGen + 1) 0 bs),
      { t with identity := t.identity + 1, attGen := t.attGen + 1, attIndex := 1, attCert := t.identity + 1 })) ∧
    (t.attLive = true → 65536 ≤ t.attIndex → 2 ^ 20 - 1 < t.identity → t.sign bs = (none, { t with attLive := false }))) ∧
  (∀ (s : State) (p : Nat), s.board.up = true →
    let u := { s with evq := s.evq ++ [.tdisp p] }
    let say := fun (v : State) (code : Nat) (bs : List Byte) => { v with trust := { v.trust with out := v.trust.out ++ [⟨code, bs⟩] } }
    let served := s.trust.sessions ≠ [] ∧ (s.part p).valid = true
    let st := (s.part p).tdisp
    let no := fun (req : Nat) => say u 0x7F [BitVec.ofNat 8 req]
    (served ∧ st = .unlocked → exec (.lockInterfaceRequest p) s = .next (say ({ u with trust := { u.trust with
      measure := setAt u.trust.measure (2 + p) (extend (u.trust.measure.getD (2 + p) 0) (s.part p).fields) } }.modPart p fun e =>
        { e with tdisp := .locked }) 0x03 [])) ∧
    (¬ (served ∧ st = .unlocked) → exec (.lockInterfaceRequest p) s = .next (no 0x83)) ∧
    (served ∧ (st = .locked ∨ st = .run) → exec (.getDeviceInterfaceReport p) s = .next (say u 0x04 (s.ifReport (s.part p)))) ∧
    (¬ (served ∧ (st = .locked ∨ st = .run)) → exec (.getDeviceInterfaceReport p) s = .next (no 0x84)) ∧
    (served → exec (.getDeviceInterfaceState p) s = .next (say u 0x05 [BitVec.ofNat 8 st.code])) ∧
    (¬ served → exec (.getDeviceInterfaceState p) s = .next (no 0x85)) ∧
    (served ∧ st = .locked → exec (.startInterfaceRequest p) s = .next (say (u.modPart p fun e => { e with tdisp := .run }) 0x06 [])) ∧
    (¬ (served ∧ st = .locked) → exec (.startInterfaceRequest p) s = .next (no 0x86)) ∧
    (served ∧ st ≠ .unlocked → exec (.stopInterfaceRequest p) s =
      .next (say (((u.stopGrids p).dropEngs p).modPart p fun e => { e with tdisp := .unlocked }) 0x07 [])) ∧
    (¬ (served ∧ st ≠ .unlocked) → exec (.stopInterfaceRequest p) s = .next (no 0x87)) ∧
    ((s.part p).valid = true → st ≠ .unlocked → exec (.functionLevelReset p) s =
      .next (((s.stopGrids p).dropEngs p).modPart p fun e => { e with tdisp := .unlocked })) ∧
    ((s.part p).valid = false ∨ st = .unlocked → exec (.functionLevelReset p) s = .next s)) ∧
  -- an aborted grid places no gang and brings none back, and its mills are aborted; a stop aborts every grid of the partition and leaves it
  -- no engagement, and no key for the key-IDs it had
  (∀ (s : State) (n : Nat),
    (∀ g ∈ (s.abortGrid n).grids, g.uid = n → g.dead = true) ∧
    (∀ g ∈ (s.abortGrid n).gangs, g.grid = n → g.st ≠ .unplaced ∧ g.st ≠ .evicted) ∧
    ∀ g ∈ s.gangs, g.grid = n → g.st ≠ .unplaced → ∀ uid ∈ g.mills, ∀ m, (s.abortGrid n).mill? uid = some m → m.aborted = true) ∧
  (∀ (s : State) (p : Nat), (∀ g ∈ (s.stopGrids p).grids, g.part = p → g.dead = true) ∧ ((s.dropEngs p).part p).engs = [] ∧
    ∀ e ∈ (s.part p).engs, ∀ k ∈ e.kids, sget 0 (s.dropEngs p).kidGens k = 0) ∧
  ∀ (s : State) (fn : Nat) (link : Bool),
    (s.board.power = true → exec (.ideStreamKeying 0 false) s = .next { s with trust := { s.trust with idePf := true } }) ∧
    (s.board.power = true → 0 < fn → fn ≤ Config.nParts → ∃ t, exec (.ideStreamKeying fn false) s = .next t ∧
      { t with trust := { t.trust with ideVf := s.trust.ideVf } } = s ∧ fn - 1 ∈ t.trust.ideVf ∧
      ∀ k, k ≠ fn - 1 → (k ∈ t.trust.ideVf ↔ k ∈ s.trust.ideVf)) ∧
    (s.board.power = false ∨ link = true ∨ fn > Config.nParts → exec (.ideStreamKeying fn link) s = .next s)

/-! ### Frames -/

/-- R11, R13, R69, R72, R76-R86, R91: the frame of the instructions that write a register from registers. When one of them issues
and answers a next state: every byte of memory reads as before in every view, and every unit but the threads of the wheel stays; no
other wheel's or core's thread changes; of the wheel's own threads every register outside D, or of a lane that takes no part, every guard, and every
system register stay, but for flags that `fstat` gains under the float instructions; a uniform register outside D stays. -/
def Obligations.RegisterWordsChangeOnlyTheirDestination : Prop :=
  let ints : List ((Fields → Instr) × BitVec 8 × (Fields → Agent → Shape)) :=
    [(.mov, 0x01, shape1), (.add, 0x04, shape2), (.sub, 0x05, shape2), (.mul, 0x08, shape2), (.mulh, 0x09, shape2), (.mad, 0x0A, shape3),
     (.min, 0x0D, shape2), (.max, 0x0E, shape2), (.abs, 0x0F, shape1), (.neg, 0x10, shape1), (.and, 0x11, shape2), (.or, 0x12, shape2),
     (.xor, 0x13, shape2), (.andn, 0x14, shape2), (.not, 0x15, shape1), (.shl, 0x16, shape2), (.shr, 0x17, shape2), (.sar, 0x18, shape2),
     (.rot, 0x19, shape2), (.clz, 0x1B, shape1), (.popc, 0x1C, shape1), (.brev, 0x1D, shape1), (.bfx, 0x1E, shape2), (.bfi, 0x1F, shape3)]
  let floats : List ((Fields → Instr) × BitVec 8 × (Fields → Agent → Shape)) :=
    [(.fadd, 0x40, word2), (.fsub, 0x41, word2), (.fmul, 0x42, word2), (.fma, 0x43, word3)]
  ∀ x ∈ ints ++ floats, ∀ f st t, st.Issues x.2.1 f (x.2.2 f st.cur) → exec (x.1 f) st = .next t →
    let n := if (x.2.2 f st.cur).d = .pair then 2 else 1
    let rest := fun (u : Thread) => { u.kept with stack := [], uni := [], regPoison := [], uniPoison := [], sys := { u.sys with fstat := 0 } }
    let blank := Thread.start 0 false
    -- a wait that held the wheel is over as the word completes
    let wheelRest := fun (w : Wheel) => { w with threads := w.threads.map fun _ => blank, fences := { w.fences with stall := none }, posting := none }
    let millRest := fun (m : Mill) => { m with wheels := m.wheels.map wheelRest, sregs := [], uniPoison := [], behind := [] }
    let coreRest := fun (c : FeCore) => { c with thread := blank, fences := { c.fences with stall := none } }
    (∀ r gen key k, t.viewBytes r gen key k = st.viewBytes r gen key k) ∧
    { t with mills := st.mills, fe := st.fe, gangs := st.gangs, txns := st.txns } = st ∧
    t.mills.map millRest = st.mills.map millRest ∧
    t.fe.map coreRest = st.fe.map coreRest ∧
    (t.gangs.map fun (g : Gang) => { g with yield := false }) = (st.gangs.map fun (g : Gang) => { g with yield := false }) ∧
    (∀ x ∈ t.txns, x ∈ st.txns) ∧
    (∀ a l, ¬ a.same st.cur = true → (t.thread a l).kept = (st.thread a l).kept) ∧
    (∀ l, rest (t.thread st.cur l) = rest (st.thread st.cur l) ∧
      (t.thread st.cur l).sys.fstat &&& (st.thread st.cur l).sys.fstat = (st.thread st.cur l).sys.fstat ∧
      (x ∈ ints → (t.thread st.cur l).sys.fstat = (st.thread st.cur l).sys.fstat) ∧
      -- registers of this window and of every other, with their error marks (R420)
      ∀ p, (l ∈ st.takers x.2.1 f (x.2.2 f st.cur) →
          p < (st.thread st.cur l).pos f.d.toNat ∨ (st.thread st.cur l).pos f.d.toNat + n ≤ p) →
        (t.thread st.cur l).getPos p = (st.thread st.cur l).getPos p ∧
        (t.thread st.cur l).regPoison.contains p = (st.thread st.cur l).regPoison.contains p) ∧
    ∀ a l k, k + 32 < f.d.toNat ∨ f.d.toNat + n ≤ k + 32 → t.uniGet a l k = st.uniGet a l k ∧ t.uniMarked a l k = st.uniMarked a l k
end

