-- ==== Sys2Proof/Laws/Issue.lean ====
section
/-! SUPPORT. What issuing a word does to the state around its own operation: the lemmas about one thread of an agent, and
`issue_done`, which says everything an issue does when no lane is stopped. -/

namespace Sys2Proof.Machine

/-! ### Lists -/

theorem modAt_map {α β : Type} (g : α → β) (f : α → α) (h : ∀ x, g (f x) = g x) :
    ∀ (l : List α) (n : Nat), (modAt l n f).map g = l.map g
  | [], _ => rfl
  | x :: xs, 0 => by simp [modAt, h]
  | x :: xs, n + 1 => by simp [modAt, modAt_map g f h xs n]
theorem modAt_length {α : Type} (f : α → α) : ∀ (l : List α) (n : Nat), (modAt l n f).length = l.length
  | [], _ => rfl
  | x :: xs, 0 => rfl
  | x :: xs, n + 1 => by simp [modAt, modAt_length f xs n]
theorem modAt_get {α : Type} (f : α → α) : ∀ (l : List α) (n k : Nat), (modAt l n f)[k]? = if k = n then l[k]?.map f else l[k]?
  | [], n, k => by simp [modAt]
  | x :: xs, 0, 0 => by simp [modAt]
  | x :: xs, 0, k + 1 => by simp [modAt]
  | x :: xs, n + 1, 0 => by simp [modAt]
  | x :: xs, n + 1, k + 1 => by simp [modAt, modAt_get f xs n k]
theorem modAt_map_comm {α β : Type} (g : α → β) (f : α → α) (f' : β → β) (h : ∀ x, g (f x) = f' (g x)) :
    ∀ (l : List α) (n : Nat), (modAt l n f).map g = modAt (l.map g) n f'
  | [], _ => rfl
  | x :: xs, 0 => by simp [modAt, h]
  | x :: xs, n + 1 => by simp [modAt, modAt_map_comm g f f' h xs n]

/-! ### Finding a mill after a change -/

theorem mill?_modMill (s : State) (uid : Nat) (f : Mill → Mill) (hf : ∀ m, (f m).uid = m.uid) (k : Nat) :
    (s.modMill uid f).mill? k = (s.mill? k).map fun m => if m.uid = uid then f m else m := by
  unfold State.mill? State.modMill
  simp only [List.find?_map]
  congr 2
  funext m
  simp only [Function.comp]
  split <;> simp [hf]
theorem wheel?_modWheel (s : State) (a : Agent) (f : Wheel → Wheel) (h : a.mill ≠ none) :
    (s.modWheel a f).wheel? a = (s.wheel? a).map f := by
  unfold State.modWheel State.wheel?
  cases hm : a.mill with
  | none => exact absurd hm h
  | some uid =>
    simp only [Option.bind_eq_bind, Option.bind_some]
    rw [mill?_modMill s uid (fun m => { m with wheels := modAt m.wheels a.wheelIdx f }) (fun _ => rfl)]
    cases hs : s.mill? uid with
    | none => rfl
    | some m =>
      have hu : m.uid = uid := by
        have := List.find?_some hs
        simpa using this
      simp [hu, modAt_get]

/-! ### Threads after a change -/

theorem threads_modThread (s : State) (a : Agent) (l : Nat) (g : Thread → Thread) :
    (s.modThread a l g).threads a = modAt (s.threads a) l g := by
  cases a with
  | fe n =>
    unfold State.modThread State.threads
    by_cases hl : l = 0
    · subst hl
      simp only [if_true, State.modFe, modAt_get]
      cases s.fe[n]? <;> rfl
    · simp only [if_neg hl]
      cases s.fe[n]? with
      | none => rfl
      | some c =>
        cases l with
        | zero => exact absurd rfl hl
        | succ k => rfl
  | wheel m w =>
    unfold State.modThread State.threads
    simp only []
    rw [wheel?_modWheel s _ _ (by simp [Agent.mill])]
    cases s.wheel? (.wheel m w) <;> rfl
  | buf m w =>
    unfold State.modThread State.threads
    simp only []
    rw [wheel?_modWheel s _ _ (by simp [Agent.mill])]
    cases s.wheel? (.buf m w) <;> rfl
theorem thread_modThread (s : State) (a : Agent) (l k : Nat) (g : Thread → Thread) :
    (s.modThread a l g).thread a k = if k = l ∧ k < (s.threads a).length then g (s.thread a k) else s.thread a k := by
  unfold State.thread
  rw [threads_modThread]
  simp only [List.getD_eq_getElem?_getD, modAt_get]
  by_cases h1 : k = l
  · subst h1
    by_cases h2 : k < (s.threads a).length
    · simp [h2]
    · simp [h2]
  · simp [h1]
theorem threads_length_modThread (s : State) (a : Agent) (l : Nat) (g : Thread → Thread) :
    ((s.modThread a l g).threads a).length = (s.threads a).length := by
  rw [threads_modThread, modAt_length]

/-! ### What stays -/

theorem kept_modThread (s : State) (a : Agent) (l : Nat) (g : Thread → Thread) (h : ∀ t, (g t).kept = t.kept) :
    (s.modThread a l g).kept = s.kept := by
  have hw : ∀ w : Wheel, ({ w with threads := modAt w.threads l g } : Wheel).kept = w.kept := fun w => by
    simp [Wheel.kept, modAt_map Thread.kept g h]
  have hm : ∀ (m : Mill) (k : Nat),
      ({ m with wheels := modAt m.wheels k fun w => { w with threads := modAt w.threads l g } } : Mill).kept = m.kept :=
    fun m k => by simp [Mill.kept, modAt_map Wheel.kept _ hw]
  have hf : ∀ c : FeCore, ({ c with thread := g c.thread } : FeCore).kept = c.kept := fun c => by simp [FeCore.kept, h]
  cases a with
  | fe n =>
    by_cases hl : l = 0
    · simp [State.modThread, hl, State.modFe, State.kept, modAt_map FeCore.kept _ hf]
    · simp [State.modThread, hl]
  | wheel m w =>
    simp only [State.modThread, State.modWheel, Agent.mill, State.modMill, State.kept, List.map_map]
    congr 1
    apply List.map_congr_left
    intro x _
    simp only [Function.comp]
    split
    · exact hm x _
    · rfl
  | buf m w =>
    simp only [State.modThread, State.modWheel, Agent.mill, State.modMill, State.kept, List.map_map]
    congr 1
    apply List.map_congr_left
    intro x _
    simp only [Function.comp]
    split
    · exact hm x _
    · rfl

theorem thread_kept (s : State) (a : Agent) (l : Nat) : (s.kept.thread a l).kept = (s.thread a l).kept := by
  have hmill : ∀ k, s.kept.mill? k = (s.mill? k).map Mill.kept := fun k => by
    simp only [State.mill?, State.kept, List.find?_map]
    rfl
  have hwheel : s.kept.wheel? a = (s.wheel? a).map Wheel.kept := by
    simp only [State.wheel?]
    cases a.mill with
    | none => rfl
    | some uid =>
      simp only [Option.bind_eq_bind, Option.bind_some, hmill]
      cases s.mill? uid with
      | none => rfl
      | some m => simp [Mill.kept]
  have key : ∀ ts : List Thread, ((ts.map Thread.kept).getD l (Thread.start 0 true)).kept = (ts.getD l (Thread.start 0 true)).kept := by
    intro ts
    simp only [List.getD_eq_getElem?_getD, List.getElem?_map]
    cases ts[l]? <;> rfl
  cases a with
  | fe n =>
    simp only [State.thread, State.threads, State.kept, List.getElem?_map]
    cases s.fe[n]? with
    | none => rfl
    | some c => exact key [c.thread]
  | wheel m w =>
    simp only [State.thread, State.threads, hwheel]
    cases s.wheel? (.wheel m w) with
    | none => rfl
    | some x => exact key x.threads
  | buf m w =>
    simp only [State.thread, State.threads, hwheel]
    cases s.wheel? (.buf m w) with
    | none => rfl
    | some x => exact key x.threads

/-- A change that only moves an agent's threads on: nothing kept changes, and no PC does. -/
structure Calm (a : Agent) (s s' : State) : Prop where
  kept : s'.kept = s.kept
  pcs  : ∀ l, (s'.thread a l).pc = (s.thread a l).pc
  len  : (s'.threads a).length = (s.threads a).length

theorem Calm.refl {a : Agent} {s : State} : Calm a s s := ⟨Eq.refl _, fun _ => Eq.refl _, Eq.refl _⟩
theorem Calm.trans {a : Agent} {s t u : State} (h : Calm a s t) (k : Calm a t u) : Calm a s u :=
  ⟨k.kept.trans h.kept, fun l => (k.pcs l).trans (h.pcs l), k.len.trans h.len⟩
theorem Calm.exited {a : Agent} {s t : State} (h : Calm a s t) (l : Nat) : (t.thread a l).exited = (s.thread a l).exited := by
  have := congrArg Thread.exited ((thread_kept t a l).symm.trans ((congrArg (fun x => (State.thread x a l).kept) h.kept).trans (thread_kept s a l)))
  simpa [Thread.kept] using this
theorem Calm.modThread {a : Agent} (s : State) (l : Nat) (g : Thread → Thread) (h : ∀ t, (g t).kept = t.kept)
    (hp : ∀ t, (g t).pc = t.pc) : Calm a s (s.modThread a l g) :=
  ⟨kept_modThread s a l g h, fun k => by rw [thread_modThread]; split <;> simp [hp], threads_length_modThread s a l g⟩
theorem Calm.foldl {a : Agent} {α : Type} (f : State → α → State) (h : ∀ s x, Calm a s (f s x)) :
    ∀ (l : List α) (s : State), Calm a s (l.foldl f s)
  | [], _ => Calm.refl
  | x :: xs, s => (h s x).trans (Calm.foldl f h xs (f s x))

/-! ### The rest of an issue -/

/-- A change of an agent's wheel that keeps what is kept of it, its PCs and how many threads it has. -/
theorem Calm.modWheel {a : Agent} (s : State) (g : Wheel → Wheel) (hk : ∀ w, (g w).kept = w.kept)
    (hp : ∀ w k, ((g w).threads.getD k (Thread.start 0 true)).pc = (w.threads.getD k (Thread.start 0 true)).pc)
    (hl : ∀ w, (g w).threads.length = w.threads.length) : Calm a s (s.modWheel a g) := by
  have hm : ∀ (m : Mill) (k : Nat), ({ m with wheels := modAt m.wheels k g } : Mill).kept = m.kept :=
    fun m k => by simp [Mill.kept, modAt_map Wheel.kept _ hk]
  have hkept : ∀ b : Agent, (s.modWheel b g).kept = s.kept := fun b => by
    unfold State.modWheel
    split
    · rfl
    · simp only [State.modMill, State.kept, List.map_map]
      congr 1
      apply List.map_congr_left
      intro x _
      simp only [Function.comp]
      split
      · exact hm x _
      · rfl
  refine ⟨hkept a, fun l => ?_, ?_⟩
  · cases a with
    | fe n => rfl
    | _ =>
      simp only [State.thread, State.threads]
      rw [wheel?_modWheel s _ _ (by simp [Agent.mill])]
      cases s.wheel? _ with
      | none => rfl
      | some x => exact hp x l
  · cases a with
    | fe n => rfl
    | _ =>
      simp only [State.threads]
      rw [wheel?_modWheel s _ _ (by simp [Agent.mill])]
      cases s.wheel? _ <;> simp [hl]
theorem Calm.wheel {a : Agent} (s : State) (g : Thread → Thread) (h : ∀ t, (g t).kept = t.kept) (hp : ∀ t, (g t).pc = t.pc) :
    Calm a s (s.modWheel a fun w => { w with threads := w.threads.map g }) :=
  Calm.modWheel s _ (fun w => by simp [Wheel.kept, Function.comp_def, h])
    (fun w k => by
      simp only [List.getD_eq_getElem?_getD, List.getElem?_map]
      cases w.threads[k]? <;> simp [hp])
    fun w => by simp

/-- Whether a wait stalls the wheel is no part of what is kept. -/
theorem Calm.stall {a : Agent} (s : State) (x : Option Agent) : Calm a s (s.modFences a fun f => { f with stall := x }) := by
  cases a with
  | fe n =>
    refine ⟨?_, fun l => ?_, ?_⟩
    · simp [State.modFences, State.modFe, State.kept, modAt_map FeCore.kept (fun c => { c with fences := { c.fences with stall := x } }) fun _ => rfl]
    · simp only [State.modFences, State.modFe, State.thread, State.threads, modAt_get]
      cases s.fe[n]? <;> rfl
    · simp only [State.modFences, State.modFe, State.threads, modAt_get]
      cases s.fe[n]? <;> rfl
  | _ => exact Calm.modWheel s _ (fun _ => rfl) (fun _ _ => rfl) fun _ => rfl
theorem Calm.endWait {a : Agent} (s : State) : Calm a s (s.endWait a) := by
  have stall : Calm a s (if (s.fences a).stall.isSome then s.modFences a fun f => { f with stall := none } else s) := by
    split
    · exact Calm.stall s none
    · exact Calm.refl
  unfold State.endWait
  dsimp only
  split
  · exact stall.trans (Calm.modWheel _ _ (fun _ => rfl) (fun _ _ => rfl) fun _ => rfl)
  · exact stall
theorem Calm.markYield {a b : Agent} (s : State) (y : Bool) : Calm a s (s.markYield b y) := by
  unfold State.markYield
  split
  · split
    · rename_i g _
      refine ⟨?_, fun l => by cases a <;> rfl, by cases a <;> rfl⟩
      simp only [State.modGang, State.kept, List.map_map]
      congr 1
      apply List.map_congr_left
      intro x _
      simp only [Function.comp]
      split <;> rfl
    · exact Calm.refl
  · exact Calm.refl
theorem Calm.txns {a : Agent} (s : State) (l : List Txn) : Calm a s { s with txns := l } :=
  ⟨rfl, fun l => by cases a <;> rfl, by cases a <;> rfl⟩
theorem Calm.dropUsed {a : Agent} (s : State) (lanes : List Nat) : Calm a s (s.dropUsed a lanes) := by
  unfold State.dropUsed
  apply Calm.foldl
  intro s' t
  split
  · exact Calm.refl
  · rename_i l _
    have h := Calm.txns (a := a) s' (s'.txns.filter (·.tag != t.tag))
    dsimp only
    split
    · split
      · exact h
      · unfold State.addPostedFault
        exact h.trans (Calm.modThread _ _ _ (fun _ => rfl) (fun _ => rfl))
    · exact h
theorem Calm.enterBuffers {a : Agent} (s : State) (back : List Nat) : Calm a s (s.enterBuffers a back) := by
  unfold State.enterBuffers
  split
  · exact Calm.refl
  · dsimp only
    split
    · exact Calm.refl
    · apply Calm.foldl
      intro s' l
      apply Calm.modThread
      · intro t; split <;> rfl
      · intro t; split <;> rfl
theorem Calm.releaseSync {a : Agent} (s : State) : Calm a s (s.releaseSync a) := by
  unfold State.releaseSync
  split
  · exact Calm.wheel s _ (fun _ => rfl) (fun _ => rfl)
  · exact Calm.refl
theorem releaseClaims_live (s : State) (a : Agent) (l : Nat) (hl : l < (s.threads a).length)
    (h : (s.thread a l).exited = false) : s.releaseClaims a = s := by
  unfold State.releaseClaims
  split
  · rfl
  · rw [if_neg]
    intro hc
    have := (Bool.and_eq_true _ _).mp hc |>.1
    rw [List.all_eq_true] at this
    have hm : s.thread a l ∈ s.threads a := by
      simp only [State.thread, List.getD_eq_getElem?_getD, List.getElem?_eq_getElem hl, Option.getD_some]
      exact List.getElem_mem hl
    exact absurd (this _ hm) (by simp [h])
theorem Calm.leaveBuffers {a : Agent} (s : State) : Calm a s (s.leaveBuffers a) := by
  cases a with
  | fe n => exact Calm.refl
  | wheel m w =>
    unfold State.leaveBuffers
    dsimp only
    split
    · exact Calm.refl
    · exact (Calm.wheel s _ (fun t => by split <;> rfl) (fun t => by split <;> rfl)).trans
        (Calm.wheel _ _ (fun t => by split <;> rfl) (fun t => by split <;> rfl))
  | buf m w =>
    unfold State.leaveBuffers
    dsimp only
    split
    · exact Calm.refl
    · exact (Calm.wheel s _ (fun t => by split <;> rfl) (fun t => by split <;> rfl)).trans
        (Calm.wheel _ _ (fun t => by split <;> rfl) (fun t => by split <;> rfl))

/-- Moving the lanes of a list on. -/
theorem fold_pcs {a : Agent} (next : DWord) (moved : List Nat) (g : Nat → Thread → Thread)
    (hk : ∀ l t, (g l t).kept = t.kept) (hp : ∀ l t, (g l t).pc = if moved.contains l then t.pc else next) :
    ∀ (go : List Nat) (s : State),
      (go.foldl (fun s l => s.modThread a l (g l)) s).kept = s.kept ∧
      ((go.foldl (fun s l => s.modThread a l (g l)) s).threads a).length = (s.threads a).length ∧
      ∀ l, ((go.foldl (fun s l => s.modThread a l (g l)) s).thread a l).pc =
        if l ∈ go ∧ l ∉ moved ∧ l < (s.threads a).length then next else (s.thread a l).pc
  | [], s => ⟨rfl, rfl, fun l => by simp⟩
  | x :: xs, s => by
    obtain ⟨h1, h2, h3⟩ := fold_pcs next moved g hk hp xs (s.modThread a x (g x))
    refine ⟨h1.trans (kept_modThread s a x _ (hk x)), h2.trans (threads_length_modThread s a x _), fun l => ?_⟩
    simp only [List.foldl_cons, h3, threads_length_modThread, thread_modThread, List.mem_cons]
    by_cases hx : l = x
    · subst hx
      by_cases hl : l < (s.threads a).length <;> by_cases hm : l ∈ moved <;> simp [hl, hm, hp]
    · simp [hx]

/-- Everything `finishIssue` does when no lane traps: it keeps what the operation has done, and moves the issuing lanes on. -/
theorem finishIssue_ok (x : Ctx) (f0 : Fields) (sh : Shape) (group : List Nat) (w : Option (BitVec 128)) (size : Nat) (skip : List Nat)
    (s : State) (moved : List Nat) (live : Nat) (hl : live < (s.threads x.a).length)
    (he : (s.thread x.a live).exited = false) :
    ∃ t, finishIssue x f0 sh group w size skip s [] moved = .next t ∧ t.kept = s.kept ∧
      ∀ l, (t.thread x.a l).pc =
        if l ∈ group ∧ l ∉ moved ∧ l < (s.threads x.a).length then x.next else (s.thread x.a l).pc := by
  unfold finishIssue
  simp only [List.filter_nil, List.map_nil, List.contains_nil, Bool.not_false, List.filter_true, Bool.false_or,
    State.takeTraps, List.foldl_nil]
  refine ⟨_, rfl, ?_⟩
  -- the latch
  have h1 := Calm.foldl (a := x.a) (fun (s : State) (l : Nat) =>
      if group.isEmpty then s
      else
        let s := s.modThread x.a l Thread.ageLatch
        match heldField x.f with
        | none => s
        | some fld =>
          let v := if skip.contains l then x.s0.heldQuiet x.a f0 x.f sh l fld
            else if group.contains l then x.s0.heldValue x.a x.f sh l fld else none
          s.modThread x.a l fun t => t.capture v)
      (fun s l => by
        split
        · exact Calm.refl
        have h := Calm.modThread (a := x.a) s l Thread.ageLatch (fun _ => rfl) (fun _ => rfl)
        dsimp only
        split
        · exact h
        · exact h.trans (Calm.modThread _ l _ (fun _ => rfl) (fun _ => rfl)))
      (List.range (s.threads x.a).length) s
  have hadv : ∀ (t : Thread) (n : DWord), (t.advance n).kept = t.kept := fun t n => by
    unfold Thread.advance; split <;> (try split) <;> rfl
  have hadvp : ∀ (t : Thread) (n : DWord), (t.advance n).pc = n := fun t n => by
    unfold Thread.advance; split <;> (try split) <;> rfl
  generalize hS : List.foldl _ s (List.range (s.threads x.a).length) = s1 at h1 ⊢
  have h2 := fold_pcs (a := x.a) x.next moved
    (fun l t =>
      let t := if moved.contains l then t else t.advance x.next
      let t := match w, x.a with
        | _, .fe _ => t
        | some w, _ => t.remember (bufEntries x.pc w size)
        | none, _ => t
      if moved.contains l then { t.settle with armed := t.armed, resumed := if (x.thread l).resumed = t.resumed then none else t.resumed }
      else t.settle)
    (fun l t => by
      dsimp only
      by_cases hm : moved.contains l <;> simp only [hm, if_true, Bool.false_eq_true, if_false]
      · split <;> rfl
      · split <;> exact hadv t _)
    (fun l t => by
      dsimp only
      by_cases hm : moved.contains l <;> simp only [hm, if_true, Bool.false_eq_true, if_false]
      · split <;> rfl
      · split <;> exact hadvp t _)
    group s1
  generalize hS2 : List.foldl _ s1 group = s2 at h2 ⊢
  obtain ⟨k2, n2, p2⟩ := h2
  have h3 := fun y => ((Calm.markYield (a := x.a) (b := x.a) s2 y).trans (Calm.endWait _)).trans (Calm.dropUsed _ group)
  generalize hy : List.any group _ = y
  have h3 := h3 y
  generalize hS3 : (((s2.markYield x.a y).endWait x.a).dropUsed x.a group) = s3 at h3 ⊢
  generalize hb : List.filter _ moved = backs
  have h4 : Calm x.a s3 (match x.a with
      | .wheel _ _ => s3.enterBuffers x.a backs
      | _ => s3) := by
    split
    · exact Calm.enterBuffers s3 backs
    · exact Calm.refl
  have h5 := h4.trans (Calm.releaseSync _)
  generalize hS5 : State.releaseSync _ x.a = s5 at h5 ⊢
  have h35 := h3.trans h5
  have hex : (s5.thread x.a live).exited = false := by
    have e2 : (s2.thread x.a live).exited = (s1.thread x.a live).exited := by
      have := congrArg Thread.exited ((thread_kept s2 x.a live).symm.trans
        ((congrArg (fun z => (State.thread z x.a live).kept) k2).trans (thread_kept s1 x.a live)))
      simpa [Thread.kept] using this
    rw [h35.exited, e2, h1.exited, he]
  have hlen : live < (s5.threads x.a).length := by rw [h35.len, n2, h1.len]; exact hl
  rw [releaseClaims_live s5 x.a live hlen hex]
  refine ⟨h35.kept.trans (k2.trans h1.kept), fun l => ?_⟩
  rw [h35.pcs, p2, h1.len, h1.pcs]

/-- A lane of an agent's group is one of its threads, and counts there. -/
theorem group_mem {s : State} {a : Agent} {l : Nat} (h : l ∈ s.group a) :
    l < (s.threads a).length ∧ (s.thread a l).exited = false := by
  unfold State.group at h
  split at h
  · simp at h
  · rename_i pc _
    dsimp only at h
    have key : l ∈ (List.range (s.threads a).length).filter (fun i => (s.thread a i).pc == pc && !(s.thread a i).halted &&
        !(s.thread a i).stopped && (s.thread a i).due.isNone && (match a with
        | .buf _ _ => (s.thread a i).buffered
        | _ => (s.thread a i).counts)) := by
      cases a with
      | buf m w =>
        simp only at h
        split at h
        · exact (List.mem_filter.mp h).1
        · exact h
      | fe n => exact h
      | wheel m w => exact h
    obtain ⟨h1, h2⟩ := List.mem_filter.mp key
    refine ⟨List.mem_range.mp h1, ?_⟩
    simp only [Bool.and_eq_true] at h2
    have h3 := h2.2
    cases a <;> simp only [Thread.counts, Thread.buffered, Bool.and_eq_true, Bool.not_eq_true'] at h3 <;> exact h3.1.1.1
theorem lanes_lt {st : State} {l : Nat} (h : l ∈ st.lanes) : l < (st.ready.threads st.cur).length := (group_mem h).1
theorem lanes_live {st : State} {l : Nat} (h : l ∈ st.lanes) : (st.ready.thread st.cur l).exited = false := (group_mem h).2
theorem takers_lanes {st : State} {op : BitVec 8} {f : Fields} {sh : Shape} {l : Nat} (h : l ∈ st.takers op f sh) :
    l ∈ st.lanes := (List.mem_filter.mp h).1

/-- The answer of an issue in which no lane is stopped, by what the operation of the word answers. -/
theorem issue_eq {op : BitVec 8} {shape : Fields → Agent → Shape} {body : Ctx → Body} {f : Fields} {st : State}
    (h : st.Issues op f (shape f st.cur)) :
    ∃ skip, issue op shape body f st =
      let x := st.ctx op f (shape f st.cur)
      let fin := finishIssue x f (shape f st.cur) st.lanes (some (encodeFields op f)) (lenBytes f.len) skip
      let held := fun (s : State) (ok : List Nat) (bad : List (Nat × FaultInfo)) => if ok.isEmpty && bad.isEmpty then s
        else x.parts.foldl (fun s l => s.modThread st.cur l fun t =>
          { t with armed := some ⟨t.depth, st.pcNow, laneMask ok, bad.map lostOf⟩ }) s
      match body x with
      | .done s' faults moved => fin s' (faults.map fun p => (p.1, p.2, none)) moved
      | .all fi => fin st.ready (x.parts.map fun l => (l, fi, none)) []
      | .coll s' fi failed ok =>
        fin s' (x.parts.map fun l => (l, { fi with lanes := some (laneMask failed, laneMask ok) }, some (laneMask ok))) []
      | .wait s' lane e stop ok bad =>
        .next (x.parts.foldl (fun s l => s.modThread st.cur l fun t => { t with blocked := stop })
          (held ((if stop then s'.stallWheel st.cur else s').stallOn st.cur lane e) ok bad)) := by
  obtain ⟨hsome, hpass, hclaim, hfresh⟩ := h
  obtain ⟨live, hl⟩ : ∃ l, l ∈ st.lanes := by
    cases hx : st.takers op f (shape f st.cur) with
    | nil => exact absurd hx hsome
    | cons l _ => exact ⟨l, takers_lanes (by rw [hx]; simp)⟩
  have hready : st.leaveBuffers st.cur = st.ready := rfl
  have hgroup : st.ready.group st.cur = st.lanes := rfl
  have hne : (st.threads st.cur).isEmpty = false := by
    have := lanes_lt hl
    rw [show (st.ready.threads st.cur).length = (st.threads st.cur).length from (Calm.leaveBuffers st).len] at this
    cases hx : st.threads st.cur with
    | nil => rw [hx] at this; simp at this
    | cons _ _ => rfl
  unfold issue
  simp only [hne, Bool.false_eq_true, if_false, hready, hgroup]
  cases hlanes : st.lanes with
  | nil => rw [hlanes] at hl; simp at hl
  | cons l0 ls =>
    simp only []
    rw [← hlanes]
    have hbad : (st.lanes.map fun l => (l, st.ready.checkLane st.cur op f (shape f st.cur) l)).filterMap laneBad = [] := by
      rw [List.filterMap_map, List.filterMap_eq_nil_iff]
      intro l hl
      rcases hpass l hl with h | h <;> simp [laneBad, h]
    have hhaz : (st.lanes.map fun l => (l, st.ready.checkLane st.cur op f (shape f st.cur) l)).filterMap laneHaz = [] := by
      rw [List.filterMap_map, List.filterMap_eq_nil_iff]
      intro l hl
      rcases hpass l hl with h | h <;> simp [laneHaz, h]
    have hparts : ∀ keep : Nat × LaneCheck → Bool, (∀ l ∈ st.lanes,
          keep (l, st.ready.checkLane st.cur op f (shape f st.cur) l) = (st.ready.checkLane st.cur op f (shape f st.cur) l == .go)) →
        ((st.lanes.map fun l => (l, st.ready.checkLane st.cur op f (shape f st.cur) l)).filter keep).map Prod.fst =
          st.takers op f (shape f st.cur) := by
      intro keep hkeep
      rw [List.filter_map, List.map_map]
      unfold State.takers
      rw [show (Prod.fst ∘ fun l => (l, st.ready.checkLane st.cur op f (shape f st.cur) l)) = id from rfl, List.map_id]
      exact List.filter_congr hkeep
    have hruns := hparts laneRuns fun l hl => by rcases hpass l hl with h | h <;> simp [laneRuns, laneHaz, h]
    have hact := hparts laneActive fun l hl => by rcases hpass l hl with h | h <;> simp [laneActive, laneRuns, laneHaz, h]
    rw [hbad, hhaz, hruns, hact]
    have hdone : ∀ pc, (st.takers op f (shape f st.cur)).filter (fun l => (st.ready.thread st.cur l).doneAt pc l) = [] := by
      intro pc
      rw [List.filter_eq_nil_iff]
      intro l hl
      simp [Thread.doneAt, hfresh l (takers_lanes hl)]
    have hlost : (st.ready.thread st.cur ((st.takers op f (shape f st.cur)).headD 0)).lostAt (st.ready.thread st.cur l0).pc = [] := by
      cases hx : st.takers op f (shape f st.cur) with
      | nil => exact absurd hx hsome
      | cons k _ => simp [Thread.lostAt, hfresh k (takers_lanes (by rw [hx]; simp))]
    simp only [hdone, hlost, List.contains_nil, List.any_nil, Bool.not_false, Bool.and_self, List.filter_true, List.map_nil, List.nil_append]
    have htk : (st.takers op f (shape f st.cur)).isEmpty = false := by
      cases hx : st.takers op f (shape f st.cur) with
      | nil => exact absurd hx hsome
      | cons _ _ => rfl
    have hpc : (st.ready.thread st.cur l0).pc = st.pcNow := by simp [State.pcNow, hlanes]
    rw [htk, hclaim, hpc]
    simp only [Bool.false_eq_true, if_false]
    have hx : (⟨st.cur, ownFields f (shape f st.cur), st.pcNow, st.pcNow + BitVec.ofNat 64 (lenBytes f.len),
        st.takers op f (shape f st.cur), st.takers op f (shape f st.cur), [], st.ready⟩ : Ctx) = st.ctx op f (shape f st.cur) := rfl
    rw [hx]
    exact ⟨_, rfl⟩

/-- Everything an issue does when no lane is stopped and the operation of the word ends without a fault: what the operation
has done is kept, and the lanes that it has not placed itself go on to the next word. -/
theorem issue_done {op : BitVec 8} {shape : Fields → Agent → Shape} {body : Ctx → Body} {f : Fields} {st s' : State}
    {moved : List Nat} (h : st.Issues op f (shape f st.cur)) (hb : body (st.ctx op f (shape f st.cur)) = .done s' [] moved)
    (hlen : (s'.threads st.cur).length = (st.ready.threads st.cur).length)
    (hlive : ∃ l ∈ st.lanes, (s'.thread st.cur l).exited = false) :
    ∃ t, issue op shape body f st = .next t ∧ t.kept = s'.kept ∧
      ∀ l, (t.thread st.cur l).pc =
        if l ∈ st.lanes ∧ l ∉ moved then st.pcNext f else (s'.thread st.cur l).pc := by
  obtain ⟨live, hl, he⟩ := hlive
  obtain ⟨skip, hi⟩ := issue_eq (body := body) h
  rw [hi]
  simp only [hb, List.map_nil]
  obtain ⟨t, ht, hk, hp⟩ := finishIssue_ok (st.ctx op f (shape f st.cur)) f (shape f st.cur) st.lanes
    (some (encodeFields op f)) (lenBytes f.len) skip s' moved live (hlen ▸ lanes_lt hl) he
  refine ⟨t, ht, hk, fun l => (hp l).trans ?_⟩
  by_cases h1 : l ∈ st.lanes
  · have := lanes_lt h1
    rw [← hlen] at this
    by_cases h2 : l ∈ moved <;> simp [h1, h2, State.ctx, State.pcNext, this]
  · simp [h1, State.ctx]

/-- A word whose operation waits, with nothing done and nothing asked for: no lane moves. -/
theorem issue_wait {op : BitVec 8} {shape : Fields → Agent → Shape} {body : Ctx → Body} {f : Fields} {st : State} {lane : Nat}
    {stop : Bool} (h : st.Issues op f (shape f st.cur))
    (hb : body (st.ctx op f (shape f st.cur)) = .wait st.ready lane .stall stop [] []) :
    ∃ t, issue op shape body f st = .next t ∧ t.kept = st.ready.kept ∧
      ∀ l, (t.thread st.cur l).pc = (st.ready.thread st.cur l).pc := by
  obtain ⟨skip, hi⟩ := issue_eq (body := body) h
  rw [hi]
  simp only [hb]
  have stalled : Calm st.cur st.ready (if stop then st.ready.stallWheel st.cur else st.ready) := by
    split
    · exact Calm.stall _ _
    · exact Calm.refl
  have all := stalled.trans (Calm.foldl (fun s l => s.modThread st.cur l fun t => { t with blocked := stop })
    (fun s l => Calm.modThread s l _ (fun _ => rfl) fun _ => rfl) (st.ctx op f (shape f st.cur)).parts _)
  exact ⟨_, rfl, all.kept, all.pcs⟩

end Sys2Proof.Machine
end

