-- ==== Sys2Proof/Laws/Forms.lean ====
section
/-! SUPPORT. The forms of an instruction's own operation: what each leaves of the threads' PCs and ends, and what the issue of a
word of that form does (`issue_ok`, `issue_write`, `issue_long`, `issue_guard`, `issue_lane`). -/

namespace Sys2Proof.Machine

/-- The ends and PCs of an agent's threads: what the rest of an issue depends on. -/
def State.marks (s : State) (a : Agent) : List (Bool × DWord) := (s.threads a).map fun t => (t.exited, t.pc)

theorem marks_of {s s' : State} {a : Agent} (h1 : s'.mills = s.mills) (h2 : s'.fe = s.fe) : s'.marks a = s.marks a := by
  unfold State.marks State.threads State.wheel? State.mill?
  cases a <;> simp [h1, h2]
theorem marks_length {s s' : State} {a : Agent} (h : s'.marks a = s.marks a) : (s'.threads a).length = (s.threads a).length := by
  have := congrArg List.length h
  simpa [State.marks] using this
theorem marks_get (s : State) (a : Agent) (l : Nat) :
    ((s.thread a l).exited, (s.thread a l).pc) = ((s.marks a).getD l (false, 0)) ∨ (s.marks a)[l]? = none := by
  unfold State.thread State.marks
  simp only [List.getD_eq_getElem?_getD, List.getElem?_map]
  cases (s.threads a)[l]? <;> simp
theorem marks_thread {s s' : State} {a : Agent} (h : s'.marks a = s.marks a) (l : Nat) :
    (s'.thread a l).exited = (s.thread a l).exited ∧ (s'.thread a l).pc = (s.thread a l).pc := by
  have hl := congrArg (fun m => m[l]?) h
  unfold State.thread
  simp only [State.marks, List.getElem?_map, List.getD_eq_getElem?_getD] at hl ⊢
  cases h1 : (s'.threads a)[l]? <;> cases h2 : (s.threads a)[l]? <;> simp_all
theorem marks_modThread (s : State) (a : Agent) (l : Nat) (g : Thread → Thread)
    (he : ∀ t, (g t).exited = t.exited) (hp : ∀ t, (g t).pc = t.pc) : (s.modThread a l g).marks a = s.marks a := by
  unfold State.marks
  rw [threads_modThread]
  exact modAt_map _ _ (fun t => by simp [he, hp]) _ _
theorem marks_modMill (s : State) (a : Agent) (uid : Nat) (f : Mill → Mill) (hu : ∀ m, (f m).uid = m.uid)
    (hw : ∀ m, (f m).wheels = m.wheels) : (s.modMill uid f).marks a = s.marks a := by
  have key : ∀ k, ((s.modMill uid f).mill? k).map Mill.wheels = (s.mill? k).map Mill.wheels := fun k => by
    rw [mill?_modMill s uid f hu]
    cases s.mill? k with
    | none => rfl
    | some m => by_cases h : m.uid = uid <;> simp [h, hw]
  have hth : (s.modMill uid f).wheel? a = s.wheel? a := by
    unfold State.wheel?
    cases a.mill with
    | none => rfl
    | some k =>
      have := key k
      simp only [Option.bind_eq_bind, Option.bind_some]
      cases h1 : (s.modMill uid f).mill? k <;> cases h2 : s.mill? k <;> simp_all
  unfold State.marks State.threads
  cases a with
  | fe n => rfl
  | wheel m w => simp only [hth]
  | buf m w => simp only [hth]
theorem marks_foldl {α : Type} {a : Agent} (f : State → α → State) (h : ∀ s x, (f s x).marks a = s.marks a) :
    ∀ (l : List α) (s : State), (l.foldl f s).marks a = s.marks a
  | [], _ => rfl
  | x :: xs, s => (marks_foldl f h xs (f s x)).trans (h s x)

theorem marks_uniPut (s : State) (a : Agent) (l n : Nat) (w : Word) : (s.uniPut a l n w).marks a = s.marks a := by
  unfold State.uniPut
  split
  · exact marks_modThread s a l _ (fun _ => rfl) (fun _ => rfl)
  · exact marks_modMill s a _ _ (fun _ => rfl) (fun _ => rfl)
theorem setV_marks (t : Thread) (n : Nat) (w : Word) : (t.setV n w).exited = t.exited ∧ (t.setV n w).pc = t.pc := ⟨rfl, rfl⟩
theorem setVs_marks (d : Nat) (vs : List Word) (ks : List Nat) (t : Thread) :
    (ks.foldl (fun t k => t.setV (d + k) (vs.getD k 0)) t).exited = t.exited ∧
    (ks.foldl (fun t k => t.setV (d + k) (vs.getD k 0)) t).pc = t.pc := by
  induction ks generalizing t with
  | nil => exact ⟨rfl, rfl⟩
  | cons k ks ih => exact ⟨(ih _).1, (ih _).2⟩
theorem marks_putD (s : State) (a : Agent) (f : Fields) (l lo : Nat) (vs : List Word) : (s.putD a f l lo vs).marks a = s.marks a := by
  unfold State.putD
  dsimp only
  split
  · exact marks_modThread s a l _ (fun t => (setVs_marks _ vs _ t).1) (fun t => (setVs_marks _ vs _ t).2)
  · split
    · exact marks_foldl _ (fun s k => marks_uniPut s a l _ _) _ s
    · rfl
theorem marks_startLong (s : State) (a : Agent) (f : Fields) (l lo : Nat) (ds : List Dst) (vs : List Word) (fl : BitVec 5)
    (w : Option Nat) (e : Nat) (ps : List (Nat × Option (List Byte))) (lk : Option Look) :
    (s.startLong a f l lo ds vs fl w e ps lk).marks a = s.marks a := by
  unfold State.startLong
  refine (marks_of (s := s.modThread a l _) rfl rfl).trans ?_
  exact marks_modThread s a l _ (fun _ => rfl) (fun _ => rfl)
theorem setGuard_marks (t : Thread) (k : Nat) (b : Bool) : (t.setGuard k b).exited = t.exited ∧ (t.setGuard k b).pc = t.pc := by
  unfold Thread.setGuard
  split <;> exact ⟨rfl, rfl⟩
theorem raise_marks (t : Thread) (fl : BitVec 5) : (t.raise fl).exited = t.exited ∧ (t.raise fl).pc = t.pc := by
  unfold Thread.raise
  try split
  all_goals exact ⟨rfl, rfl⟩

/-! ### Issues of each form -/

/-- A word whose operation ends without a fault and without placing a lane: what the operation did is kept, and the lanes of the
issue go on. -/
theorem issue_ok {op : BitVec 8} {shape : Fields → Agent → Shape} {body : Ctx → Body} {f : Fields} {st s' : State}
    (h : st.Issues op f (shape f st.cur)) (hb : body (st.ctx op f (shape f st.cur)) = .done s' [] [])
    (hm : s'.marks st.cur = st.ready.marks st.cur) :
    ∃ t, issue op shape body f st = .next t ∧ t.kept = s'.kept ∧ st.wentOn f t := by
  have hl : ∃ l, l ∈ st.takers op f (shape f st.cur) := by
    cases hx : st.takers op f (shape f st.cur) with
    | nil => exact absurd hx h.some
    | cons l _ => exact ⟨l, by simp⟩
  obtain ⟨l, hl⟩ := hl
  have hl := takers_lanes hl
  obtain ⟨t, ht, hk, hp⟩ := issue_done h hb (marks_length hm) ⟨l, hl, (marks_thread hm l).1.trans (lanes_live hl)⟩
  refine ⟨t, ht, hk, fun k => (hp k).trans ?_⟩
  simp [(marks_thread hm k).2]

/-- What the checks of an issuing word say of its fields: SUB is listed, and the operands are legal (R46). -/
theorem State.Issues.go {st : State} {op : BitVec 8} {f : Fields} {sh : Shape} (h : st.Issues op f sh) :
    ∃ l ∈ st.lanes, st.ready.checkLane st.cur op f sh l = .go := by
  cases hx : st.takers op f sh with
  | nil => exact absurd hx h.some
  | cons l _ =>
    have : l ∈ st.takers op f sh := by simp [hx]
    exact ⟨l, takers_lanes this, by simpa using (List.mem_filter.mp this).2⟩
theorem State.Issues.listed {st : State} {op : BitVec 8} {f : Fields} {sh : Shape} (h : st.Issues op f sh) :
    subListed op f.sub = true := by
  obtain ⟨l, _, hl⟩ := h.go
  have hf : (ownFields f sh).sub = f.sub := by unfold ownFields; split <;> rfl
  by_contra hn
  simp only [Bool.not_eq_true] at hn
  unfold State.checkLane at hl
  simp only [hf, hn, Bool.not_false, if_true] at hl
  repeat' (split at hl)
  all_goals simp at hl
theorem State.Issues.legal {st : State} {op : BitVec 8} {f : Fields} {sh : Shape} (h : st.Issues op f sh) :
    operandSub f sh = none := by
  obtain ⟨l, _, hl⟩ := h.go
  unfold State.checkLane at hl
  cases hn : operandSub f sh with
  | none => rfl
  | some k =>
    simp only [hn] at hl
    repeat' (split at hl)
    all_goals simp at hl
/-- Participants are those that take part, and all are still to perform. -/
theorem ctx_parts (st : State) (op : BitVec 8) (f : Fields) (sh : Shape) :
    (st.ctx op f sh).parts = st.takers op f sh ∧ (st.ctx op f sh).todo = st.takers op f sh ∧ (st.ctx op f sh).a = st.cur ∧
      (st.ctx op f sh).s0 = st.ready ∧ (st.ctx op f sh).f = ownFields f sh := ⟨rfl, rfl, rfl, rfl, rfl⟩

theorem marks_writes (x : Ctx) (val : Nat → List Word) (fl : Nat → BitVec 5) : (x.writes val fl).marks x.a = x.s0.marks x.a := by
  unfold Ctx.writes
  apply marks_foldl
  intro s l
  exact (marks_modThread _ _ _ _ (fun t => (raise_marks t _).1) (fun t => (raise_marks t _).2)).trans (marks_putD s _ _ _ _ _)
theorem marks_begins (x : Ctx) (val : Nat → List Word) (fl : Nat → BitVec 5) : (x.begins val fl).marks x.a = x.s0.marks x.a := by
  unfold Ctx.begins
  apply marks_foldl
  intro s l
  exact marks_startLong ..
theorem marks_looks (x : Ctx) (k : Nat → Look) : (x.looks k).marks x.a = x.s0.marks x.a := by
  unfold Ctx.looks
  apply marks_foldl
  intro s l
  exact marks_startLong ..
theorem marks_guards (x : Ctx) (k : Nat) (val : Nat → Bool) (fl : Nat → BitVec 5) :
    (x.guards k val fl).marks x.a = x.s0.marks x.a := by
  unfold Ctx.guards
  apply marks_foldl
  intro s l
  exact marks_modThread _ _ _ _ (fun t => (raise_marks _ _).1.trans (setGuard_marks t k _).1)
    (fun t => (raise_marks _ _).2.trans (setGuard_marks t k _).2)

theorem eachWrite_eq {x : Ctx} {v : Nat → List Word × BitVec 5} {val : Nat → List Word} {fl : Nat → BitVec 5}
    (h : ∀ l, v l = (val l, fl l)) : eachWrite x v = .done (x.writes val fl) [] [] := by
  unfold eachWrite Ctx.writes
  simp only [h]
theorem eachLong_eq {x : Ctx} {v : Nat → List Word × BitVec 5} {val : Nat → List Word} {fl : Nat → BitVec 5}
    (h : ∀ l, v l = (val l, fl l)) : eachLong x v = .done (x.begins val fl) [] [] := by
  unfold eachLong Ctx.begins
  simp only [h]
theorem eachGuard_eq {x : Ctx} {k : Nat} {v : Nat → Bool × BitVec 5} {val : Nat → Bool} {fl : Nat → BitVec 5}
    (h : ∀ l, v l = (val l, fl l)) : eachGuard x k v = .done (x.guards k val fl) [] [] := by
  unfold eachGuard Ctx.guards
  simp only [h]

/-- Lane by lane: when every participant's part passes, `eachLane` ends with what they did. -/
theorem eachLane_ok {x : Ctx} {op : State → Nat → Except AErr State} {s' : State} (h : x.todo.foldlM op x.s0 = .ok s') :
    eachLane x op = .done s' [] [] := by
  have key : ∀ (ls : List Nat) (s s' : State), ls.foldlM op s = .ok s' →
      ls.foldl (laneStep op) (s, [], none) = (s', [], none) := by
    intro ls
    induction ls with
    | nil => intro s s' h; cases h; rfl
    | cons l ls ih =>
      intro s s' h
      rw [List.foldlM_cons] at h
      cases hl : op s l with
      | error e => rw [hl] at h; cases h
      | ok s1 =>
        rw [hl] at h
        simp only [List.foldl_cons, laneStep, hl]
        exact ih s1 s' h
  unfold eachLane
  simp only [key _ _ _ h]
/-- The same for a collective. -/
theorem eachRow_ok {x : Ctx} {op : State → Nat → Except AErr State} {s' : State} (h : x.todo.foldlM op x.s0 = .ok s') :
    eachRow x op = .done s' [] [] := by
  have key : ∀ (ls : List Nat) (s s' : State) (d : List Nat), ls.foldlM op s = .ok s' →
      ∃ d', ls.foldl (rowStep op) (s, [], d, none) = (s', [], d', none) := by
    intro ls
    induction ls with
    | nil => intro s s' d h; cases h; exact ⟨d, rfl⟩
    | cons l ls ih =>
      intro s s' d h
      rw [List.foldlM_cons] at h
      cases hl : op s l with
      | error e => rw [hl] at h; cases h
      | ok s1 =>
        rw [hl] at h
        simp only [List.foldl_cons, rowStep, hl]
        exact ih s1 s' _ h
  obtain ⟨d', hd⟩ := key _ _ _ [] h
  unfold eachRow
  simp only [hd]
theorem marks_foldlM {a : Agent} {op : State → Nat → Except AErr State} (hm : ∀ s l s', op s l = .ok s' → s'.marks a = s.marks a) :
    ∀ (ls : List Nat) (s s' : State), ls.foldlM op s = .ok s' → s'.marks a = s.marks a
  | [], s, s', h => by cases h; rfl
  | l :: ls, s, s', h => by
    rw [List.foldlM_cons] at h
    cases hl : op s l with
    | error e => rw [hl] at h; cases h
    | ok s1 =>
      rw [hl] at h
      exact (marks_foldlM hm ls s1 s' h).trans (hm s l s1 hl)
/-- The registers of an integer result, by its width (R73). -/
theorem outW_eq {x : Ctx} {n : Nat} {w : Word} {d : DWord} (h32 : isD x.f = false → BitVec.ofNat 32 n = w)
    (h64 : isD x.f = true → BitVec.ofNat 64 n = d) : outW (wBits x.f) n = x.out w d := by
  unfold outW wBits Ctx.out
  cases hd : isD x.f
  · simp [h32 hd]
  · have := h64 hd
    subst this
    simp only [if_true, DWord.lo, DWord.hi]
    congr 1
    · apply BitVec.eq_of_toNat_eq
      simp [BitVec.toNat_ofNat]
    · congr 1
      apply BitVec.eq_of_toNat_eq
      simp [BitVec.toNat_ofNat, Nat.shiftRight_eq_div_pow]
      omega
theorem u_word {x : Ctx} (h : isD x.f = false) (l : Nat) (fld : Fld) : x.u l fld = (x.w l fld).toNat := by simp [Ctx.u, h]
theorem u_pair {x : Ctx} (h : isD x.f = true) (l : Nat) (fld : Fld) : x.u l fld = (x.dw l fld).toNat := by simp [Ctx.u, h]
theorem wBits_word {f : Fields} (h : isD f = false) : wBits f = 32 := by simp [wBits, h]
theorem wBits_pair {f : Fields} (h : isD f = true) : wBits f = 64 := by simp [wBits, h]
theorem signedOf_toInt {w : Nat} (hw : 0 < w) (b : BitVec w) : signedOf w b.toNat = b.toInt := by
  have hb := b.isLt
  obtain ⟨k, rfl⟩ : ∃ k, w = k + 1 := ⟨w - 1, by omega⟩
  have h2 : (2 : Nat) ^ (k + 1) = 2 * 2 ^ k := by rw [pow_succ]; ring
  rw [BitVec.toInt_eq_toNat_cond]
  unfold signedOf bitAt
  simp only [Nat.add_sub_cancel]
  have hq : b.toNat / 2 ^ k < 2 := by
    rw [Nat.div_lt_iff_lt_mul (by positivity)]; omega
  have key : (b.toNat / 2 ^ k % 2 == 1) = decide (¬ 2 * b.toNat < 2 ^ (k + 1)) := by
    rw [Nat.mod_eq_of_lt hq, h2]
    by_cases h : b.toNat < 2 ^ k
    · simp [Nat.div_eq_of_lt h, h]
    · have : b.toNat / 2 ^ k = 1 := by
        have := (Nat.one_le_div_iff (by positivity : 0 < 2 ^ k)).mpr (not_lt.mp h)
        omega
      simp [this, h]
  rw [key]
  by_cases h : 2 * b.toNat < 2 ^ (k + 1) <;> simp [h]
theorem ofNat_modW (w : Nat) (i : Int) : BitVec.ofNat w (modW w i) = BitVec.ofInt w i := by
  apply BitVec.eq_of_toNat_eq
  unfold modW
  rw [BitVec.toNat_ofNat, BitVec.toNat_ofInt]
  have h : (i % ((2 ^ w : Nat) : Int)).toNat < 2 ^ w := by
    have h1 := Int.emod_lt_of_pos i (by positivity : (0 : Int) < ((2 ^ w : Nat) : Int))
    have h2 := Int.emod_nonneg i (by positivity : ((2 ^ w : Nat) : Int) ≠ 0)
    omega
  exact Nat.mod_eq_of_lt h

end Sys2Proof.Machine
end

