-- ==== Sys2Proof/Laws/State.lean ====
section
/-! SUPPORT. What each update of the state and of a thread leaves: one lemma per field per update. -/

namespace Sys2Proof.Machine

/-! ### State.modMill -/

@[simp] theorem State.modMill_mem (s : State) (uid : Nat) (f : Mill → Mill) : (s.modMill uid f).mem = s.mem := rfl
@[simp] theorem State.modMill_lineKeys (s : State) (uid : Nat) (f : Mill → Mill) : (s.modMill uid f).lineKeys = s.lineKeys := rfl
@[simp] theorem State.modMill_kidGens (s : State) (uid : Nat) (f : Mill → Mill) : (s.modMill uid f).kidGens = s.kidGens := rfl
@[simp] theorem State.modMill_poison (s : State) (uid : Nat) (f : Mill → Mill) : (s.modMill uid f).poison = s.poison := rfl
@[simp] theorem State.modMill_fixed (s : State) (uid : Nat) (f : Mill → Mill) : (s.modMill uid f).fixed = s.fixed := rfl
@[simp] theorem State.modMill_sramErrs (s : State) (uid : Nat) (f : Mill → Mill) : (s.modMill uid f).sramErrs = s.sramErrs := rfl
@[simp] theorem State.modMill_posted (s : State) (uid : Nat) (f : Mill → Mill) : (s.modMill uid f).posted = s.posted := rfl
@[simp] theorem State.modMill_settle (s : State) (uid : Nat) (f : Mill → Mill) : (s.modMill uid f).settle = s.settle := rfl
@[simp] theorem State.modMill_places (s : State) (uid : Nat) (f : Mill → Mill) : (s.modMill uid f).places = s.places := rfl
@[simp] theorem State.modMill_dies (s : State) (uid : Nat) (f : Mill → Mill) : (s.modMill uid f).dies = s.dies := rfl
@[simp] theorem State.modMill_xmsgs (s : State) (uid : Nat) (f : Mill → Mill) : (s.modMill uid f).xmsgs = s.xmsgs := rfl
@[simp] theorem State.modMill_tlb (s : State) (uid : Nat) (f : Mill → Mill) : (s.modMill uid f).tlb = s.tlb := rfl
@[simp] theorem State.modMill_tlb2 (s : State) (uid : Nat) (f : Mill → Mill) : (s.modMill uid f).tlb2 = s.tlb2 := rfl
@[simp] theorem State.modMill_reqs (s : State) (uid : Nat) (f : Mill → Mill) : (s.modMill uid f).reqs = s.reqs := rfl
@[simp] theorem State.modMill_feLog (s : State) (uid : Nat) (f : Mill → Mill) : (s.modMill uid f).feLog = s.feLog := rfl
@[simp] theorem State.modMill_moves (s : State) (uid : Nat) (f : Mill → Mill) : (s.modMill uid f).moves = s.moves := rfl
@[simp] theorem State.modMill_code (s : State) (uid : Nat) (f : Mill → Mill) : (s.modMill uid f).code = s.code := rfl
@[simp] theorem State.modMill_clk (s : State) (uid : Nat) (f : Mill → Mill) : (s.modMill uid f).clk = s.clk := rfl
@[simp] theorem State.modMill_feClk (s : State) (uid : Nat) (f : Mill → Mill) : (s.modMill uid f).feClk = s.feClk := rfl
@[simp] theorem State.modMill_grids (s : State) (uid : Nat) (f : Mill → Mill) : (s.modMill uid f).grids = s.grids := rfl
@[simp] theorem State.modMill_gangs (s : State) (uid : Nat) (f : Mill → Mill) : (s.modMill uid f).gangs = s.gangs := rfl
@[simp] theorem State.modMill_cmds (s : State) (uid : Nat) (f : Mill → Mill) : (s.modMill uid f).cmds = s.cmds := rfl
@[simp] theorem State.modMill_fe (s : State) (uid : Nat) (f : Mill → Mill) : (s.modMill uid f).fe = s.fe := rfl
@[simp] theorem State.modMill_evq (s : State) (uid : Nat) (f : Mill → Mill) : (s.modMill uid f).evq = s.evq := rfl
@[simp] theorem State.modMill_parts (s : State) (uid : Nat) (f : Mill → Mill) : (s.modMill uid f).parts = s.parts := rfl
@[simp] theorem State.modMill_queues (s : State) (uid : Nat) (f : Mill → Mill) : (s.modMill uid f).queues = s.queues := rfl
@[simp] theorem State.modMill_wake (s : State) (uid : Nat) (f : Mill → Mill) : (s.modMill uid f).wake = s.wake := rfl
@[simp] theorem State.modMill_board (s : State) (uid : Nat) (f : Mill → Mill) : (s.modMill uid f).board = s.board := rfl
@[simp] theorem State.modMill_trust (s : State) (uid : Nat) (f : Mill → Mill) : (s.modMill uid f).trust = s.trust := rfl
@[simp] theorem State.modMill_ports (s : State) (uid : Nat) (f : Mill → Mill) : (s.modMill uid f).ports = s.ports := rfl
@[simp] theorem State.modMill_txns (s : State) (uid : Nat) (f : Mill → Mill) : (s.modMill uid f).txns = s.txns := rfl
@[simp] theorem State.modMill_inbox (s : State) (uid : Nat) (f : Mill → Mill) : (s.modMill uid f).inbox = s.inbox := rfl
@[simp] theorem State.modMill_snap (s : State) (uid : Nat) (f : Mill → Mill) : (s.modMill uid f).snap = s.snap := rfl
@[simp] theorem State.modMill_snapAt (s : State) (uid : Nat) (f : Mill → Mill) : (s.modMill uid f).snapAt = s.snapAt := rfl
@[simp] theorem State.modMill_snapDue (s : State) (uid : Nat) (f : Mill → Mill) : (s.modMill uid f).snapDue = s.snapDue := rfl
@[simp] theorem State.modMill_served (s : State) (uid : Nat) (f : Mill → Mill) : (s.modMill uid f).served = s.served := rfl
@[simp] theorem State.modMill_holders (s : State) (uid : Nat) (f : Mill → Mill) : (s.modMill uid f).holders = s.holders := rfl
@[simp] theorem State.modMill_watch (s : State) (uid : Nat) (f : Mill → Mill) : (s.modMill uid f).watch = s.watch := rfl
@[simp] theorem State.modMill_debugOut (s : State) (uid : Nat) (f : Mill → Mill) : (s.modMill uid f).debugOut = s.debugOut := rfl
@[simp] theorem State.modMill_waitTl (s : State) (uid : Nat) (f : Mill → Mill) : (s.modMill uid f).waitTl = s.waitTl := rfl
@[simp] theorem State.modMill_devSeq (s : State) (uid : Nat) (f : Mill → Mill) : (s.modMill uid f).devSeq = s.devSeq := rfl
@[simp] theorem State.modMill_agenda (s : State) (uid : Nat) (f : Mill → Mill) : (s.modMill uid f).agenda = s.agenda := rfl
@[simp] theorem State.modMill_picks (s : State) (uid : Nat) (f : Mill → Mill) : (s.modMill uid f).picks = s.picks := rfl
@[simp] theorem State.modMill_cur (s : State) (uid : Nat) (f : Mill → Mill) : (s.modMill uid f).cur = s.cur := rfl
@[simp] theorem State.modMill_steps (s : State) (uid : Nat) (f : Mill → Mill) : (s.modMill uid f).steps = s.steps := rfl
@[simp] theorem State.modMill_fresh (s : State) (uid : Nat) (f : Mill → Mill) : (s.modMill uid f).fresh = s.fresh := rfl
@[simp] theorem State.modMill_free (s : State) (uid : Nat) (f : Mill → Mill) : (s.modMill uid f).free = s.free := rfl

/-! ### State.modGang -/

@[simp] theorem State.modGang_mem (s : State) (uid : Nat) (f : Gang → Gang) : (s.modGang uid f).mem = s.mem := rfl
@[simp] theorem State.modGang_lineKeys (s : State) (uid : Nat) (f : Gang → Gang) : (s.modGang uid f).lineKeys = s.lineKeys := rfl
@[simp] theorem State.modGang_kidGens (s : State) (uid : Nat) (f : Gang → Gang) : (s.modGang uid f).kidGens = s.kidGens := rfl
@[simp] theorem State.modGang_poison (s : State) (uid : Nat) (f : Gang → Gang) : (s.modGang uid f).poison = s.poison := rfl
@[simp] theorem State.modGang_fixed (s : State) (uid : Nat) (f : Gang → Gang) : (s.modGang uid f).fixed = s.fixed := rfl
@[simp] theorem State.modGang_sramErrs (s : State) (uid : Nat) (f : Gang → Gang) : (s.modGang uid f).sramErrs = s.sramErrs := rfl
@[simp] theorem State.modGang_posted (s : State) (uid : Nat) (f : Gang → Gang) : (s.modGang uid f).posted = s.posted := rfl
@[simp] theorem State.modGang_settle (s : State) (uid : Nat) (f : Gang → Gang) : (s.modGang uid f).settle = s.settle := rfl
@[simp] theorem State.modGang_places (s : State) (uid : Nat) (f : Gang → Gang) : (s.modGang uid f).places = s.places := rfl
@[simp] theorem State.modGang_dies (s : State) (uid : Nat) (f : Gang → Gang) : (s.modGang uid f).dies = s.dies := rfl
@[simp] theorem State.modGang_xmsgs (s : State) (uid : Nat) (f : Gang → Gang) : (s.modGang uid f).xmsgs = s.xmsgs := rfl
@[simp] theorem State.modGang_tlb (s : State) (uid : Nat) (f : Gang → Gang) : (s.modGang uid f).tlb = s.tlb := rfl
@[simp] theorem State.modGang_tlb2 (s : State) (uid : Nat) (f : Gang → Gang) : (s.modGang uid f).tlb2 = s.tlb2 := rfl
@[simp] theorem State.modGang_reqs (s : State) (uid : Nat) (f : Gang → Gang) : (s.modGang uid f).reqs = s.reqs := rfl
@[simp] theorem State.modGang_feLog (s : State) (uid : Nat) (f : Gang → Gang) : (s.modGang uid f).feLog = s.feLog := rfl
@[simp] theorem State.modGang_moves (s : State) (uid : Nat) (f : Gang → Gang) : (s.modGang uid f).moves = s.moves := rfl
@[simp] theorem State.modGang_code (s : State) (uid : Nat) (f : Gang → Gang) : (s.modGang uid f).code = s.code := rfl
@[simp] theorem State.modGang_clk (s : State) (uid : Nat) (f : Gang → Gang) : (s.modGang uid f).clk = s.clk := rfl
@[simp] theorem State.modGang_feClk (s : State) (uid : Nat) (f : Gang → Gang) : (s.modGang uid f).feClk = s.feClk := rfl
@[simp] theorem State.modGang_grids (s : State) (uid : Nat) (f : Gang → Gang) : (s.modGang uid f).grids = s.grids := rfl
@[simp] theorem State.modGang_mills (s : State) (uid : Nat) (f : Gang → Gang) : (s.modGang uid f).mills = s.mills := rfl
@[simp] theorem State.modGang_cmds (s : State) (uid : Nat) (f : Gang → Gang) : (s.modGang uid f).cmds = s.cmds := rfl
@[simp] theorem State.modGang_fe (s : State) (uid : Nat) (f : Gang → Gang) : (s.modGang uid f).fe = s.fe := rfl
@[simp] theorem State.modGang_evq (s : State) (uid : Nat) (f : Gang → Gang) : (s.modGang uid f).evq = s.evq := rfl
@[simp] theorem State.modGang_parts (s : State) (uid : Nat) (f : Gang → Gang) : (s.modGang uid f).parts = s.parts := rfl
@[simp] theorem State.modGang_queues (s : State) (uid : Nat) (f : Gang → Gang) : (s.modGang uid f).queues = s.queues := rfl
@[simp] theorem State.modGang_wake (s : State) (uid : Nat) (f : Gang → Gang) : (s.modGang uid f).wake = s.wake := rfl
@[simp] theorem State.modGang_board (s : State) (uid : Nat) (f : Gang → Gang) : (s.modGang uid f).board = s.board := rfl
@[simp] theorem State.modGang_trust (s : State) (uid : Nat) (f : Gang → Gang) : (s.modGang uid f).trust = s.trust := rfl
@[simp] theorem State.modGang_ports (s : State) (uid : Nat) (f : Gang → Gang) : (s.modGang uid f).ports = s.ports := rfl
@[simp] theorem State.modGang_txns (s : State) (uid : Nat) (f : Gang → Gang) : (s.modGang uid f).txns = s.txns := rfl
@[simp] theorem State.modGang_inbox (s : State) (uid : Nat) (f : Gang → Gang) : (s.modGang uid f).inbox = s.inbox := rfl
@[simp] theorem State.modGang_snap (s : State) (uid : Nat) (f : Gang → Gang) : (s.modGang uid f).snap = s.snap := rfl
@[simp] theorem State.modGang_snapAt (s : State) (uid : Nat) (f : Gang → Gang) : (s.modGang uid f).snapAt = s.snapAt := rfl
@[simp] theorem State.modGang_snapDue (s : State) (uid : Nat) (f : Gang → Gang) : (s.modGang uid f).snapDue = s.snapDue := rfl
@[simp] theorem State.modGang_served (s : State) (uid : Nat) (f : Gang → Gang) : (s.modGang uid f).served = s.served := rfl
@[simp] theorem State.modGang_holders (s : State) (uid : Nat) (f : Gang → Gang) : (s.modGang uid f).holders = s.holders := rfl
@[simp] theorem State.modGang_watch (s : State) (uid : Nat) (f : Gang → Gang) : (s.modGang uid f).watch = s.watch := rfl
@[simp] theorem State.modGang_debugOut (s : State) (uid : Nat) (f : Gang → Gang) : (s.modGang uid f).debugOut = s.debugOut := rfl
@[simp] theorem State.modGang_waitTl (s : State) (uid : Nat) (f : Gang → Gang) : (s.modGang uid f).waitTl = s.waitTl := rfl
@[simp] theorem State.modGang_devSeq (s : State) (uid : Nat) (f : Gang → Gang) : (s.modGang uid f).devSeq = s.devSeq := rfl
@[simp] theorem State.modGang_agenda (s : State) (uid : Nat) (f : Gang → Gang) : (s.modGang uid f).agenda = s.agenda := rfl
@[simp] theorem State.modGang_picks (s : State) (uid : Nat) (f : Gang → Gang) : (s.modGang uid f).picks = s.picks := rfl
@[simp] theorem State.modGang_cur (s : State) (uid : Nat) (f : Gang → Gang) : (s.modGang uid f).cur = s.cur := rfl
@[simp] theorem State.modGang_steps (s : State) (uid : Nat) (f : Gang → Gang) : (s.modGang uid f).steps = s.steps := rfl
@[simp] theorem State.modGang_fresh (s : State) (uid : Nat) (f : Gang → Gang) : (s.modGang uid f).fresh = s.fresh := rfl
@[simp] theorem State.modGang_free (s : State) (uid : Nat) (f : Gang → Gang) : (s.modGang uid f).free = s.free := rfl

/-! ### State.modGrid -/

@[simp] theorem State.modGrid_mem (s : State) (uid : Nat) (f : Grid → Grid) : (s.modGrid uid f).mem = s.mem := rfl
@[simp] theorem State.modGrid_lineKeys (s : State) (uid : Nat) (f : Grid → Grid) : (s.modGrid uid f).lineKeys = s.lineKeys := rfl
@[simp] theorem State.modGrid_kidGens (s : State) (uid : Nat) (f : Grid → Grid) : (s.modGrid uid f).kidGens = s.kidGens := rfl
@[simp] theorem State.modGrid_poison (s : State) (uid : Nat) (f : Grid → Grid) : (s.modGrid uid f).poison = s.poison := rfl
@[simp] theorem State.modGrid_fixed (s : State) (uid : Nat) (f : Grid → Grid) : (s.modGrid uid f).fixed = s.fixed := rfl
@[simp] theorem State.modGrid_sramErrs (s : State) (uid : Nat) (f : Grid → Grid) : (s.modGrid uid f).sramErrs = s.sramErrs := rfl
@[simp] theorem State.modGrid_posted (s : State) (uid : Nat) (f : Grid → Grid) : (s.modGrid uid f).posted = s.posted := rfl
@[simp] theorem State.modGrid_settle (s : State) (uid : Nat) (f : Grid → Grid) : (s.modGrid uid f).settle = s.settle := rfl
@[simp] theorem State.modGrid_places (s : State) (uid : Nat) (f : Grid → Grid) : (s.modGrid uid f).places = s.places := rfl
@[simp] theorem State.modGrid_dies (s : State) (uid : Nat) (f : Grid → Grid) : (s.modGrid uid f).dies = s.dies := rfl
@[simp] theorem State.modGrid_xmsgs (s : State) (uid : Nat) (f : Grid → Grid) : (s.modGrid uid f).xmsgs = s.xmsgs := rfl
@[simp] theorem State.modGrid_tlb (s : State) (uid : Nat) (f : Grid → Grid) : (s.modGrid uid f).tlb = s.tlb := rfl
@[simp] theorem State.modGrid_tlb2 (s : State) (uid : Nat) (f : Grid → Grid) : (s.modGrid uid f).tlb2 = s.tlb2 := rfl
@[simp] theorem State.modGrid_reqs (s : State) (uid : Nat) (f : Grid → Grid) : (s.modGrid uid f).reqs = s.reqs := rfl
@[simp] theorem State.modGrid_feLog (s : State) (uid : Nat) (f : Grid → Grid) : (s.modGrid uid f).feLog = s.feLog := rfl
@[simp] theorem State.modGrid_moves (s : State) (uid : Nat) (f : Grid → Grid) : (s.modGrid uid f).moves = s.moves := rfl
@[simp] theorem State.modGrid_code (s : State) (uid : Nat) (f : Grid → Grid) : (s.modGrid uid f).code = s.code := rfl
@[simp] theorem State.modGrid_clk (s : State) (uid : Nat) (f : Grid → Grid) : (s.modGrid uid f).clk = s.clk := rfl
@[simp] theorem State.modGrid_feClk (s : State) (uid : Nat) (f : Grid → Grid) : (s.modGrid uid f).feClk = s.feClk := rfl
@[simp] theorem State.modGrid_gangs (s : State) (uid : Nat) (f : Grid → Grid) : (s.modGrid uid f).gangs = s.gangs := rfl
@[simp] theorem State.modGrid_mills (s : State) (uid : Nat) (f : Grid → Grid) : (s.modGrid uid f).mills = s.mills := rfl
@[simp] theorem State.modGrid_cmds (s : State) (uid : Nat) (f : Grid → Grid) : (s.modGrid uid f).cmds = s.cmds := rfl
@[simp] theorem State.modGrid_fe (s : State) (uid : Nat) (f : Grid → Grid) : (s.modGrid uid f).fe = s.fe := rfl
@[simp] theorem State.modGrid_evq (s : State) (uid : Nat) (f : Grid → Grid) : (s.modGrid uid f).evq = s.evq := rfl
@[simp] theorem State.modGrid_parts (s : State) (uid : Nat) (f : Grid → Grid) : (s.modGrid uid f).parts = s.parts := rfl
@[simp] theorem State.modGrid_queues (s : State) (uid : Nat) (f : Grid → Grid) : (s.modGrid uid f).queues = s.queues := rfl
@[simp] theorem State.modGrid_wake (s : State) (uid : Nat) (f : Grid → Grid) : (s.modGrid uid f).wake = s.wake := rfl
@[simp] theorem State.modGrid_board (s : State) (uid : Nat) (f : Grid → Grid) : (s.modGrid uid f).board = s.board := rfl
@[simp] theorem State.modGrid_trust (s : State) (uid : Nat) (f : Grid → Grid) : (s.modGrid uid f).trust = s.trust := rfl
@[simp] theorem State.modGrid_ports (s : State) (uid : Nat) (f : Grid → Grid) : (s.modGrid uid f).ports = s.ports := rfl
@[simp] theorem State.modGrid_txns (s : State) (uid : Nat) (f : Grid → Grid) : (s.modGrid uid f).txns = s.txns := rfl
@[simp] theorem State.modGrid_inbox (s : State) (uid : Nat) (f : Grid → Grid) : (s.modGrid uid f).inbox = s.inbox := rfl
@[simp] theorem State.modGrid_snap (s : State) (uid : Nat) (f : Grid → Grid) : (s.modGrid uid f).snap = s.snap := rfl
@[simp] theorem State.modGrid_snapAt (s : State) (uid : Nat) (f : Grid → Grid) : (s.modGrid uid f).snapAt = s.snapAt := rfl
@[simp] theorem State.modGrid_snapDue (s : State) (uid : Nat) (f : Grid → Grid) : (s.modGrid uid f).snapDue = s.snapDue := rfl
@[simp] theorem State.modGrid_served (s : State) (uid : Nat) (f : Grid → Grid) : (s.modGrid uid f).served = s.served := rfl
@[simp] theorem State.modGrid_holders (s : State) (uid : Nat) (f : Grid → Grid) : (s.modGrid uid f).holders = s.holders := rfl
@[simp] theorem State.modGrid_watch (s : State) (uid : Nat) (f : Grid → Grid) : (s.modGrid uid f).watch = s.watch := rfl
@[simp] theorem State.modGrid_debugOut (s : State) (uid : Nat) (f : Grid → Grid) : (s.modGrid uid f).debugOut = s.debugOut := rfl
@[simp] theorem State.modGrid_waitTl (s : State) (uid : Nat) (f : Grid → Grid) : (s.modGrid uid f).waitTl = s.waitTl := rfl
@[simp] theorem State.modGrid_devSeq (s : State) (uid : Nat) (f : Grid → Grid) : (s.modGrid uid f).devSeq = s.devSeq := rfl
@[simp] theorem State.modGrid_agenda (s : State) (uid : Nat) (f : Grid → Grid) : (s.modGrid uid f).agenda = s.agenda := rfl
@[simp] theorem State.modGrid_picks (s : State) (uid : Nat) (f : Grid → Grid) : (s.modGrid uid f).picks = s.picks := rfl
@[simp] theorem State.modGrid_cur (s : State) (uid : Nat) (f : Grid → Grid) : (s.modGrid uid f).cur = s.cur := rfl
@[simp] theorem State.modGrid_steps (s : State) (uid : Nat) (f : Grid → Grid) : (s.modGrid uid f).steps = s.steps := rfl
@[simp] theorem State.modGrid_fresh (s : State) (uid : Nat) (f : Grid → Grid) : (s.modGrid uid f).fresh = s.fresh := rfl
@[simp] theorem State.modGrid_free (s : State) (uid : Nat) (f : Grid → Grid) : (s.modGrid uid f).free = s.free := rfl

/-! ### State.modCmd -/

@[simp] theorem State.modCmd_mem (s : State) (uid : Nat) (f : Cmd → Cmd) : (s.modCmd uid f).mem = s.mem := rfl
@[simp] theorem State.modCmd_lineKeys (s : State) (uid : Nat) (f : Cmd → Cmd) : (s.modCmd uid f).lineKeys = s.lineKeys := rfl
@[simp] theorem State.modCmd_kidGens (s : State) (uid : Nat) (f : Cmd → Cmd) : (s.modCmd uid f).kidGens = s.kidGens := rfl
@[simp] theorem State.modCmd_poison (s : State) (uid : Nat) (f : Cmd → Cmd) : (s.modCmd uid f).poison = s.poison := rfl
@[simp] theorem State.modCmd_fixed (s : State) (uid : Nat) (f : Cmd → Cmd) : (s.modCmd uid f).fixed = s.fixed := rfl
@[simp] theorem State.modCmd_sramErrs (s : State) (uid : Nat) (f : Cmd → Cmd) : (s.modCmd uid f).sramErrs = s.sramErrs := rfl
@[simp] theorem State.modCmd_posted (s : State) (uid : Nat) (f : Cmd → Cmd) : (s.modCmd uid f).posted = s.posted := rfl
@[simp] theorem State.modCmd_settle (s : State) (uid : Nat) (f : Cmd → Cmd) : (s.modCmd uid f).settle = s.settle := rfl
@[simp] theorem State.modCmd_places (s : State) (uid : Nat) (f : Cmd → Cmd) : (s.modCmd uid f).places = s.places := rfl
@[simp] theorem State.modCmd_dies (s : State) (uid : Nat) (f : Cmd → Cmd) : (s.modCmd uid f).dies = s.dies := rfl
@[simp] theorem State.modCmd_xmsgs (s : State) (uid : Nat) (f : Cmd → Cmd) : (s.modCmd uid f).xmsgs = s.xmsgs := rfl
@[simp] theorem State.modCmd_tlb (s : State) (uid : Nat) (f : Cmd → Cmd) : (s.modCmd uid f).tlb = s.tlb := rfl
@[simp] theorem State.modCmd_tlb2 (s : State) (uid : Nat) (f : Cmd → Cmd) : (s.modCmd uid f).tlb2 = s.tlb2 := rfl
@[simp] theorem State.modCmd_reqs (s : State) (uid : Nat) (f : Cmd → Cmd) : (s.modCmd uid f).reqs = s.reqs := rfl
@[simp] theorem State.modCmd_feLog (s : State) (uid : Nat) (f : Cmd → Cmd) : (s.modCmd uid f).feLog = s.feLog := rfl
@[simp] theorem State.modCmd_moves (s : State) (uid : Nat) (f : Cmd → Cmd) : (s.modCmd uid f).moves = s.moves := rfl
@[simp] theorem State.modCmd_code (s : State) (uid : Nat) (f : Cmd → Cmd) : (s.modCmd uid f).code = s.code := rfl
@[simp] theorem State.modCmd_clk (s : State) (uid : Nat) (f : Cmd → Cmd) : (s.modCmd uid f).clk = s.clk := rfl
@[simp] theorem State.modCmd_feClk (s : State) (uid : Nat) (f : Cmd → Cmd) : (s.modCmd uid f).feClk = s.feClk := rfl
@[simp] theorem State.modCmd_grids (s : State) (uid : Nat) (f : Cmd → Cmd) : (s.modCmd uid f).grids = s.grids := rfl
@[simp] theorem State.modCmd_gangs (s : State) (uid : Nat) (f : Cmd → Cmd) : (s.modCmd uid f).gangs = s.gangs := rfl
@[simp] theorem State.modCmd_mills (s : State) (uid : Nat) (f : Cmd → Cmd) : (s.modCmd uid f).mills = s.mills := rfl
@[simp] theorem State.modCmd_fe (s : State) (uid : Nat) (f : Cmd → Cmd) : (s.modCmd uid f).fe = s.fe := rfl
@[simp] theorem State.modCmd_evq (s : State) (uid : Nat) (f : Cmd → Cmd) : (s.modCmd uid f).evq = s.evq := rfl
@[simp] theorem State.modCmd_parts (s : State) (uid : Nat) (f : Cmd → Cmd) : (s.modCmd uid f).parts = s.parts := rfl
@[simp] theorem State.modCmd_queues (s : State) (uid : Nat) (f : Cmd → Cmd) : (s.modCmd uid f).queues = s.queues := rfl
@[simp] theorem State.modCmd_wake (s : State) (uid : Nat) (f : Cmd → Cmd) : (s.modCmd uid f).wake = s.wake := rfl
@[simp] theorem State.modCmd_board (s : State) (uid : Nat) (f : Cmd → Cmd) : (s.modCmd uid f).board = s.board := rfl
@[simp] theorem State.modCmd_trust (s : State) (uid : Nat) (f : Cmd → Cmd) : (s.modCmd uid f).trust = s.trust := rfl
@[simp] theorem State.modCmd_ports (s : State) (uid : Nat) (f : Cmd → Cmd) : (s.modCmd uid f).ports = s.ports := rfl
@[simp] theorem State.modCmd_txns (s : State) (uid : Nat) (f : Cmd → Cmd) : (s.modCmd uid f).txns = s.txns := rfl
@[simp] theorem State.modCmd_inbox (s : State) (uid : Nat) (f : Cmd → Cmd) : (s.modCmd uid f).inbox = s.inbox := rfl
@[simp] theorem State.modCmd_snap (s : State) (uid : Nat) (f : Cmd → Cmd) : (s.modCmd uid f).snap = s.snap := rfl
@[simp] theorem State.modCmd_snapAt (s : State) (uid : Nat) (f : Cmd → Cmd) : (s.modCmd uid f).snapAt = s.snapAt := rfl
@[simp] theorem State.modCmd_snapDue (s : State) (uid : Nat) (f : Cmd → Cmd) : (s.modCmd uid f).snapDue = s.snapDue := rfl
@[simp] theorem State.modCmd_served (s : State) (uid : Nat) (f : Cmd → Cmd) : (s.modCmd uid f).served = s.served := rfl
@[simp] theorem State.modCmd_holders (s : State) (uid : Nat) (f : Cmd → Cmd) : (s.modCmd uid f).holders = s.holders := rfl
@[simp] theorem State.modCmd_watch (s : State) (uid : Nat) (f : Cmd → Cmd) : (s.modCmd uid f).watch = s.watch := rfl
@[simp] theorem State.modCmd_debugOut (s : State) (uid : Nat) (f : Cmd → Cmd) : (s.modCmd uid f).debugOut = s.debugOut := rfl
@[simp] theorem State.modCmd_waitTl (s : State) (uid : Nat) (f : Cmd → Cmd) : (s.modCmd uid f).waitTl = s.waitTl := rfl
@[simp] theorem State.modCmd_devSeq (s : State) (uid : Nat) (f : Cmd → Cmd) : (s.modCmd uid f).devSeq = s.devSeq := rfl
@[simp] theorem State.modCmd_agenda (s : State) (uid : Nat) (f : Cmd → Cmd) : (s.modCmd uid f).agenda = s.agenda := rfl
@[simp] theorem State.modCmd_picks (s : State) (uid : Nat) (f : Cmd → Cmd) : (s.modCmd uid f).picks = s.picks := rfl
@[simp] theorem State.modCmd_cur (s : State) (uid : Nat) (f : Cmd → Cmd) : (s.modCmd uid f).cur = s.cur := rfl
@[simp] theorem State.modCmd_steps (s : State) (uid : Nat) (f : Cmd → Cmd) : (s.modCmd uid f).steps = s.steps := rfl
@[simp] theorem State.modCmd_fresh (s : State) (uid : Nat) (f : Cmd → Cmd) : (s.modCmd uid f).fresh = s.fresh := rfl
@[simp] theorem State.modCmd_free (s : State) (uid : Nat) (f : Cmd → Cmd) : (s.modCmd uid f).free = s.free := rfl

/-! ### State.modPosted -/

@[simp] theorem State.modPosted_mem (s : State) (id : Nat) (f : Posted → Posted) : (s.modPosted id f).mem = s.mem := rfl
@[simp] theorem State.modPosted_lineKeys (s : State) (id : Nat) (f : Posted → Posted) : (s.modPosted id f).lineKeys = s.lineKeys := rfl
@[simp] theorem State.modPosted_kidGens (s : State) (id : Nat) (f : Posted → Posted) : (s.modPosted id f).kidGens = s.kidGens := rfl
@[simp] theorem State.modPosted_poison (s : State) (id : Nat) (f : Posted → Posted) : (s.modPosted id f).poison = s.poison := rfl
@[simp] theorem State.modPosted_fixed (s : State) (id : Nat) (f : Posted → Posted) : (s.modPosted id f).fixed = s.fixed := rfl
@[simp] theorem State.modPosted_sramErrs (s : State) (id : Nat) (f : Posted → Posted) : (s.modPosted id f).sramErrs = s.sramErrs := rfl
@[simp] theorem State.modPosted_settle (s : State) (id : Nat) (f : Posted → Posted) : (s.modPosted id f).settle = s.settle := rfl
@[simp] theorem State.modPosted_places (s : State) (id : Nat) (f : Posted → Posted) : (s.modPosted id f).places = s.places := rfl
@[simp] theorem State.modPosted_dies (s : State) (id : Nat) (f : Posted → Posted) : (s.modPosted id f).dies = s.dies := rfl
@[simp] theorem State.modPosted_xmsgs (s : State) (id : Nat) (f : Posted → Posted) : (s.modPosted id f).xmsgs = s.xmsgs := rfl
@[simp] theorem State.modPosted_tlb (s : State) (id : Nat) (f : Posted → Posted) : (s.modPosted id f).tlb = s.tlb := rfl
@[simp] theorem State.modPosted_tlb2 (s : State) (id : Nat) (f : Posted → Posted) : (s.modPosted id f).tlb2 = s.tlb2 := rfl
@[simp] theorem State.modPosted_reqs (s : State) (id : Nat) (f : Posted → Posted) : (s.modPosted id f).reqs = s.reqs := rfl
@[simp] theorem State.modPosted_feLog (s : State) (id : Nat) (f : Posted → Posted) : (s.modPosted id f).feLog = s.feLog := rfl
@[simp] theorem State.modPosted_moves (s : State) (id : Nat) (f : Posted → Posted) : (s.modPosted id f).moves = s.moves := rfl
@[simp] theorem State.modPosted_code (s : State) (id : Nat) (f : Posted → Posted) : (s.modPosted id f).code = s.code := rfl
@[simp] theorem State.modPosted_clk (s : State) (id : Nat) (f : Posted → Posted) : (s.modPosted id f).clk = s.clk := rfl
@[simp] theorem State.modPosted_feClk (s : State) (id : Nat) (f : Posted → Posted) : (s.modPosted id f).feClk = s.feClk := rfl
@[simp] theorem State.modPosted_grids (s : State) (id : Nat) (f : Posted → Posted) : (s.modPosted id f).grids = s.grids := rfl
@[simp] theorem State.modPosted_gangs (s : State) (id : Nat) (f : Posted → Posted) : (s.modPosted id f).gangs = s.gangs := rfl
@[simp] theorem State.modPosted_mills (s : State) (id : Nat) (f : Posted → Posted) : (s.modPosted id f).mills = s.mills := rfl
@[simp] theorem State.modPosted_cmds (s : State) (id : Nat) (f : Posted → Posted) : (s.modPosted id f).cmds = s.cmds := rfl
@[simp] theorem State.modPosted_fe (s : State) (id : Nat) (f : Posted → Posted) : (s.modPosted id f).fe = s.fe := rfl
@[simp] theorem State.modPosted_evq (s : State) (id : Nat) (f : Posted → Posted) : (s.modPosted id f).evq = s.evq := rfl
@[simp] theorem State.modPosted_parts (s : State) (id : Nat) (f : Posted → Posted) : (s.modPosted id f).parts = s.parts := rfl
@[simp] theorem State.modPosted_queues (s : State) (id : Nat) (f : Posted → Posted) : (s.modPosted id f).queues = s.queues := rfl
@[simp] theorem State.modPosted_wake (s : State) (id : Nat) (f : Posted → Posted) : (s.modPosted id f).wake = s.wake := rfl
@[simp] theorem State.modPosted_board (s : State) (id : Nat) (f : Posted → Posted) : (s.modPosted id f).board = s.board := rfl
@[simp] theorem State.modPosted_trust (s : State) (id : Nat) (f : Posted → Posted) : (s.modPosted id f).trust = s.trust := rfl
@[simp] theorem State.modPosted_ports (s : State) (id : Nat) (f : Posted → Posted) : (s.modPosted id f).ports = s.ports := rfl
@[simp] theorem State.modPosted_txns (s : State) (id : Nat) (f : Posted → Posted) : (s.modPosted id f).txns = s.txns := rfl
@[simp] theorem State.modPosted_inbox (s : State) (id : Nat) (f : Posted → Posted) : (s.modPosted id f).inbox = s.inbox := rfl
@[simp] theorem State.modPosted_snap (s : State) (id : Nat) (f : Posted → Posted) : (s.modPosted id f).snap = s.snap := rfl
@[simp] theorem State.modPosted_snapAt (s : State) (id : Nat) (f : Posted → Posted) : (s.modPosted id f).snapAt = s.snapAt := rfl
@[simp] theorem State.modPosted_snapDue (s : State) (id : Nat) (f : Posted → Posted) : (s.modPosted id f).snapDue = s.snapDue := rfl
@[simp] theorem State.modPosted_served (s : State) (id : Nat) (f : Posted → Posted) : (s.modPosted id f).served = s.served := rfl
@[simp] theorem State.modPosted_holders (s : State) (id : Nat) (f : Posted → Posted) : (s.modPosted id f).holders = s.holders := rfl
@[simp] theorem State.modPosted_watch (s : State) (id : Nat) (f : Posted → Posted) : (s.modPosted id f).watch = s.watch := rfl
@[simp] theorem State.modPosted_debugOut (s : State) (id : Nat) (f : Posted → Posted) : (s.modPosted id f).debugOut = s.debugOut := rfl
@[simp] theorem State.modPosted_waitTl (s : State) (id : Nat) (f : Posted → Posted) : (s.modPosted id f).waitTl = s.waitTl := rfl
@[simp] theorem State.modPosted_devSeq (s : State) (id : Nat) (f : Posted → Posted) : (s.modPosted id f).devSeq = s.devSeq := rfl
@[simp] theorem State.modPosted_agenda (s : State) (id : Nat) (f : Posted → Posted) : (s.modPosted id f).agenda = s.agenda := rfl
@[simp] theorem State.modPosted_picks (s : State) (id : Nat) (f : Posted → Posted) : (s.modPosted id f).picks = s.picks := rfl
@[simp] theorem State.modPosted_cur (s : State) (id : Nat) (f : Posted → Posted) : (s.modPosted id f).cur = s.cur := rfl
@[simp] theorem State.modPosted_steps (s : State) (id : Nat) (f : Posted → Posted) : (s.modPosted id f).steps = s.steps := rfl
@[simp] theorem State.modPosted_fresh (s : State) (id : Nat) (f : Posted → Posted) : (s.modPosted id f).fresh = s.fresh := rfl
@[simp] theorem State.modPosted_free (s : State) (id : Nat) (f : Posted → Posted) : (s.modPosted id f).free = s.free := rfl

/-! ### State.dropPosted -/

@[simp] theorem State.dropPosted_mem (s : State) (id : Nat) : (s.dropPosted id).mem = s.mem := rfl
@[simp] theorem State.dropPosted_lineKeys (s : State) (id : Nat) : (s.dropPosted id).lineKeys = s.lineKeys := rfl
@[simp] theorem State.dropPosted_kidGens (s : State) (id : Nat) : (s.dropPosted id).kidGens = s.kidGens := rfl
@[simp] theorem State.dropPosted_poison (s : State) (id : Nat) : (s.dropPosted id).poison = s.poison := rfl
@[simp] theorem State.dropPosted_fixed (s : State) (id : Nat) : (s.dropPosted id).fixed = s.fixed := rfl
@[simp] theorem State.dropPosted_sramErrs (s : State) (id : Nat) : (s.dropPosted id).sramErrs = s.sramErrs := rfl
@[simp] theorem State.dropPosted_settle (s : State) (id : Nat) : (s.dropPosted id).settle = s.settle := rfl
@[simp] theorem State.dropPosted_places (s : State) (id : Nat) : (s.dropPosted id).places = s.places := rfl
@[simp] theorem State.dropPosted_dies (s : State) (id : Nat) : (s.dropPosted id).dies = s.dies := rfl
@[simp] theorem State.dropPosted_xmsgs (s : State) (id : Nat) : (s.dropPosted id).xmsgs = s.xmsgs := rfl
@[simp] theorem State.dropPosted_tlb (s : State) (id : Nat) : (s.dropPosted id).tlb = s.tlb := rfl
@[simp] theorem State.dropPosted_tlb2 (s : State) (id : Nat) : (s.dropPosted id).tlb2 = s.tlb2 := rfl
@[simp] theorem State.dropPosted_reqs (s : State) (id : Nat) : (s.dropPosted id).reqs = s.reqs := rfl
@[simp] theorem State.dropPosted_feLog (s : State) (id : Nat) : (s.dropPosted id).feLog = s.feLog := rfl
@[simp] theorem State.dropPosted_moves (s : State) (id : Nat) : (s.dropPosted id).moves = s.moves := rfl
@[simp] theorem State.dropPosted_code (s : State) (id : Nat) : (s.dropPosted id).code = s.code := rfl
@[simp] theorem State.dropPosted_clk (s : State) (id : Nat) : (s.dropPosted id).clk = s.clk := rfl
@[simp] theorem State.dropPosted_feClk (s : State) (id : Nat) : (s.dropPosted id).feClk = s.feClk := rfl
@[simp] theorem State.dropPosted_grids (s : State) (id : Nat) : (s.dropPosted id).grids = s.grids := rfl
@[simp] theorem State.dropPosted_gangs (s : State) (id : Nat) : (s.dropPosted id).gangs = s.gangs := rfl
@[simp] theorem State.dropPosted_mills (s : State) (id : Nat) : (s.dropPosted id).mills = s.mills := rfl
@[simp] theorem State.dropPosted_cmds (s : State) (id : Nat) : (s.dropPosted id).cmds = s.cmds := rfl
@[simp] theorem State.dropPosted_fe (s : State) (id : Nat) : (s.dropPosted id).fe = s.fe := rfl
@[simp] theorem State.dropPosted_evq (s : State) (id : Nat) : (s.dropPosted id).evq = s.evq := rfl
@[simp] theorem State.dropPosted_parts (s : State) (id : Nat) : (s.dropPosted id).parts = s.parts := rfl
@[simp] theorem State.dropPosted_queues (s : State) (id : Nat) : (s.dropPosted id).queues = s.queues := rfl
@[simp] theorem State.dropPosted_wake (s : State) (id : Nat) : (s.dropPosted id).wake = s.wake := rfl
@[simp] theorem State.dropPosted_board (s : State) (id : Nat) : (s.dropPosted id).board = s.board := rfl
@[simp] theorem State.dropPosted_trust (s : State) (id : Nat) : (s.dropPosted id).trust = s.trust := rfl
@[simp] theorem State.dropPosted_ports (s : State) (id : Nat) : (s.dropPosted id).ports = s.ports := rfl
@[simp] theorem State.dropPosted_txns (s : State) (id : Nat) : (s.dropPosted id).txns = s.txns := rfl
@[simp] theorem State.dropPosted_inbox (s : State) (id : Nat) : (s.dropPosted id).inbox = s.inbox := rfl
@[simp] theorem State.dropPosted_snap (s : State) (id : Nat) : (s.dropPosted id).snap = s.snap := rfl
@[simp] theorem State.dropPosted_snapAt (s : State) (id : Nat) : (s.dropPosted id).snapAt = s.snapAt := rfl
@[simp] theorem State.dropPosted_snapDue (s : State) (id : Nat) : (s.dropPosted id).snapDue = s.snapDue := rfl
@[simp] theorem State.dropPosted_served (s : State) (id : Nat) : (s.dropPosted id).served = s.served := rfl
@[simp] theorem State.dropPosted_holders (s : State) (id : Nat) : (s.dropPosted id).holders = s.holders := rfl
@[simp] theorem State.dropPosted_watch (s : State) (id : Nat) : (s.dropPosted id).watch = s.watch := rfl
@[simp] theorem State.dropPosted_debugOut (s : State) (id : Nat) : (s.dropPosted id).debugOut = s.debugOut := rfl
@[simp] theorem State.dropPosted_waitTl (s : State) (id : Nat) : (s.dropPosted id).waitTl = s.waitTl := rfl
@[simp] theorem State.dropPosted_devSeq (s : State) (id : Nat) : (s.dropPosted id).devSeq = s.devSeq := rfl
@[simp] theorem State.dropPosted_agenda (s : State) (id : Nat) : (s.dropPosted id).agenda = s.agenda := rfl
@[simp] theorem State.dropPosted_picks (s : State) (id : Nat) : (s.dropPosted id).picks = s.picks := rfl
@[simp] theorem State.dropPosted_cur (s : State) (id : Nat) : (s.dropPosted id).cur = s.cur := rfl
@[simp] theorem State.dropPosted_steps (s : State) (id : Nat) : (s.dropPosted id).steps = s.steps := rfl
@[simp] theorem State.dropPosted_fresh (s : State) (id : Nat) : (s.dropPosted id).fresh = s.fresh := rfl
@[simp] theorem State.dropPosted_free (s : State) (id : Nat) : (s.dropPosted id).free = s.free := rfl

/-! ### State.modDie -/

@[simp] theorem State.modDie_mem (s : State) (d : Nat) (f : Die → Die) : (s.modDie d f).mem = s.mem := rfl
@[simp] theorem State.modDie_lineKeys (s : State) (d : Nat) (f : Die → Die) : (s.modDie d f).lineKeys = s.lineKeys := rfl
@[simp] theorem State.modDie_kidGens (s : State) (d : Nat) (f : Die → Die) : (s.modDie d f).kidGens = s.kidGens := rfl
@[simp] theorem State.modDie_poison (s : State) (d : Nat) (f : Die → Die) : (s.modDie d f).poison = s.poison := rfl
@[simp] theorem State.modDie_fixed (s : State) (d : Nat) (f : Die → Die) : (s.modDie d f).fixed = s.fixed := rfl
@[simp] theorem State.modDie_sramErrs (s : State) (d : Nat) (f : Die → Die) : (s.modDie d f).sramErrs = s.sramErrs := rfl
@[simp] theorem State.modDie_posted (s : State) (d : Nat) (f : Die → Die) : (s.modDie d f).posted = s.posted := rfl
@[simp] theorem State.modDie_settle (s : State) (d : Nat) (f : Die → Die) : (s.modDie d f).settle = s.settle := rfl
@[simp] theorem State.modDie_places (s : State) (d : Nat) (f : Die → Die) : (s.modDie d f).places = s.places := rfl
@[simp] theorem State.modDie_xmsgs (s : State) (d : Nat) (f : Die → Die) : (s.modDie d f).xmsgs = s.xmsgs := rfl
@[simp] theorem State.modDie_tlb (s : State) (d : Nat) (f : Die → Die) : (s.modDie d f).tlb = s.tlb := rfl
@[simp] theorem State.modDie_tlb2 (s : State) (d : Nat) (f : Die → Die) : (s.modDie d f).tlb2 = s.tlb2 := rfl
@[simp] theorem State.modDie_reqs (s : State) (d : Nat) (f : Die → Die) : (s.modDie d f).reqs = s.reqs := rfl
@[simp] theorem State.modDie_feLog (s : State) (d : Nat) (f : Die → Die) : (s.modDie d f).feLog = s.feLog := rfl
@[simp] theorem State.modDie_moves (s : State) (d : Nat) (f : Die → Die) : (s.modDie d f).moves = s.moves := rfl
@[simp] theorem State.modDie_code (s : State) (d : Nat) (f : Die → Die) : (s.modDie d f).code = s.code := rfl
@[simp] theorem State.modDie_clk (s : State) (d : Nat) (f : Die → Die) : (s.modDie d f).clk = s.clk := rfl
@[simp] theorem State.modDie_feClk (s : State) (d : Nat) (f : Die → Die) : (s.modDie d f).feClk = s.feClk := rfl
@[simp] theorem State.modDie_grids (s : State) (d : Nat) (f : Die → Die) : (s.modDie d f).grids = s.grids := rfl
@[simp] theorem State.modDie_gangs (s : State) (d : Nat) (f : Die → Die) : (s.modDie d f).gangs = s.gangs := rfl
@[simp] theorem State.modDie_mills (s : State) (d : Nat) (f : Die → Die) : (s.modDie d f).mills = s.mills := rfl
@[simp] theorem State.modDie_cmds (s : State) (d : Nat) (f : Die → Die) : (s.modDie d f).cmds = s.cmds := rfl
@[simp] theorem State.modDie_fe (s : State) (d : Nat) (f : Die → Die) : (s.modDie d f).fe = s.fe := rfl
@[simp] theorem State.modDie_evq (s : State) (d : Nat) (f : Die → Die) : (s.modDie d f).evq = s.evq := rfl
@[simp] theorem State.modDie_parts (s : State) (d : Nat) (f : Die → Die) : (s.modDie d f).parts = s.parts := rfl
@[simp] theorem State.modDie_queues (s : State) (d : Nat) (f : Die → Die) : (s.modDie d f).queues = s.queues := rfl
@[simp] theorem State.modDie_wake (s : State) (d : Nat) (f : Die → Die) : (s.modDie d f).wake = s.wake := rfl
@[simp] theorem State.modDie_board (s : State) (d : Nat) (f : Die → Die) : (s.modDie d f).board = s.board := rfl
@[simp] theorem State.modDie_trust (s : State) (d : Nat) (f : Die → Die) : (s.modDie d f).trust = s.trust := rfl
@[simp] theorem State.modDie_ports (s : State) (d : Nat) (f : Die → Die) : (s.modDie d f).ports = s.ports := rfl
@[simp] theorem State.modDie_txns (s : State) (d : Nat) (f : Die → Die) : (s.modDie d f).txns = s.txns := rfl
@[simp] theorem State.modDie_inbox (s : State) (d : Nat) (f : Die → Die) : (s.modDie d f).inbox = s.inbox := rfl
@[simp] theorem State.modDie_snap (s : State) (d : Nat) (f : Die → Die) : (s.modDie d f).snap = s.snap := rfl
@[simp] theorem State.modDie_snapAt (s : State) (d : Nat) (f : Die → Die) : (s.modDie d f).snapAt = s.snapAt := rfl
@[simp] theorem State.modDie_snapDue (s : State) (d : Nat) (f : Die → Die) : (s.modDie d f).snapDue = s.snapDue := rfl
@[simp] theorem State.modDie_served (s : State) (d : Nat) (f : Die → Die) : (s.modDie d f).served = s.served := rfl
@[simp] theorem State.modDie_holders (s : State) (d : Nat) (f : Die → Die) : (s.modDie d f).holders = s.holders := rfl
@[simp] theorem State.modDie_watch (s : State) (d : Nat) (f : Die → Die) : (s.modDie d f).watch = s.watch := rfl
@[simp] theorem State.modDie_debugOut (s : State) (d : Nat) (f : Die → Die) : (s.modDie d f).debugOut = s.debugOut := rfl
@[simp] theorem State.modDie_waitTl (s : State) (d : Nat) (f : Die → Die) : (s.modDie d f).waitTl = s.waitTl := rfl
@[simp] theorem State.modDie_devSeq (s : State) (d : Nat) (f : Die → Die) : (s.modDie d f).devSeq = s.devSeq := rfl
@[simp] theorem State.modDie_agenda (s : State) (d : Nat) (f : Die → Die) : (s.modDie d f).agenda = s.agenda := rfl
@[simp] theorem State.modDie_picks (s : State) (d : Nat) (f : Die → Die) : (s.modDie d f).picks = s.picks := rfl
@[simp] theorem State.modDie_cur (s : State) (d : Nat) (f : Die → Die) : (s.modDie d f).cur = s.cur := rfl
@[simp] theorem State.modDie_steps (s : State) (d : Nat) (f : Die → Die) : (s.modDie d f).steps = s.steps := rfl
@[simp] theorem State.modDie_fresh (s : State) (d : Nat) (f : Die → Die) : (s.modDie d f).fresh = s.fresh := rfl
@[simp] theorem State.modDie_free (s : State) (d : Nat) (f : Die → Die) : (s.modDie d f).free = s.free := rfl

/-! ### State.modPart -/

@[simp] theorem State.modPart_mem (s : State) (p : Nat) (f : Partition → Partition) : (s.modPart p f).mem = s.mem := rfl
@[simp] theorem State.modPart_lineKeys (s : State) (p : Nat) (f : Partition → Partition) : (s.modPart p f).lineKeys = s.lineKeys := rfl
@[simp] theorem State.modPart_kidGens (s : State) (p : Nat) (f : Partition → Partition) : (s.modPart p f).kidGens = s.kidGens := rfl
@[simp] theorem State.modPart_poison (s : State) (p : Nat) (f : Partition → Partition) : (s.modPart p f).poison = s.poison := rfl
@[simp] theorem State.modPart_fixed (s : State) (p : Nat) (f : Partition → Partition) : (s.modPart p f).fixed = s.fixed := rfl
@[simp] theorem State.modPart_sramErrs (s : State) (p : Nat) (f : Partition → Partition) : (s.modPart p f).sramErrs = s.sramErrs := rfl
@[simp] theorem State.modPart_posted (s : State) (p : Nat) (f : Partition → Partition) : (s.modPart p f).posted = s.posted := rfl
@[simp] theorem State.modPart_settle (s : State) (p : Nat) (f : Partition → Partition) : (s.modPart p f).settle = s.settle := rfl
@[simp] theorem State.modPart_places (s : State) (p : Nat) (f : Partition → Partition) : (s.modPart p f).places = s.places := rfl
@[simp] theorem State.modPart_dies (s : State) (p : Nat) (f : Partition → Partition) : (s.modPart p f).dies = s.dies := rfl
@[simp] theorem State.modPart_xmsgs (s : State) (p : Nat) (f : Partition → Partition) : (s.modPart p f).xmsgs = s.xmsgs := rfl
@[simp] theorem State.modPart_tlb (s : State) (p : Nat) (f : Partition → Partition) : (s.modPart p f).tlb = s.tlb := rfl
@[simp] theorem State.modPart_tlb2 (s : State) (p : Nat) (f : Partition → Partition) : (s.modPart p f).tlb2 = s.tlb2 := rfl
@[simp] theorem State.modPart_reqs (s : State) (p : Nat) (f : Partition → Partition) : (s.modPart p f).reqs = s.reqs := rfl
@[simp] theorem State.modPart_feLog (s : State) (p : Nat) (f : Partition → Partition) : (s.modPart p f).feLog = s.feLog := rfl
@[simp] theorem State.modPart_moves (s : State) (p : Nat) (f : Partition → Partition) : (s.modPart p f).moves = s.moves := rfl
@[simp] theorem State.modPart_code (s : State) (p : Nat) (f : Partition → Partition) : (s.modPart p f).code = s.code := rfl
@[simp] theorem State.modPart_clk (s : State) (p : Nat) (f : Partition → Partition) : (s.modPart p f).clk = s.clk := rfl
@[simp] theorem State.modPart_feClk (s : State) (p : Nat) (f : Partition → Partition) : (s.modPart p f).feClk = s.feClk := rfl
@[simp] theorem State.modPart_grids (s : State) (p : Nat) (f : Partition → Partition) : (s.modPart p f).grids = s.grids := rfl
@[simp] theorem State.modPart_gangs (s : State) (p : Nat) (f : Partition → Partition) : (s.modPart p f).gangs = s.gangs := rfl
@[simp] theorem State.modPart_mills (s : State) (p : Nat) (f : Partition → Partition) : (s.modPart p f).mills = s.mills := rfl
@[simp] theorem State.modPart_cmds (s : State) (p : Nat) (f : Partition → Partition) : (s.modPart p f).cmds = s.cmds := rfl
@[simp] theorem State.modPart_fe (s : State) (p : Nat) (f : Partition → Partition) : (s.modPart p f).fe = s.fe := rfl
@[simp] theorem State.modPart_evq (s : State) (p : Nat) (f : Partition → Partition) : (s.modPart p f).evq = s.evq := rfl
@[simp] theorem State.modPart_queues (s : State) (p : Nat) (f : Partition → Partition) : (s.modPart p f).queues = s.queues := rfl
@[simp] theorem State.modPart_wake (s : State) (p : Nat) (f : Partition → Partition) : (s.modPart p f).wake = s.wake := rfl
@[simp] theorem State.modPart_board (s : State) (p : Nat) (f : Partition → Partition) : (s.modPart p f).board = s.board := rfl
@[simp] theorem State.modPart_trust (s : State) (p : Nat) (f : Partition → Partition) : (s.modPart p f).trust = s.trust := rfl
@[simp] theorem State.modPart_ports (s : State) (p : Nat) (f : Partition → Partition) : (s.modPart p f).ports = s.ports := rfl
@[simp] theorem State.modPart_txns (s : State) (p : Nat) (f : Partition → Partition) : (s.modPart p f).txns = s.txns := rfl
@[simp] theorem State.modPart_inbox (s : State) (p : Nat) (f : Partition → Partition) : (s.modPart p f).inbox = s.inbox := rfl
@[simp] theorem State.modPart_snap (s : State) (p : Nat) (f : Partition → Partition) : (s.modPart p f).snap = s.snap := rfl
@[simp] theorem State.modPart_snapAt (s : State) (p : Nat) (f : Partition → Partition) : (s.modPart p f).snapAt = s.snapAt := rfl
@[simp] theorem State.modPart_snapDue (s : State) (p : Nat) (f : Partition → Partition) : (s.modPart p f).snapDue = s.snapDue := rfl
@[simp] theorem State.modPart_served (s : State) (p : Nat) (f : Partition → Partition) : (s.modPart p f).served = s.served := rfl
@[simp] theorem State.modPart_holders (s : State) (p : Nat) (f : Partition → Partition) : (s.modPart p f).holders = s.holders := rfl
@[simp] theorem State.modPart_watch (s : State) (p : Nat) (f : Partition → Partition) : (s.modPart p f).watch = s.watch := rfl
@[simp] theorem State.modPart_debugOut (s : State) (p : Nat) (f : Partition → Partition) : (s.modPart p f).debugOut = s.debugOut := rfl
@[simp] theorem State.modPart_waitTl (s : State) (p : Nat) (f : Partition → Partition) : (s.modPart p f).waitTl = s.waitTl := rfl
@[simp] theorem State.modPart_devSeq (s : State) (p : Nat) (f : Partition → Partition) : (s.modPart p f).devSeq = s.devSeq := rfl
@[simp] theorem State.modPart_agenda (s : State) (p : Nat) (f : Partition → Partition) : (s.modPart p f).agenda = s.agenda := rfl
@[simp] theorem State.modPart_picks (s : State) (p : Nat) (f : Partition → Partition) : (s.modPart p f).picks = s.picks := rfl
@[simp] theorem State.modPart_cur (s : State) (p : Nat) (f : Partition → Partition) : (s.modPart p f).cur = s.cur := rfl
@[simp] theorem State.modPart_steps (s : State) (p : Nat) (f : Partition → Partition) : (s.modPart p f).steps = s.steps := rfl
@[simp] theorem State.modPart_fresh (s : State) (p : Nat) (f : Partition → Partition) : (s.modPart p f).fresh = s.fresh := rfl
@[simp] theorem State.modPart_free (s : State) (p : Nat) (f : Partition → Partition) : (s.modPart p f).free = s.free := rfl

/-! ### State.modQueue -/

@[simp] theorem State.modQueue_mem (s : State) (q : Nat) (f : Queue → Queue) : (s.modQueue q f).mem = s.mem := rfl
@[simp] theorem State.modQueue_lineKeys (s : State) (q : Nat) (f : Queue → Queue) : (s.modQueue q f).lineKeys = s.lineKeys := rfl
@[simp] theorem State.modQueue_kidGens (s : State) (q : Nat) (f : Queue → Queue) : (s.modQueue q f).kidGens = s.kidGens := rfl
@[simp] theorem State.modQueue_poison (s : State) (q : Nat) (f : Queue → Queue) : (s.modQueue q f).poison = s.poison := rfl
@[simp] theorem State.modQueue_fixed (s : State) (q : Nat) (f : Queue → Queue) : (s.modQueue q f).fixed = s.fixed := rfl
@[simp] theorem State.modQueue_sramErrs (s : State) (q : Nat) (f : Queue → Queue) : (s.modQueue q f).sramErrs = s.sramErrs := rfl
@[simp] theorem State.modQueue_posted (s : State) (q : Nat) (f : Queue → Queue) : (s.modQueue q f).posted = s.posted := rfl
@[simp] theorem State.modQueue_settle (s : State) (q : Nat) (f : Queue → Queue) : (s.modQueue q f).settle = s.settle := rfl
@[simp] theorem State.modQueue_places (s : State) (q : Nat) (f : Queue → Queue) : (s.modQueue q f).places = s.places := rfl
@[simp] theorem State.modQueue_dies (s : State) (q : Nat) (f : Queue → Queue) : (s.modQueue q f).dies = s.dies := rfl
@[simp] theorem State.modQueue_xmsgs (s : State) (q : Nat) (f : Queue → Queue) : (s.modQueue q f).xmsgs = s.xmsgs := rfl
@[simp] theorem State.modQueue_tlb (s : State) (q : Nat) (f : Queue → Queue) : (s.modQueue q f).tlb = s.tlb := rfl
@[simp] theorem State.modQueue_tlb2 (s : State) (q : Nat) (f : Queue → Queue) : (s.modQueue q f).tlb2 = s.tlb2 := rfl
@[simp] theorem State.modQueue_reqs (s : State) (q : Nat) (f : Queue → Queue) : (s.modQueue q f).reqs = s.reqs := rfl
@[simp] theorem State.modQueue_feLog (s : State) (q : Nat) (f : Queue → Queue) : (s.modQueue q f).feLog = s.feLog := rfl
@[simp] theorem State.modQueue_moves (s : State) (q : Nat) (f : Queue → Queue) : (s.modQueue q f).moves = s.moves := rfl
@[simp] theorem State.modQueue_code (s : State) (q : Nat) (f : Queue → Queue) : (s.modQueue q f).code = s.code := rfl
@[simp] theorem State.modQueue_clk (s : State) (q : Nat) (f : Queue → Queue) : (s.modQueue q f).clk = s.clk := rfl
@[simp] theorem State.modQueue_feClk (s : State) (q : Nat) (f : Queue → Queue) : (s.modQueue q f).feClk = s.feClk := rfl
@[simp] theorem State.modQueue_grids (s : State) (q : Nat) (f : Queue → Queue) : (s.modQueue q f).grids = s.grids := rfl
@[simp] theorem State.modQueue_gangs (s : State) (q : Nat) (f : Queue → Queue) : (s.modQueue q f).gangs = s.gangs := rfl
@[simp] theorem State.modQueue_mills (s : State) (q : Nat) (f : Queue → Queue) : (s.modQueue q f).mills = s.mills := rfl
@[simp] theorem State.modQueue_cmds (s : State) (q : Nat) (f : Queue → Queue) : (s.modQueue q f).cmds = s.cmds := rfl
@[simp] theorem State.modQueue_fe (s : State) (q : Nat) (f : Queue → Queue) : (s.modQueue q f).fe = s.fe := rfl
@[simp] theorem State.modQueue_evq (s : State) (q : Nat) (f : Queue → Queue) : (s.modQueue q f).evq = s.evq := rfl
@[simp] theorem State.modQueue_parts (s : State) (q : Nat) (f : Queue → Queue) : (s.modQueue q f).parts = s.parts := rfl
@[simp] theorem State.modQueue_wake (s : State) (q : Nat) (f : Queue → Queue) : (s.modQueue q f).wake = s.wake := rfl
@[simp] theorem State.modQueue_board (s : State) (q : Nat) (f : Queue → Queue) : (s.modQueue q f).board = s.board := rfl
@[simp] theorem State.modQueue_trust (s : State) (q : Nat) (f : Queue → Queue) : (s.modQueue q f).trust = s.trust := rfl
@[simp] theorem State.modQueue_ports (s : State) (q : Nat) (f : Queue → Queue) : (s.modQueue q f).ports = s.ports := rfl
@[simp] theorem State.modQueue_txns (s : State) (q : Nat) (f : Queue → Queue) : (s.modQueue q f).txns = s.txns := rfl
@[simp] theorem State.modQueue_inbox (s : State) (q : Nat) (f : Queue → Queue) : (s.modQueue q f).inbox = s.inbox := rfl
@[simp] theorem State.modQueue_snap (s : State) (q : Nat) (f : Queue → Queue) : (s.modQueue q f).snap = s.snap := rfl
@[simp] theorem State.modQueue_snapAt (s : State) (q : Nat) (f : Queue → Queue) : (s.modQueue q f).snapAt = s.snapAt := rfl
@[simp] theorem State.modQueue_snapDue (s : State) (q : Nat) (f : Queue → Queue) : (s.modQueue q f).snapDue = s.snapDue := rfl
@[simp] theorem State.modQueue_served (s : State) (q : Nat) (f : Queue → Queue) : (s.modQueue q f).served = s.served := rfl
@[simp] theorem State.modQueue_holders (s : State) (q : Nat) (f : Queue → Queue) : (s.modQueue q f).holders = s.holders := rfl
@[simp] theorem State.modQueue_watch (s : State) (q : Nat) (f : Queue → Queue) : (s.modQueue q f).watch = s.watch := rfl
@[simp] theorem State.modQueue_debugOut (s : State) (q : Nat) (f : Queue → Queue) : (s.modQueue q f).debugOut = s.debugOut := rfl
@[simp] theorem State.modQueue_waitTl (s : State) (q : Nat) (f : Queue → Queue) : (s.modQueue q f).waitTl = s.waitTl := rfl
@[simp] theorem State.modQueue_devSeq (s : State) (q : Nat) (f : Queue → Queue) : (s.modQueue q f).devSeq = s.devSeq := rfl
@[simp] theorem State.modQueue_agenda (s : State) (q : Nat) (f : Queue → Queue) : (s.modQueue q f).agenda = s.agenda := rfl
@[simp] theorem State.modQueue_picks (s : State) (q : Nat) (f : Queue → Queue) : (s.modQueue q f).picks = s.picks := rfl
@[simp] theorem State.modQueue_cur (s : State) (q : Nat) (f : Queue → Queue) : (s.modQueue q f).cur = s.cur := rfl
@[simp] theorem State.modQueue_steps (s : State) (q : Nat) (f : Queue → Queue) : (s.modQueue q f).steps = s.steps := rfl
@[simp] theorem State.modQueue_fresh (s : State) (q : Nat) (f : Queue → Queue) : (s.modQueue q f).fresh = s.fresh := rfl
@[simp] theorem State.modQueue_free (s : State) (q : Nat) (f : Queue → Queue) : (s.modQueue q f).free = s.free := rfl

/-! ### State.modFe -/

@[simp] theorem State.modFe_mem (s : State) (n : Nat) (f : FeCore → FeCore) : (s.modFe n f).mem = s.mem := rfl
@[simp] theorem State.modFe_lineKeys (s : State) (n : Nat) (f : FeCore → FeCore) : (s.modFe n f).lineKeys = s.lineKeys := rfl
@[simp] theorem State.modFe_kidGens (s : State) (n : Nat) (f : FeCore → FeCore) : (s.modFe n f).kidGens = s.kidGens := rfl
@[simp] theorem State.modFe_poison (s : State) (n : Nat) (f : FeCore → FeCore) : (s.modFe n f).poison = s.poison := rfl
@[simp] theorem State.modFe_fixed (s : State) (n : Nat) (f : FeCore → FeCore) : (s.modFe n f).fixed = s.fixed := rfl
@[simp] theorem State.modFe_sramErrs (s : State) (n : Nat) (f : FeCore → FeCore) : (s.modFe n f).sramErrs = s.sramErrs := rfl
@[simp] theorem State.modFe_posted (s : State) (n : Nat) (f : FeCore → FeCore) : (s.modFe n f).posted = s.posted := rfl
@[simp] theorem State.modFe_settle (s : State) (n : Nat) (f : FeCore → FeCore) : (s.modFe n f).settle = s.settle := rfl
@[simp] theorem State.modFe_places (s : State) (n : Nat) (f : FeCore → FeCore) : (s.modFe n f).places = s.places := rfl
@[simp] theorem State.modFe_dies (s : State) (n : Nat) (f : FeCore → FeCore) : (s.modFe n f).dies = s.dies := rfl
@[simp] theorem State.modFe_xmsgs (s : State) (n : Nat) (f : FeCore → FeCore) : (s.modFe n f).xmsgs = s.xmsgs := rfl
@[simp] theorem State.modFe_tlb (s : State) (n : Nat) (f : FeCore → FeCore) : (s.modFe n f).tlb = s.tlb := rfl
@[simp] theorem State.modFe_tlb2 (s : State) (n : Nat) (f : FeCore → FeCore) : (s.modFe n f).tlb2 = s.tlb2 := rfl
@[simp] theorem State.modFe_reqs (s : State) (n : Nat) (f : FeCore → FeCore) : (s.modFe n f).reqs = s.reqs := rfl
@[simp] theorem State.modFe_feLog (s : State) (n : Nat) (f : FeCore → FeCore) : (s.modFe n f).feLog = s.feLog := rfl
@[simp] theorem State.modFe_moves (s : State) (n : Nat) (f : FeCore → FeCore) : (s.modFe n f).moves = s.moves := rfl
@[simp] theorem State.modFe_code (s : State) (n : Nat) (f : FeCore → FeCore) : (s.modFe n f).code = s.code := rfl
@[simp] theorem State.modFe_clk (s : State) (n : Nat) (f : FeCore → FeCore) : (s.modFe n f).clk = s.clk := rfl
@[simp] theorem State.modFe_feClk (s : State) (n : Nat) (f : FeCore → FeCore) : (s.modFe n f).feClk = s.feClk := rfl
@[simp] theorem State.modFe_grids (s : State) (n : Nat) (f : FeCore → FeCore) : (s.modFe n f).grids = s.grids := rfl
@[simp] theorem State.modFe_gangs (s : State) (n : Nat) (f : FeCore → FeCore) : (s.modFe n f).gangs = s.gangs := rfl
@[simp] theorem State.modFe_mills (s : State) (n : Nat) (f : FeCore → FeCore) : (s.modFe n f).mills = s.mills := rfl
@[simp] theorem State.modFe_cmds (s : State) (n : Nat) (f : FeCore → FeCore) : (s.modFe n f).cmds = s.cmds := rfl
@[simp] theorem State.modFe_evq (s : State) (n : Nat) (f : FeCore → FeCore) : (s.modFe n f).evq = s.evq := rfl
@[simp] theorem State.modFe_parts (s : State) (n : Nat) (f : FeCore → FeCore) : (s.modFe n f).parts = s.parts := rfl
@[simp] theorem State.modFe_queues (s : State) (n : Nat) (f : FeCore → FeCore) : (s.modFe n f).queues = s.queues := rfl
@[simp] theorem State.modFe_wake (s : State) (n : Nat) (f : FeCore → FeCore) : (s.modFe n f).wake = s.wake := rfl
@[simp] theorem State.modFe_board (s : State) (n : Nat) (f : FeCore → FeCore) : (s.modFe n f).board = s.board := rfl
@[simp] theorem State.modFe_trust (s : State) (n : Nat) (f : FeCore → FeCore) : (s.modFe n f).trust = s.trust := rfl
@[simp] theorem State.modFe_ports (s : State) (n : Nat) (f : FeCore → FeCore) : (s.modFe n f).ports = s.ports := rfl
@[simp] theorem State.modFe_txns (s : State) (n : Nat) (f : FeCore → FeCore) : (s.modFe n f).txns = s.txns := rfl
@[simp] theorem State.modFe_inbox (s : State) (n : Nat) (f : FeCore → FeCore) : (s.modFe n f).inbox = s.inbox := rfl
@[simp] theorem State.modFe_snap (s : State) (n : Nat) (f : FeCore → FeCore) : (s.modFe n f).snap = s.snap := rfl
@[simp] theorem State.modFe_snapAt (s : State) (n : Nat) (f : FeCore → FeCore) : (s.modFe n f).snapAt = s.snapAt := rfl
@[simp] theorem State.modFe_snapDue (s : State) (n : Nat) (f : FeCore → FeCore) : (s.modFe n f).snapDue = s.snapDue := rfl
@[simp] theorem State.modFe_served (s : State) (n : Nat) (f : FeCore → FeCore) : (s.modFe n f).served = s.served := rfl
@[simp] theorem State.modFe_holders (s : State) (n : Nat) (f : FeCore → FeCore) : (s.modFe n f).holders = s.holders := rfl
@[simp] theorem State.modFe_watch (s : State) (n : Nat) (f : FeCore → FeCore) : (s.modFe n f).watch = s.watch := rfl
@[simp] theorem State.modFe_debugOut (s : State) (n : Nat) (f : FeCore → FeCore) : (s.modFe n f).debugOut = s.debugOut := rfl
@[simp] theorem State.modFe_waitTl (s : State) (n : Nat) (f : FeCore → FeCore) : (s.modFe n f).waitTl = s.waitTl := rfl
@[simp] theorem State.modFe_devSeq (s : State) (n : Nat) (f : FeCore → FeCore) : (s.modFe n f).devSeq = s.devSeq := rfl
@[simp] theorem State.modFe_agenda (s : State) (n : Nat) (f : FeCore → FeCore) : (s.modFe n f).agenda = s.agenda := rfl
@[simp] theorem State.modFe_picks (s : State) (n : Nat) (f : FeCore → FeCore) : (s.modFe n f).picks = s.picks := rfl
@[simp] theorem State.modFe_cur (s : State) (n : Nat) (f : FeCore → FeCore) : (s.modFe n f).cur = s.cur := rfl
@[simp] theorem State.modFe_steps (s : State) (n : Nat) (f : FeCore → FeCore) : (s.modFe n f).steps = s.steps := rfl
@[simp] theorem State.modFe_fresh (s : State) (n : Nat) (f : FeCore → FeCore) : (s.modFe n f).fresh = s.fresh := rfl
@[simp] theorem State.modFe_free (s : State) (n : Nat) (f : FeCore → FeCore) : (s.modFe n f).free = s.free := rfl

/-! ### State.modWheel -/

/-- All but the mills and the front-end cores stays. -/
theorem State.modWheel_rest (s : State) (a : Agent) (f : Wheel → Wheel) : { s.modWheel a f with mills := s.mills, fe := s.fe } = s := by
  cases a <;> rfl
@[simp] theorem State.modWheel_mem (s : State) (a : Agent) (f : Wheel → Wheel) : (s.modWheel a f).mem = s.mem := (congrArg State.mem (s.modWheel_rest a f) :)
@[simp] theorem State.modWheel_lineKeys (s : State) (a : Agent) (f : Wheel → Wheel) : (s.modWheel a f).lineKeys = s.lineKeys := (congrArg State.lineKeys (s.modWheel_rest a f) :)
@[simp] theorem State.modWheel_kidGens (s : State) (a : Agent) (f : Wheel → Wheel) : (s.modWheel a f).kidGens = s.kidGens := (congrArg State.kidGens (s.modWheel_rest a f) :)
@[simp] theorem State.modWheel_poison (s : State) (a : Agent) (f : Wheel → Wheel) : (s.modWheel a f).poison = s.poison := (congrArg State.poison (s.modWheel_rest a f) :)
@[simp] theorem State.modWheel_fixed (s : State) (a : Agent) (f : Wheel → Wheel) : (s.modWheel a f).fixed = s.fixed := (congrArg State.fixed (s.modWheel_rest a f) :)
@[simp] theorem State.modWheel_sramErrs (s : State) (a : Agent) (f : Wheel → Wheel) : (s.modWheel a f).sramErrs = s.sramErrs := (congrArg State.sramErrs (s.modWheel_rest a f) :)
@[simp] theorem State.modWheel_posted (s : State) (a : Agent) (f : Wheel → Wheel) : (s.modWheel a f).posted = s.posted := (congrArg State.posted (s.modWheel_rest a f) :)
@[simp] theorem State.modWheel_settle (s : State) (a : Agent) (f : Wheel → Wheel) : (s.modWheel a f).settle = s.settle := (congrArg State.settle (s.modWheel_rest a f) :)
@[simp] theorem State.modWheel_places (s : State) (a : Agent) (f : Wheel → Wheel) : (s.modWheel a f).places = s.places := (congrArg State.places (s.modWheel_rest a f) :)
@[simp] theorem State.modWheel_dies (s : State) (a : Agent) (f : Wheel → Wheel) : (s.modWheel a f).dies = s.dies := (congrArg State.dies (s.modWheel_rest a f) :)
@[simp] theorem State.modWheel_xmsgs (s : State) (a : Agent) (f : Wheel → Wheel) : (s.modWheel a f).xmsgs = s.xmsgs := (congrArg State.xmsgs (s.modWheel_rest a f) :)
@[simp] theorem State.modWheel_tlb (s : State) (a : Agent) (f : Wheel → Wheel) : (s.modWheel a f).tlb = s.tlb := (congrArg State.tlb (s.modWheel_rest a f) :)
@[simp] theorem State.modWheel_tlb2 (s : State) (a : Agent) (f : Wheel → Wheel) : (s.modWheel a f).tlb2 = s.tlb2 := (congrArg State.tlb2 (s.modWheel_rest a f) :)
@[simp] theorem State.modWheel_reqs (s : State) (a : Agent) (f : Wheel → Wheel) : (s.modWheel a f).reqs = s.reqs := (congrArg State.reqs (s.modWheel_rest a f) :)
@[simp] theorem State.modWheel_feLog (s : State) (a : Agent) (f : Wheel → Wheel) : (s.modWheel a f).feLog = s.feLog := (congrArg State.feLog (s.modWheel_rest a f) :)
@[simp] theorem State.modWheel_moves (s : State) (a : Agent) (f : Wheel → Wheel) : (s.modWheel a f).moves = s.moves := (congrArg State.moves (s.modWheel_rest a f) :)
@[simp] theorem State.modWheel_code (s : State) (a : Agent) (f : Wheel → Wheel) : (s.modWheel a f).code = s.code := (congrArg State.code (s.modWheel_rest a f) :)
@[simp] theorem State.modWheel_clk (s : State) (a : Agent) (f : Wheel → Wheel) : (s.modWheel a f).clk = s.clk := (congrArg State.clk (s.modWheel_rest a f) :)
@[simp] theorem State.modWheel_feClk (s : State) (a : Agent) (f : Wheel → Wheel) : (s.modWheel a f).feClk = s.feClk := (congrArg State.feClk (s.modWheel_rest a f) :)
@[simp] theorem State.modWheel_grids (s : State) (a : Agent) (f : Wheel → Wheel) : (s.modWheel a f).grids = s.grids := (congrArg State.grids (s.modWheel_rest a f) :)
@[simp] theorem State.modWheel_gangs (s : State) (a : Agent) (f : Wheel → Wheel) : (s.modWheel a f).gangs = s.gangs := (congrArg State.gangs (s.modWheel_rest a f) :)
@[simp] theorem State.modWheel_cmds (s : State) (a : Agent) (f : Wheel → Wheel) : (s.modWheel a f).cmds = s.cmds := (congrArg State.cmds (s.modWheel_rest a f) :)
@[simp] theorem State.modWheel_evq (s : State) (a : Agent) (f : Wheel → Wheel) : (s.modWheel a f).evq = s.evq := (congrArg State.evq (s.modWheel_rest a f) :)
@[simp] theorem State.modWheel_parts (s : State) (a : Agent) (f : Wheel → Wheel) : (s.modWheel a f).parts = s.parts := (congrArg State.parts (s.modWheel_rest a f) :)
@[simp] theorem State.modWheel_queues (s : State) (a : Agent) (f : Wheel → Wheel) : (s.modWheel a f).queues = s.queues := (congrArg State.queues (s.modWheel_rest a f) :)
@[simp] theorem State.modWheel_wake (s : State) (a : Agent) (f : Wheel → Wheel) : (s.modWheel a f).wake = s.wake := (congrArg State.wake (s.modWheel_rest a f) :)
@[simp] theorem State.modWheel_board (s : State) (a : Agent) (f : Wheel → Wheel) : (s.modWheel a f).board = s.board := (congrArg State.board (s.modWheel_rest a f) :)
@[simp] theorem State.modWheel_trust (s : State) (a : Agent) (f : Wheel → Wheel) : (s.modWheel a f).trust = s.trust := (congrArg State.trust (s.modWheel_rest a f) :)
@[simp] theorem State.modWheel_ports (s : State) (a : Agent) (f : Wheel → Wheel) : (s.modWheel a f).ports = s.ports := (congrArg State.ports (s.modWheel_rest a f) :)
@[simp] theorem State.modWheel_txns (s : State) (a : Agent) (f : Wheel → Wheel) : (s.modWheel a f).txns = s.txns := (congrArg State.txns (s.modWheel_rest a f) :)
@[simp] theorem State.modWheel_inbox (s : State) (a : Agent) (f : Wheel → Wheel) : (s.modWheel a f).inbox = s.inbox := (congrArg State.inbox (s.modWheel_rest a f) :)
@[simp] theorem State.modWheel_snap (s : State) (a : Agent) (f : Wheel → Wheel) : (s.modWheel a f).snap = s.snap := (congrArg State.snap (s.modWheel_rest a f) :)
@[simp] theorem State.modWheel_snapAt (s : State) (a : Agent) (f : Wheel → Wheel) : (s.modWheel a f).snapAt = s.snapAt := (congrArg State.snapAt (s.modWheel_rest a f) :)
@[simp] theorem State.modWheel_snapDue (s : State) (a : Agent) (f : Wheel → Wheel) : (s.modWheel a f).snapDue = s.snapDue := (congrArg State.snapDue (s.modWheel_rest a f) :)
@[simp] theorem State.modWheel_served (s : State) (a : Agent) (f : Wheel → Wheel) : (s.modWheel a f).served = s.served := (congrArg State.served (s.modWheel_rest a f) :)
@[simp] theorem State.modWheel_holders (s : State) (a : Agent) (f : Wheel → Wheel) : (s.modWheel a f).holders = s.holders := (congrArg State.holders (s.modWheel_rest a f) :)
@[simp] theorem State.modWheel_watch (s : State) (a : Agent) (f : Wheel → Wheel) : (s.modWheel a f).watch = s.watch := (congrArg State.watch (s.modWheel_rest a f) :)
@[simp] theorem State.modWheel_debugOut (s : State) (a : Agent) (f : Wheel → Wheel) : (s.modWheel a f).debugOut = s.debugOut := (congrArg State.debugOut (s.modWheel_rest a f) :)
@[simp] theorem State.modWheel_waitTl (s : State) (a : Agent) (f : Wheel → Wheel) : (s.modWheel a f).waitTl = s.waitTl := (congrArg State.waitTl (s.modWheel_rest a f) :)
@[simp] theorem State.modWheel_devSeq (s : State) (a : Agent) (f : Wheel → Wheel) : (s.modWheel a f).devSeq = s.devSeq := (congrArg State.devSeq (s.modWheel_rest a f) :)
@[simp] theorem State.modWheel_agenda (s : State) (a : Agent) (f : Wheel → Wheel) : (s.modWheel a f).agenda = s.agenda := (congrArg State.agenda (s.modWheel_rest a f) :)
@[simp] theorem State.modWheel_picks (s : State) (a : Agent) (f : Wheel → Wheel) : (s.modWheel a f).picks = s.picks := (congrArg State.picks (s.modWheel_rest a f) :)
@[simp] theorem State.modWheel_cur (s : State) (a : Agent) (f : Wheel → Wheel) : (s.modWheel a f).cur = s.cur := (congrArg State.cur (s.modWheel_rest a f) :)
@[simp] theorem State.modWheel_steps (s : State) (a : Agent) (f : Wheel → Wheel) : (s.modWheel a f).steps = s.steps := (congrArg State.steps (s.modWheel_rest a f) :)
@[simp] theorem State.modWheel_fresh (s : State) (a : Agent) (f : Wheel → Wheel) : (s.modWheel a f).fresh = s.fresh := (congrArg State.fresh (s.modWheel_rest a f) :)
@[simp] theorem State.modWheel_free (s : State) (a : Agent) (f : Wheel → Wheel) : (s.modWheel a f).free = s.free := (congrArg State.free (s.modWheel_rest a f) :)

/-! ### State.modThread -/

/-- All but the mills and the front-end cores stays. -/
theorem State.modThread_rest (s : State) (a : Agent) (l : Nat) (f : Thread → Thread) : { s.modThread a l f with mills := s.mills, fe := s.fe } = s := by
  cases a with
  | fe n => by_cases h : l = 0 <;> simp [State.modThread, h, State.modFe]
  | wheel _ _ => rfl
  | buf _ _ => rfl
@[simp] theorem State.modThread_mem (s : State) (a : Agent) (l : Nat) (f : Thread → Thread) : (s.modThread a l f).mem = s.mem := (congrArg State.mem (s.modThread_rest a l f) :)
@[simp] theorem State.modThread_lineKeys (s : State) (a : Agent) (l : Nat) (f : Thread → Thread) : (s.modThread a l f).lineKeys = s.lineKeys := (congrArg State.lineKeys (s.modThread_rest a l f) :)
@[simp] theorem State.modThread_kidGens (s : State) (a : Agent) (l : Nat) (f : Thread → Thread) : (s.modThread a l f).kidGens = s.kidGens := (congrArg State.kidGens (s.modThread_rest a l f) :)
@[simp] theorem State.modThread_poison (s : State) (a : Agent) (l : Nat) (f : Thread → Thread) : (s.modThread a l f).poison = s.poison := (congrArg State.poison (s.modThread_rest a l f) :)
@[simp] theorem State.modThread_fixed (s : State) (a : Agent) (l : Nat) (f : Thread → Thread) : (s.modThread a l f).fixed = s.fixed := (congrArg State.fixed (s.modThread_rest a l f) :)
@[simp] theorem State.modThread_sramErrs (s : State) (a : Agent) (l : Nat) (f : Thread → Thread) : (s.modThread a l f).sramErrs = s.sramErrs := (congrArg State.sramErrs (s.modThread_rest a l f) :)
@[simp] theorem State.modThread_posted (s : State) (a : Agent) (l : Nat) (f : Thread → Thread) : (s.modThread a l f).posted = s.posted := (congrArg State.posted (s.modThread_rest a l f) :)
@[simp] theorem State.modThread_settle (s : State) (a : Agent) (l : Nat) (f : Thread → Thread) : (s.modThread a l f).settle = s.settle := (congrArg State.settle (s.modThread_rest a l f) :)
@[simp] theorem State.modThread_places (s : State) (a : Agent) (l : Nat) (f : Thread → Thread) : (s.modThread a l f).places = s.places := (congrArg State.places (s.modThread_rest a l f) :)
@[simp] theorem State.modThread_dies (s : State) (a : Agent) (l : Nat) (f : Thread → Thread) : (s.modThread a l f).dies = s.dies := (congrArg State.dies (s.modThread_rest a l f) :)
@[simp] theorem State.modThread_xmsgs (s : State) (a : Agent) (l : Nat) (f : Thread → Thread) : (s.modThread a l f).xmsgs = s.xmsgs := (congrArg State.xmsgs (s.modThread_rest a l f) :)
@[simp] theorem State.modThread_tlb (s : State) (a : Agent) (l : Nat) (f : Thread → Thread) : (s.modThread a l f).tlb = s.tlb := (congrArg State.tlb (s.modThread_rest a l f) :)
@[simp] theorem State.modThread_tlb2 (s : State) (a : Agent) (l : Nat) (f : Thread → Thread) : (s.modThread a l f).tlb2 = s.tlb2 := (congrArg State.tlb2 (s.modThread_rest a l f) :)
@[simp] theorem State.modThread_reqs (s : State) (a : Agent) (l : Nat) (f : Thread → Thread) : (s.modThread a l f).reqs = s.reqs := (congrArg State.reqs (s.modThread_rest a l f) :)
@[simp] theorem State.modThread_feLog (s : State) (a : Agent) (l : Nat) (f : Thread → Thread) : (s.modThread a l f).feLog = s.feLog := (congrArg State.feLog (s.modThread_rest a l f) :)
@[simp] theorem State.modThread_moves (s : State) (a : Agent) (l : Nat) (f : Thread → Thread) : (s.modThread a l f).moves = s.moves := (congrArg State.moves (s.modThread_rest a l f) :)
@[simp] theorem State.modThread_code (s : State) (a : Agent) (l : Nat) (f : Thread → Thread) : (s.modThread a l f).code = s.code := (congrArg State.code (s.modThread_rest a l f) :)
@[simp] theorem State.modThread_clk (s : State) (a : Agent) (l : Nat) (f : Thread → Thread) : (s.modThread a l f).clk = s.clk := (congrArg State.clk (s.modThread_rest a l f) :)
@[simp] theorem State.modThread_feClk (s : State) (a : Agent) (l : Nat) (f : Thread → Thread) : (s.modThread a l f).feClk = s.feClk := (congrArg State.feClk (s.modThread_rest a l f) :)
@[simp] theorem State.modThread_grids (s : State) (a : Agent) (l : Nat) (f : Thread → Thread) : (s.modThread a l f).grids = s.grids := (congrArg State.grids (s.modThread_rest a l f) :)
@[simp] theorem State.modThread_gangs (s : State) (a : Agent) (l : Nat) (f : Thread → Thread) : (s.modThread a l f).gangs = s.gangs := (congrArg State.gangs (s.modThread_rest a l f) :)
@[simp] theorem State.modThread_cmds (s : State) (a : Agent) (l : Nat) (f : Thread → Thread) : (s.modThread a l f).cmds = s.cmds := (congrArg State.cmds (s.modThread_rest a l f) :)
@[simp] theorem State.modThread_evq (s : State) (a : Agent) (l : Nat) (f : Thread → Thread) : (s.modThread a l f).evq = s.evq := (congrArg State.evq (s.modThread_rest a l f) :)
@[simp] theorem State.modThread_parts (s : State) (a : Agent) (l : Nat) (f : Thread → Thread) : (s.modThread a l f).parts = s.parts := (congrArg State.parts (s.modThread_rest a l f) :)
@[simp] theorem State.modThread_queues (s : State) (a : Agent) (l : Nat) (f : Thread → Thread) : (s.modThread a l f).queues = s.queues := (congrArg State.queues (s.modThread_rest a l f) :)
@[simp] theorem State.modThread_wake (s : State) (a : Agent) (l : Nat) (f : Thread → Thread) : (s.modThread a l f).wake = s.wake := (congrArg State.wake (s.modThread_rest a l f) :)
@[simp] theorem State.modThread_board (s : State) (a : Agent) (l : Nat) (f : Thread → Thread) : (s.modThread a l f).board = s.board := (congrArg State.board (s.modThread_rest a l f) :)
@[simp] theorem State.modThread_trust (s : State) (a : Agent) (l : Nat) (f : Thread → Thread) : (s.modThread a l f).trust = s.trust := (congrArg State.trust (s.modThread_rest a l f) :)
@[simp] theorem State.modThread_ports (s : State) (a : Agent) (l : Nat) (f : Thread → Thread) : (s.modThread a l f).ports = s.ports := (congrArg State.ports (s.modThread_rest a l f) :)
@[simp] theorem State.modThread_txns (s : State) (a : Agent) (l : Nat) (f : Thread → Thread) : (s.modThread a l f).txns = s.txns := (congrArg State.txns (s.modThread_rest a l f) :)
@[simp] theorem State.modThread_inbox (s : State) (a : Agent) (l : Nat) (f : Thread → Thread) : (s.modThread a l f).inbox = s.inbox := (congrArg State.inbox (s.modThread_rest a l f) :)
@[simp] theorem State.modThread_snap (s : State) (a : Agent) (l : Nat) (f : Thread → Thread) : (s.modThread a l f).snap = s.snap := (congrArg State.snap (s.modThread_rest a l f) :)
@[simp] theorem State.modThread_snapAt (s : State) (a : Agent) (l : Nat) (f : Thread → Thread) : (s.modThread a l f).snapAt = s.snapAt := (congrArg State.snapAt (s.modThread_rest a l f) :)
@[simp] theorem State.modThread_snapDue (s : State) (a : Agent) (l : Nat) (f : Thread → Thread) : (s.modThread a l f).snapDue = s.snapDue := (congrArg State.snapDue (s.modThread_rest a l f) :)
@[simp] theorem State.modThread_served (s : State) (a : Agent) (l : Nat) (f : Thread → Thread) : (s.modThread a l f).served = s.served := (congrArg State.served (s.modThread_rest a l f) :)
@[simp] theorem State.modThread_holders (s : State) (a : Agent) (l : Nat) (f : Thread → Thread) : (s.modThread a l f).holders = s.holders := (congrArg State.holders (s.modThread_rest a l f) :)
@[simp] theorem State.modThread_watch (s : State) (a : Agent) (l : Nat) (f : Thread → Thread) : (s.modThread a l f).watch = s.watch := (congrArg State.watch (s.modThread_rest a l f) :)
@[simp] theorem State.modThread_debugOut (s : State) (a : Agent) (l : Nat) (f : Thread → Thread) : (s.modThread a l f).debugOut = s.debugOut := (congrArg State.debugOut (s.modThread_rest a l f) :)
@[simp] theorem State.modThread_waitTl (s : State) (a : Agent) (l : Nat) (f : Thread → Thread) : (s.modThread a l f).waitTl = s.waitTl := (congrArg State.waitTl (s.modThread_rest a l f) :)
@[simp] theorem State.modThread_devSeq (s : State) (a : Agent) (l : Nat) (f : Thread → Thread) : (s.modThread a l f).devSeq = s.devSeq := (congrArg State.devSeq (s.modThread_rest a l f) :)
@[simp] theorem State.modThread_agenda (s : State) (a : Agent) (l : Nat) (f : Thread → Thread) : (s.modThread a l f).agenda = s.agenda := (congrArg State.agenda (s.modThread_rest a l f) :)
@[simp] theorem State.modThread_picks (s : State) (a : Agent) (l : Nat) (f : Thread → Thread) : (s.modThread a l f).picks = s.picks := (congrArg State.picks (s.modThread_rest a l f) :)
@[simp] theorem State.modThread_cur (s : State) (a : Agent) (l : Nat) (f : Thread → Thread) : (s.modThread a l f).cur = s.cur := (congrArg State.cur (s.modThread_rest a l f) :)
@[simp] theorem State.modThread_steps (s : State) (a : Agent) (l : Nat) (f : Thread → Thread) : (s.modThread a l f).steps = s.steps := (congrArg State.steps (s.modThread_rest a l f) :)
@[simp] theorem State.modThread_fresh (s : State) (a : Agent) (l : Nat) (f : Thread → Thread) : (s.modThread a l f).fresh = s.fresh := (congrArg State.fresh (s.modThread_rest a l f) :)
@[simp] theorem State.modThread_free (s : State) (a : Agent) (l : Nat) (f : Thread → Thread) : (s.modThread a l f).free = s.free := (congrArg State.free (s.modThread_rest a l f) :)

/-! ### State.setFences -/

/-- All but the mills and the front-end cores stays. -/
theorem State.setFences_rest (s : State) (a : Agent) (f : Fences) : { s.setFences a f with mills := s.mills, fe := s.fe } = s := by
  cases a <;> rfl
@[simp] theorem State.setFences_mem (s : State) (a : Agent) (f : Fences) : (s.setFences a f).mem = s.mem := (congrArg State.mem (s.setFences_rest a f) :)
@[simp] theorem State.setFences_lineKeys (s : State) (a : Agent) (f : Fences) : (s.setFences a f).lineKeys = s.lineKeys := (congrArg State.lineKeys (s.setFences_rest a f) :)
@[simp] theorem State.setFences_kidGens (s : State) (a : Agent) (f : Fences) : (s.setFences a f).kidGens = s.kidGens := (congrArg State.kidGens (s.setFences_rest a f) :)
@[simp] theorem State.setFences_poison (s : State) (a : Agent) (f : Fences) : (s.setFences a f).poison = s.poison := (congrArg State.poison (s.setFences_rest a f) :)
@[simp] theorem State.setFences_fixed (s : State) (a : Agent) (f : Fences) : (s.setFences a f).fixed = s.fixed := (congrArg State.fixed (s.setFences_rest a f) :)
@[simp] theorem State.setFences_sramErrs (s : State) (a : Agent) (f : Fences) : (s.setFences a f).sramErrs = s.sramErrs := (congrArg State.sramErrs (s.setFences_rest a f) :)
@[simp] theorem State.setFences_posted (s : State) (a : Agent) (f : Fences) : (s.setFences a f).posted = s.posted := (congrArg State.posted (s.setFences_rest a f) :)
@[simp] theorem State.setFences_settle (s : State) (a : Agent) (f : Fences) : (s.setFences a f).settle = s.settle := (congrArg State.settle (s.setFences_rest a f) :)
@[simp] theorem State.setFences_places (s : State) (a : Agent) (f : Fences) : (s.setFences a f).places = s.places := (congrArg State.places (s.setFences_rest a f) :)
@[simp] theorem State.setFences_dies (s : State) (a : Agent) (f : Fences) : (s.setFences a f).dies = s.dies := (congrArg State.dies (s.setFences_rest a f) :)
@[simp] theorem State.setFences_xmsgs (s : State) (a : Agent) (f : Fences) : (s.setFences a f).xmsgs = s.xmsgs := (congrArg State.xmsgs (s.setFences_rest a f) :)
@[simp] theorem State.setFences_tlb (s : State) (a : Agent) (f : Fences) : (s.setFences a f).tlb = s.tlb := (congrArg State.tlb (s.setFences_rest a f) :)
@[simp] theorem State.setFences_tlb2 (s : State) (a : Agent) (f : Fences) : (s.setFences a f).tlb2 = s.tlb2 := (congrArg State.tlb2 (s.setFences_rest a f) :)
@[simp] theorem State.setFences_reqs (s : State) (a : Agent) (f : Fences) : (s.setFences a f).reqs = s.reqs := (congrArg State.reqs (s.setFences_rest a f) :)
@[simp] theorem State.setFences_feLog (s : State) (a : Agent) (f : Fences) : (s.setFences a f).feLog = s.feLog := (congrArg State.feLog (s.setFences_rest a f) :)
@[simp] theorem State.setFences_moves (s : State) (a : Agent) (f : Fences) : (s.setFences a f).moves = s.moves := (congrArg State.moves (s.setFences_rest a f) :)
@[simp] theorem State.setFences_code (s : State) (a : Agent) (f : Fences) : (s.setFences a f).code = s.code := (congrArg State.code (s.setFences_rest a f) :)
@[simp] theorem State.setFences_clk (s : State) (a : Agent) (f : Fences) : (s.setFences a f).clk = s.clk := (congrArg State.clk (s.setFences_rest a f) :)
@[simp] theorem State.setFences_feClk (s : State) (a : Agent) (f : Fences) : (s.setFences a f).feClk = s.feClk := (congrArg State.feClk (s.setFences_rest a f) :)
@[simp] theorem State.setFences_grids (s : State) (a : Agent) (f : Fences) : (s.setFences a f).grids = s.grids := (congrArg State.grids (s.setFences_rest a f) :)
@[simp] theorem State.setFences_gangs (s : State) (a : Agent) (f : Fences) : (s.setFences a f).gangs = s.gangs := (congrArg State.gangs (s.setFences_rest a f) :)
@[simp] theorem State.setFences_cmds (s : State) (a : Agent) (f : Fences) : (s.setFences a f).cmds = s.cmds := (congrArg State.cmds (s.setFences_rest a f) :)
@[simp] theorem State.setFences_evq (s : State) (a : Agent) (f : Fences) : (s.setFences a f).evq = s.evq := (congrArg State.evq (s.setFences_rest a f) :)
@[simp] theorem State.setFences_parts (s : State) (a : Agent) (f : Fences) : (s.setFences a f).parts = s.parts := (congrArg State.parts (s.setFences_rest a f) :)
@[simp] theorem State.setFences_queues (s : State) (a : Agent) (f : Fences) : (s.setFences a f).queues = s.queues := (congrArg State.queues (s.setFences_rest a f) :)
@[simp] theorem State.setFences_wake (s : State) (a : Agent) (f : Fences) : (s.setFences a f).wake = s.wake := (congrArg State.wake (s.setFences_rest a f) :)
@[simp] theorem State.setFences_board (s : State) (a : Agent) (f : Fences) : (s.setFences a f).board = s.board := (congrArg State.board (s.setFences_rest a f) :)
@[simp] theorem State.setFences_trust (s : State) (a : Agent) (f : Fences) : (s.setFences a f).trust = s.trust := (congrArg State.trust (s.setFences_rest a f) :)
@[simp] theorem State.setFences_ports (s : State) (a : Agent) (f : Fences) : (s.setFences a f).ports = s.ports := (congrArg State.ports (s.setFences_rest a f) :)
@[simp] theorem State.setFences_txns (s : State) (a : Agent) (f : Fences) : (s.setFences a f).txns = s.txns := (congrArg State.txns (s.setFences_rest a f) :)
@[simp] theorem State.setFences_inbox (s : State) (a : Agent) (f : Fences) : (s.setFences a f).inbox = s.inbox := (congrArg State.inbox (s.setFences_rest a f) :)
@[simp] theorem State.setFences_snap (s : State) (a : Agent) (f : Fences) : (s.setFences a f).snap = s.snap := (congrArg State.snap (s.setFences_rest a f) :)
@[simp] theorem State.setFences_snapAt (s : State) (a : Agent) (f : Fences) : (s.setFences a f).snapAt = s.snapAt := (congrArg State.snapAt (s.setFences_rest a f) :)
@[simp] theorem State.setFences_snapDue (s : State) (a : Agent) (f : Fences) : (s.setFences a f).snapDue = s.snapDue := (congrArg State.snapDue (s.setFences_rest a f) :)
@[simp] theorem State.setFences_served (s : State) (a : Agent) (f : Fences) : (s.setFences a f).served = s.served := (congrArg State.served (s.setFences_rest a f) :)
@[simp] theorem State.setFences_holders (s : State) (a : Agent) (f : Fences) : (s.setFences a f).holders = s.holders := (congrArg State.holders (s.setFences_rest a f) :)
@[simp] theorem State.setFences_watch (s : State) (a : Agent) (f : Fences) : (s.setFences a f).watch = s.watch := (congrArg State.watch (s.setFences_rest a f) :)
@[simp] theorem State.setFences_debugOut (s : State) (a : Agent) (f : Fences) : (s.setFences a f).debugOut = s.debugOut := (congrArg State.debugOut (s.setFences_rest a f) :)
@[simp] theorem State.setFences_waitTl (s : State) (a : Agent) (f : Fences) : (s.setFences a f).waitTl = s.waitTl := (congrArg State.waitTl (s.setFences_rest a f) :)
@[simp] theorem State.setFences_devSeq (s : State) (a : Agent) (f : Fences) : (s.setFences a f).devSeq = s.devSeq := (congrArg State.devSeq (s.setFences_rest a f) :)
@[simp] theorem State.setFences_agenda (s : State) (a : Agent) (f : Fences) : (s.setFences a f).agenda = s.agenda := (congrArg State.agenda (s.setFences_rest a f) :)
@[simp] theorem State.setFences_picks (s : State) (a : Agent) (f : Fences) : (s.setFences a f).picks = s.picks := (congrArg State.picks (s.setFences_rest a f) :)
@[simp] theorem State.setFences_cur (s : State) (a : Agent) (f : Fences) : (s.setFences a f).cur = s.cur := (congrArg State.cur (s.setFences_rest a f) :)
@[simp] theorem State.setFences_steps (s : State) (a : Agent) (f : Fences) : (s.setFences a f).steps = s.steps := (congrArg State.steps (s.setFences_rest a f) :)
@[simp] theorem State.setFences_fresh (s : State) (a : Agent) (f : Fences) : (s.setFences a f).fresh = s.fresh := (congrArg State.fresh (s.setFences_rest a f) :)
@[simp] theorem State.setFences_free (s : State) (a : Agent) (f : Fences) : (s.setFences a f).free = s.free := (congrArg State.free (s.setFences_rest a f) :)

/-! ### State.modFences -/

/-- All but the mills and the front-end cores stays. -/
theorem State.modFences_rest (s : State) (a : Agent) (g : Fences → Fences) : { s.modFences a g with mills := s.mills, fe := s.fe } = s := by
  cases a <;> rfl
@[simp] theorem State.modFences_mem (s : State) (a : Agent) (g : Fences → Fences) : (s.modFences a g).mem = s.mem := (congrArg State.mem (s.modFences_rest a g) :)
@[simp] theorem State.modFences_lineKeys (s : State) (a : Agent) (g : Fences → Fences) : (s.modFences a g).lineKeys = s.lineKeys := (congrArg State.lineKeys (s.modFences_rest a g) :)
@[simp] theorem State.modFences_kidGens (s : State) (a : Agent) (g : Fences → Fences) : (s.modFences a g).kidGens = s.kidGens := (congrArg State.kidGens (s.modFences_rest a g) :)
@[simp] theorem State.modFences_poison (s : State) (a : Agent) (g : Fences → Fences) : (s.modFences a g).poison = s.poison := (congrArg State.poison (s.modFences_rest a g) :)
@[simp] theorem State.modFences_fixed (s : State) (a : Agent) (g : Fences → Fences) : (s.modFences a g).fixed = s.fixed := (congrArg State.fixed (s.modFences_rest a g) :)
@[simp] theorem State.modFences_sramErrs (s : State) (a : Agent) (g : Fences → Fences) : (s.modFences a g).sramErrs = s.sramErrs := (congrArg State.sramErrs (s.modFences_rest a g) :)
@[simp] theorem State.modFences_posted (s : State) (a : Agent) (g : Fences → Fences) : (s.modFences a g).posted = s.posted := (congrArg State.posted (s.modFences_rest a g) :)
@[simp] theorem State.modFences_settle (s : State) (a : Agent) (g : Fences → Fences) : (s.modFences a g).settle = s.settle := (congrArg State.settle (s.modFences_rest a g) :)
@[simp] theorem State.modFences_places (s : State) (a : Agent) (g : Fences → Fences) : (s.modFences a g).places = s.places := (congrArg State.places (s.modFences_rest a g) :)
@[simp] theorem State.modFences_dies (s : State) (a : Agent) (g : Fences → Fences) : (s.modFences a g).dies = s.dies := (congrArg State.dies (s.modFences_rest a g) :)
@[simp] theorem State.modFences_xmsgs (s : State) (a : Agent) (g : Fences → Fences) : (s.modFences a g).xmsgs = s.xmsgs := (congrArg State.xmsgs (s.modFences_rest a g) :)
@[simp] theorem State.modFences_tlb (s : State) (a : Agent) (g : Fences → Fences) : (s.modFences a g).tlb = s.tlb := (congrArg State.tlb (s.modFences_rest a g) :)
@[simp] theorem State.modFences_tlb2 (s : State) (a : Agent) (g : Fences → Fences) : (s.modFences a g).tlb2 = s.tlb2 := (congrArg State.tlb2 (s.modFences_rest a g) :)
@[simp] theorem State.modFences_reqs (s : State) (a : Agent) (g : Fences → Fences) : (s.modFences a g).reqs = s.reqs := (congrArg State.reqs (s.modFences_rest a g) :)
@[simp] theorem State.modFences_feLog (s : State) (a : Agent) (g : Fences → Fences) : (s.modFences a g).feLog = s.feLog := (congrArg State.feLog (s.modFences_rest a g) :)
@[simp] theorem State.modFences_moves (s : State) (a : Agent) (g : Fences → Fences) : (s.modFences a g).moves = s.moves := (congrArg State.moves (s.modFences_rest a g) :)
@[simp] theorem State.modFences_code (s : State) (a : Agent) (g : Fences → Fences) : (s.modFences a g).code = s.code := (congrArg State.code (s.modFences_rest a g) :)
@[simp] theorem State.modFences_clk (s : State) (a : Agent) (g : Fences → Fences) : (s.modFences a g).clk = s.clk := (congrArg State.clk (s.modFences_rest a g) :)
@[simp] theorem State.modFences_feClk (s : State) (a : Agent) (g : Fences → Fences) : (s.modFences a g).feClk = s.feClk := (congrArg State.feClk (s.modFences_rest a g) :)
@[simp] theorem State.modFences_grids (s : State) (a : Agent) (g : Fences → Fences) : (s.modFences a g).grids = s.grids := (congrArg State.grids (s.modFences_rest a g) :)
@[simp] theorem State.modFences_gangs (s : State) (a : Agent) (g : Fences → Fences) : (s.modFences a g).gangs = s.gangs := (congrArg State.gangs (s.modFences_rest a g) :)
@[simp] theorem State.modFences_cmds (s : State) (a : Agent) (g : Fences → Fences) : (s.modFences a g).cmds = s.cmds := (congrArg State.cmds (s.modFences_rest a g) :)
@[simp] theorem State.modFences_evq (s : State) (a : Agent) (g : Fences → Fences) : (s.modFences a g).evq = s.evq := (congrArg State.evq (s.modFences_rest a g) :)
@[simp] theorem State.modFences_parts (s : State) (a : Agent) (g : Fences → Fences) : (s.modFences a g).parts = s.parts := (congrArg State.parts (s.modFences_rest a g) :)
@[simp] theorem State.modFences_queues (s : State) (a : Agent) (g : Fences → Fences) : (s.modFences a g).queues = s.queues := (congrArg State.queues (s.modFences_rest a g) :)
@[simp] theorem State.modFences_wake (s : State) (a : Agent) (g : Fences → Fences) : (s.modFences a g).wake = s.wake := (congrArg State.wake (s.modFences_rest a g) :)
@[simp] theorem State.modFences_board (s : State) (a : Agent) (g : Fences → Fences) : (s.modFences a g).board = s.board := (congrArg State.board (s.modFences_rest a g) :)
@[simp] theorem State.modFences_trust (s : State) (a : Agent) (g : Fences → Fences) : (s.modFences a g).trust = s.trust := (congrArg State.trust (s.modFences_rest a g) :)
@[simp] theorem State.modFences_ports (s : State) (a : Agent) (g : Fences → Fences) : (s.modFences a g).ports = s.ports := (congrArg State.ports (s.modFences_rest a g) :)
@[simp] theorem State.modFences_txns (s : State) (a : Agent) (g : Fences → Fences) : (s.modFences a g).txns = s.txns := (congrArg State.txns (s.modFences_rest a g) :)
@[simp] theorem State.modFences_inbox (s : State) (a : Agent) (g : Fences → Fences) : (s.modFences a g).inbox = s.inbox := (congrArg State.inbox (s.modFences_rest a g) :)
@[simp] theorem State.modFences_snap (s : State) (a : Agent) (g : Fences → Fences) : (s.modFences a g).snap = s.snap := (congrArg State.snap (s.modFences_rest a g) :)
@[simp] theorem State.modFences_snapAt (s : State) (a : Agent) (g : Fences → Fences) : (s.modFences a g).snapAt = s.snapAt := (congrArg State.snapAt (s.modFences_rest a g) :)
@[simp] theorem State.modFences_snapDue (s : State) (a : Agent) (g : Fences → Fences) : (s.modFences a g).snapDue = s.snapDue := (congrArg State.snapDue (s.modFences_rest a g) :)
@[simp] theorem State.modFences_served (s : State) (a : Agent) (g : Fences → Fences) : (s.modFences a g).served = s.served := (congrArg State.served (s.modFences_rest a g) :)
@[simp] theorem State.modFences_holders (s : State) (a : Agent) (g : Fences → Fences) : (s.modFences a g).holders = s.holders := (congrArg State.holders (s.modFences_rest a g) :)
@[simp] theorem State.modFences_watch (s : State) (a : Agent) (g : Fences → Fences) : (s.modFences a g).watch = s.watch := (congrArg State.watch (s.modFences_rest a g) :)
@[simp] theorem State.modFences_debugOut (s : State) (a : Agent) (g : Fences → Fences) : (s.modFences a g).debugOut = s.debugOut := (congrArg State.debugOut (s.modFences_rest a g) :)
@[simp] theorem State.modFences_waitTl (s : State) (a : Agent) (g : Fences → Fences) : (s.modFences a g).waitTl = s.waitTl := (congrArg State.waitTl (s.modFences_rest a g) :)
@[simp] theorem State.modFences_devSeq (s : State) (a : Agent) (g : Fences → Fences) : (s.modFences a g).devSeq = s.devSeq := (congrArg State.devSeq (s.modFences_rest a g) :)
@[simp] theorem State.modFences_agenda (s : State) (a : Agent) (g : Fences → Fences) : (s.modFences a g).agenda = s.agenda := (congrArg State.agenda (s.modFences_rest a g) :)
@[simp] theorem State.modFences_picks (s : State) (a : Agent) (g : Fences → Fences) : (s.modFences a g).picks = s.picks := (congrArg State.picks (s.modFences_rest a g) :)
@[simp] theorem State.modFences_cur (s : State) (a : Agent) (g : Fences → Fences) : (s.modFences a g).cur = s.cur := (congrArg State.cur (s.modFences_rest a g) :)
@[simp] theorem State.modFences_steps (s : State) (a : Agent) (g : Fences → Fences) : (s.modFences a g).steps = s.steps := (congrArg State.steps (s.modFences_rest a g) :)
@[simp] theorem State.modFences_fresh (s : State) (a : Agent) (g : Fences → Fences) : (s.modFences a g).fresh = s.fresh := (congrArg State.fresh (s.modFences_rest a g) :)
@[simp] theorem State.modFences_free (s : State) (a : Agent) (g : Fences → Fences) : (s.modFences a g).free = s.free := (congrArg State.free (s.modFences_rest a g) :)

/-! ### Thread.setPos -/

@[simp] theorem Thread.setPos_pc (t : Thread) (p : Nat) (w : Word) : (t.setPos p w).pc = t.pc := rfl
@[simp] theorem Thread.setPos_clause (t : Thread) (p : Nat) (w : Word) : (t.setPos p w).clause = t.clause := rfl
@[simp] theorem Thread.setPos_depth (t : Thread) (p : Nat) (w : Word) : (t.setPos p w).depth = t.depth := rfl
@[simp] theorem Thread.setPos_low (t : Thread) (p : Nat) (w : Word) : (t.setPos p w).low = t.low := rfl
@[simp] theorem Thread.setPos_winPending (t : Thread) (p : Nat) (w : Word) : (t.setPos p w).winPending = t.winPending := rfl
@[simp] theorem Thread.setPos_guards (t : Thread) (p : Nat) (w : Word) : (t.setPos p w).guards = t.guards := rfl
@[simp] theorem Thread.setPos_latch (t : Thread) (p : Nat) (w : Word) : (t.setPos p w).latch = t.latch := rfl
@[simp] theorem Thread.setPos_long (t : Thread) (p : Nat) (w : Word) : (t.setPos p w).long = t.long := rfl
@[simp] theorem Thread.setPos_sys (t : Thread) (p : Nat) (w : Word) : (t.setPos p w).sys = t.sys := rfl
@[simp] theorem Thread.setPos_uni (t : Thread) (p : Nat) (w : Word) : (t.setPos p w).uni = t.uni := rfl
@[simp] theorem Thread.setPos_hpat (t : Thread) (p : Nat) (w : Word) : (t.setPos p w).hpat = t.hpat := rfl
@[simp] theorem Thread.setPos_exited (t : Thread) (p : Nat) (w : Word) : (t.setPos p w).exited = t.exited := rfl
@[simp] theorem Thread.setPos_waiting (t : Thread) (p : Nat) (w : Word) : (t.setPos p w).waiting = t.waiting := rfl
@[simp] theorem Thread.setPos_syncAt (t : Thread) (p : Nat) (w : Word) : (t.setPos p w).syncAt = t.syncAt := rfl
@[simp] theorem Thread.setPos_bufMode (t : Thread) (p : Nat) (w : Word) : (t.setPos p w).bufMode = t.bufMode := rfl
@[simp] theorem Thread.setPos_loopBuf (t : Thread) (p : Nat) (w : Word) : (t.setPos p w).loopBuf = t.loopBuf := rfl
@[simp] theorem Thread.setPos_halted (t : Thread) (p : Nat) (w : Word) : (t.setPos p w).halted = t.halted := rfl
@[simp] theorem Thread.setPos_haltDue (t : Thread) (p : Nat) (w : Word) : (t.setPos p w).haltDue = t.haltDue := rfl
@[simp] theorem Thread.setPos_stopped (t : Thread) (p : Nat) (w : Word) : (t.setPos p w).stopped = t.stopped := rfl
@[simp] theorem Thread.setPos_saveDepth (t : Thread) (p : Nat) (w : Word) : (t.setPos p w).saveDepth = t.saveDepth := rfl
@[simp] theorem Thread.setPos_saveDone (t : Thread) (p : Nat) (w : Word) : (t.setPos p w).saveDone = t.saveDone := rfl
@[simp] theorem Thread.setPos_posted (t : Thread) (p : Nat) (w : Word) : (t.setPos p w).posted = t.posted := rfl
@[simp] theorem Thread.setPos_lastRec (t : Thread) (p : Nat) (w : Word) : (t.setPos p w).lastRec = t.lastRec := rfl
@[simp] theorem Thread.setPos_recCount (t : Thread) (p : Nat) (w : Word) : (t.setPos p w).recCount = t.recCount := rfl
@[simp] theorem Thread.setPos_masks (t : Thread) (p : Nat) (w : Word) : (t.setPos p w).masks = t.masks := rfl
@[simp] theorem Thread.setPos_yields (t : Thread) (p : Nat) (w : Word) : (t.setPos p w).yields = t.yields := rfl
@[simp] theorem Thread.setPos_armed (t : Thread) (p : Nat) (w : Word) : (t.setPos p w).armed = t.armed := rfl
@[simp] theorem Thread.setPos_refused (t : Thread) (p : Nat) (w : Word) : (t.setPos p w).refused = t.refused := rfl
@[simp] theorem Thread.setPos_uniPoison (t : Thread) (p : Nat) (w : Word) : (t.setPos p w).uniPoison = t.uniPoison := rfl
@[simp] theorem Thread.setPos_blocked (t : Thread) (p : Nat) (w : Word) : (t.setPos p w).blocked = t.blocked := rfl
@[simp] theorem Thread.setPos_entryDue (t : Thread) (p : Nat) (w : Word) : (t.setPos p w).entryDue = t.entryDue := rfl
@[simp] theorem Thread.setPos_resumed (t : Thread) (p : Nat) (w : Word) : (t.setPos p w).resumed = t.resumed := rfl
@[simp] theorem Thread.setPos_restAt (t : Thread) (p : Nat) (w : Word) : (t.setPos p w).restAt = t.restAt := rfl
@[simp] theorem Thread.setPos_jumped (t : Thread) (p : Nat) (w : Word) : (t.setPos p w).jumped = t.jumped := rfl
@[simp] theorem Thread.setPos_due (t : Thread) (p : Nat) (w : Word) : (t.setPos p w).due = t.due := rfl

/-! ### Thread.setV -/

@[simp] theorem Thread.setV_pc (t : Thread) (n : Nat) (w : Word) : (t.setV n w).pc = t.pc := rfl
@[simp] theorem Thread.setV_clause (t : Thread) (n : Nat) (w : Word) : (t.setV n w).clause = t.clause := rfl
@[simp] theorem Thread.setV_depth (t : Thread) (n : Nat) (w : Word) : (t.setV n w).depth = t.depth := rfl
@[simp] theorem Thread.setV_low (t : Thread) (n : Nat) (w : Word) : (t.setV n w).low = t.low := rfl
@[simp] theorem Thread.setV_winPending (t : Thread) (n : Nat) (w : Word) : (t.setV n w).winPending = t.winPending := rfl
@[simp] theorem Thread.setV_guards (t : Thread) (n : Nat) (w : Word) : (t.setV n w).guards = t.guards := rfl
@[simp] theorem Thread.setV_latch (t : Thread) (n : Nat) (w : Word) : (t.setV n w).latch = t.latch := rfl
@[simp] theorem Thread.setV_long (t : Thread) (n : Nat) (w : Word) : (t.setV n w).long = t.long := rfl
@[simp] theorem Thread.setV_sys (t : Thread) (n : Nat) (w : Word) : (t.setV n w).sys = t.sys := rfl
@[simp] theorem Thread.setV_uni (t : Thread) (n : Nat) (w : Word) : (t.setV n w).uni = t.uni := rfl
@[simp] theorem Thread.setV_hpat (t : Thread) (n : Nat) (w : Word) : (t.setV n w).hpat = t.hpat := rfl
@[simp] theorem Thread.setV_exited (t : Thread) (n : Nat) (w : Word) : (t.setV n w).exited = t.exited := rfl
@[simp] theorem Thread.setV_waiting (t : Thread) (n : Nat) (w : Word) : (t.setV n w).waiting = t.waiting := rfl
@[simp] theorem Thread.setV_syncAt (t : Thread) (n : Nat) (w : Word) : (t.setV n w).syncAt = t.syncAt := rfl
@[simp] theorem Thread.setV_bufMode (t : Thread) (n : Nat) (w : Word) : (t.setV n w).bufMode = t.bufMode := rfl
@[simp] theorem Thread.setV_loopBuf (t : Thread) (n : Nat) (w : Word) : (t.setV n w).loopBuf = t.loopBuf := rfl
@[simp] theorem Thread.setV_halted (t : Thread) (n : Nat) (w : Word) : (t.setV n w).halted = t.halted := rfl
@[simp] theorem Thread.setV_haltDue (t : Thread) (n : Nat) (w : Word) : (t.setV n w).haltDue = t.haltDue := rfl
@[simp] theorem Thread.setV_stopped (t : Thread) (n : Nat) (w : Word) : (t.setV n w).stopped = t.stopped := rfl
@[simp] theorem Thread.setV_saveDepth (t : Thread) (n : Nat) (w : Word) : (t.setV n w).saveDepth = t.saveDepth := rfl
@[simp] theorem Thread.setV_saveDone (t : Thread) (n : Nat) (w : Word) : (t.setV n w).saveDone = t.saveDone := rfl
@[simp] theorem Thread.setV_posted (t : Thread) (n : Nat) (w : Word) : (t.setV n w).posted = t.posted := rfl
@[simp] theorem Thread.setV_lastRec (t : Thread) (n : Nat) (w : Word) : (t.setV n w).lastRec = t.lastRec := rfl
@[simp] theorem Thread.setV_recCount (t : Thread) (n : Nat) (w : Word) : (t.setV n w).recCount = t.recCount := rfl
@[simp] theorem Thread.setV_masks (t : Thread) (n : Nat) (w : Word) : (t.setV n w).masks = t.masks := rfl
@[simp] theorem Thread.setV_yields (t : Thread) (n : Nat) (w : Word) : (t.setV n w).yields = t.yields := rfl
@[simp] theorem Thread.setV_armed (t : Thread) (n : Nat) (w : Word) : (t.setV n w).armed = t.armed := rfl
@[simp] theorem Thread.setV_refused (t : Thread) (n : Nat) (w : Word) : (t.setV n w).refused = t.refused := rfl
@[simp] theorem Thread.setV_uniPoison (t : Thread) (n : Nat) (w : Word) : (t.setV n w).uniPoison = t.uniPoison := rfl
@[simp] theorem Thread.setV_blocked (t : Thread) (n : Nat) (w : Word) : (t.setV n w).blocked = t.blocked := rfl
@[simp] theorem Thread.setV_entryDue (t : Thread) (n : Nat) (w : Word) : (t.setV n w).entryDue = t.entryDue := rfl
@[simp] theorem Thread.setV_resumed (t : Thread) (n : Nat) (w : Word) : (t.setV n w).resumed = t.resumed := rfl
@[simp] theorem Thread.setV_restAt (t : Thread) (n : Nat) (w : Word) : (t.setV n w).restAt = t.restAt := rfl
@[simp] theorem Thread.setV_jumped (t : Thread) (n : Nat) (w : Word) : (t.setV n w).jumped = t.jumped := rfl
@[simp] theorem Thread.setV_due (t : Thread) (n : Nat) (w : Word) : (t.setV n w).due = t.due := rfl

/-! ### Thread.setGuard -/

@[simp] theorem Thread.setGuard_pc (t : Thread) (k : Nat) (b : Bool) : (t.setGuard k b).pc = t.pc := by
  unfold Thread.setGuard; split <;> rfl
@[simp] theorem Thread.setGuard_clause (t : Thread) (k : Nat) (b : Bool) : (t.setGuard k b).clause = t.clause := by
  unfold Thread.setGuard; split <;> rfl
@[simp] theorem Thread.setGuard_stack (t : Thread) (k : Nat) (b : Bool) : (t.setGuard k b).stack = t.stack := by
  unfold Thread.setGuard; split <;> rfl
@[simp] theorem Thread.setGuard_depth (t : Thread) (k : Nat) (b : Bool) : (t.setGuard k b).depth = t.depth := by
  unfold Thread.setGuard; split <;> rfl
@[simp] theorem Thread.setGuard_low (t : Thread) (k : Nat) (b : Bool) : (t.setGuard k b).low = t.low := by
  unfold Thread.setGuard; split <;> rfl
@[simp] theorem Thread.setGuard_winPending (t : Thread) (k : Nat) (b : Bool) : (t.setGuard k b).winPending = t.winPending := by
  unfold Thread.setGuard; split <;> rfl
@[simp] theorem Thread.setGuard_latch (t : Thread) (k : Nat) (b : Bool) : (t.setGuard k b).latch = t.latch := by
  unfold Thread.setGuard; split <;> rfl
@[simp] theorem Thread.setGuard_long (t : Thread) (k : Nat) (b : Bool) : (t.setGuard k b).long = t.long := by
  unfold Thread.setGuard; split <;> rfl
@[simp] theorem Thread.setGuard_sys (t : Thread) (k : Nat) (b : Bool) : (t.setGuard k b).sys = t.sys := by
  unfold Thread.setGuard; split <;> rfl
@[simp] theorem Thread.setGuard_uni (t : Thread) (k : Nat) (b : Bool) : (t.setGuard k b).uni = t.uni := by
  unfold Thread.setGuard; split <;> rfl
@[simp] theorem Thread.setGuard_hpat (t : Thread) (k : Nat) (b : Bool) : (t.setGuard k b).hpat = t.hpat := by
  unfold Thread.setGuard; split <;> rfl
@[simp] theorem Thread.setGuard_exited (t : Thread) (k : Nat) (b : Bool) : (t.setGuard k b).exited = t.exited := by
  unfold Thread.setGuard; split <;> rfl
@[simp] theorem Thread.setGuard_waiting (t : Thread) (k : Nat) (b : Bool) : (t.setGuard k b).waiting = t.waiting := by
  unfold Thread.setGuard; split <;> rfl
@[simp] theorem Thread.setGuard_syncAt (t : Thread) (k : Nat) (b : Bool) : (t.setGuard k b).syncAt = t.syncAt := by
  unfold Thread.setGuard; split <;> rfl
@[simp] theorem Thread.setGuard_bufMode (t : Thread) (k : Nat) (b : Bool) : (t.setGuard k b).bufMode = t.bufMode := by
  unfold Thread.setGuard; split <;> rfl
@[simp] theorem Thread.setGuard_loopBuf (t : Thread) (k : Nat) (b : Bool) : (t.setGuard k b).loopBuf = t.loopBuf := by
  unfold Thread.setGuard; split <;> rfl
@[simp] theorem Thread.setGuard_halted (t : Thread) (k : Nat) (b : Bool) : (t.setGuard k b).halted = t.halted := by
  unfold Thread.setGuard; split <;> rfl
@[simp] theorem Thread.setGuard_haltDue (t : Thread) (k : Nat) (b : Bool) : (t.setGuard k b).haltDue = t.haltDue := by
  unfold Thread.setGuard; split <;> rfl
@[simp] theorem Thread.setGuard_stopped (t : Thread) (k : Nat) (b : Bool) : (t.setGuard k b).stopped = t.stopped := by
  unfold Thread.setGuard; split <;> rfl
@[simp] theorem Thread.setGuard_saveDepth (t : Thread) (k : Nat) (b : Bool) : (t.setGuard k b).saveDepth = t.saveDepth := by
  unfold Thread.setGuard; split <;> rfl
@[simp] theorem Thread.setGuard_saveDone (t : Thread) (k : Nat) (b : Bool) : (t.setGuard k b).saveDone = t.saveDone := by
  unfold Thread.setGuard; split <;> rfl
@[simp] theorem Thread.setGuard_posted (t : Thread) (k : Nat) (b : Bool) : (t.setGuard k b).posted = t.posted := by
  unfold Thread.setGuard; split <;> rfl
@[simp] theorem Thread.setGuard_lastRec (t : Thread) (k : Nat) (b : Bool) : (t.setGuard k b).lastRec = t.lastRec := by
  unfold Thread.setGuard; split <;> rfl
@[simp] theorem Thread.setGuard_recCount (t : Thread) (k : Nat) (b : Bool) : (t.setGuard k b).recCount = t.recCount := by
  unfold Thread.setGuard; split <;> rfl
@[simp] theorem Thread.setGuard_masks (t : Thread) (k : Nat) (b : Bool) : (t.setGuard k b).masks = t.masks := by
  unfold Thread.setGuard; split <;> rfl
@[simp] theorem Thread.setGuard_yields (t : Thread) (k : Nat) (b : Bool) : (t.setGuard k b).yields = t.yields := by
  unfold Thread.setGuard; split <;> rfl
@[simp] theorem Thread.setGuard_armed (t : Thread) (k : Nat) (b : Bool) : (t.setGuard k b).armed = t.armed := by
  unfold Thread.setGuard; split <;> rfl
@[simp] theorem Thread.setGuard_refused (t : Thread) (k : Nat) (b : Bool) : (t.setGuard k b).refused = t.refused := by
  unfold Thread.setGuard; split <;> rfl
@[simp] theorem Thread.setGuard_regPoison (t : Thread) (k : Nat) (b : Bool) : (t.setGuard k b).regPoison = t.regPoison := by
  unfold Thread.setGuard; split <;> rfl
@[simp] theorem Thread.setGuard_uniPoison (t : Thread) (k : Nat) (b : Bool) : (t.setGuard k b).uniPoison = t.uniPoison := by
  unfold Thread.setGuard; split <;> rfl
@[simp] theorem Thread.setGuard_blocked (t : Thread) (k : Nat) (b : Bool) : (t.setGuard k b).blocked = t.blocked := by
  unfold Thread.setGuard; split <;> rfl
@[simp] theorem Thread.setGuard_entryDue (t : Thread) (k : Nat) (b : Bool) : (t.setGuard k b).entryDue = t.entryDue := by
  unfold Thread.setGuard; split <;> rfl
@[simp] theorem Thread.setGuard_resumed (t : Thread) (k : Nat) (b : Bool) : (t.setGuard k b).resumed = t.resumed := by
  unfold Thread.setGuard; split <;> rfl
@[simp] theorem Thread.setGuard_restAt (t : Thread) (k : Nat) (b : Bool) : (t.setGuard k b).restAt = t.restAt := by
  unfold Thread.setGuard; split <;> rfl
@[simp] theorem Thread.setGuard_jumped (t : Thread) (k : Nat) (b : Bool) : (t.setGuard k b).jumped = t.jumped := by
  unfold Thread.setGuard; split <;> rfl
@[simp] theorem Thread.setGuard_due (t : Thread) (k : Nat) (b : Bool) : (t.setGuard k b).due = t.due := by
  unfold Thread.setGuard; split <;> rfl

/-! ### Thread.ageLatch -/

@[simp] theorem Thread.ageLatch_pc (t : Thread) : (t.ageLatch).pc = t.pc := rfl
@[simp] theorem Thread.ageLatch_clause (t : Thread) : (t.ageLatch).clause = t.clause := rfl
@[simp] theorem Thread.ageLatch_stack (t : Thread) : (t.ageLatch).stack = t.stack := rfl
@[simp] theorem Thread.ageLatch_depth (t : Thread) : (t.ageLatch).depth = t.depth := rfl
@[simp] theorem Thread.ageLatch_low (t : Thread) : (t.ageLatch).low = t.low := rfl
@[simp] theorem Thread.ageLatch_winPending (t : Thread) : (t.ageLatch).winPending = t.winPending := rfl
@[simp] theorem Thread.ageLatch_guards (t : Thread) : (t.ageLatch).guards = t.guards := rfl
@[simp] theorem Thread.ageLatch_long (t : Thread) : (t.ageLatch).long = t.long := rfl
@[simp] theorem Thread.ageLatch_sys (t : Thread) : (t.ageLatch).sys = t.sys := rfl
@[simp] theorem Thread.ageLatch_uni (t : Thread) : (t.ageLatch).uni = t.uni := rfl
@[simp] theorem Thread.ageLatch_hpat (t : Thread) : (t.ageLatch).hpat = t.hpat := rfl
@[simp] theorem Thread.ageLatch_exited (t : Thread) : (t.ageLatch).exited = t.exited := rfl
@[simp] theorem Thread.ageLatch_waiting (t : Thread) : (t.ageLatch).waiting = t.waiting := rfl
@[simp] theorem Thread.ageLatch_syncAt (t : Thread) : (t.ageLatch).syncAt = t.syncAt := rfl
@[simp] theorem Thread.ageLatch_bufMode (t : Thread) : (t.ageLatch).bufMode = t.bufMode := rfl
@[simp] theorem Thread.ageLatch_loopBuf (t : Thread) : (t.ageLatch).loopBuf = t.loopBuf := rfl
@[simp] theorem Thread.ageLatch_halted (t : Thread) : (t.ageLatch).halted = t.halted := rfl
@[simp] theorem Thread.ageLatch_haltDue (t : Thread) : (t.ageLatch).haltDue = t.haltDue := rfl
@[simp] theorem Thread.ageLatch_stopped (t : Thread) : (t.ageLatch).stopped = t.stopped := rfl
@[simp] theorem Thread.ageLatch_saveDepth (t : Thread) : (t.ageLatch).saveDepth = t.saveDepth := rfl
@[simp] theorem Thread.ageLatch_saveDone (t : Thread) : (t.ageLatch).saveDone = t.saveDone := rfl
@[simp] theorem Thread.ageLatch_posted (t : Thread) : (t.ageLatch).posted = t.posted := rfl
@[simp] theorem Thread.ageLatch_lastRec (t : Thread) : (t.ageLatch).lastRec = t.lastRec := rfl
@[simp] theorem Thread.ageLatch_recCount (t : Thread) : (t.ageLatch).recCount = t.recCount := rfl
@[simp] theorem Thread.ageLatch_masks (t : Thread) : (t.ageLatch).masks = t.masks := rfl
@[simp] theorem Thread.ageLatch_yields (t : Thread) : (t.ageLatch).yields = t.yields := rfl
@[simp] theorem Thread.ageLatch_armed (t : Thread) : (t.ageLatch).armed = t.armed := rfl
@[simp] theorem Thread.ageLatch_refused (t : Thread) : (t.ageLatch).refused = t.refused := rfl
@[simp] theorem Thread.ageLatch_regPoison (t : Thread) : (t.ageLatch).regPoison = t.regPoison := rfl
@[simp] theorem Thread.ageLatch_uniPoison (t : Thread) : (t.ageLatch).uniPoison = t.uniPoison := rfl
@[simp] theorem Thread.ageLatch_blocked (t : Thread) : (t.ageLatch).blocked = t.blocked := rfl
@[simp] theorem Thread.ageLatch_entryDue (t : Thread) : (t.ageLatch).entryDue = t.entryDue := rfl
@[simp] theorem Thread.ageLatch_resumed (t : Thread) : (t.ageLatch).resumed = t.resumed := rfl
@[simp] theorem Thread.ageLatch_restAt (t : Thread) : (t.ageLatch).restAt = t.restAt := rfl
@[simp] theorem Thread.ageLatch_jumped (t : Thread) : (t.ageLatch).jumped = t.jumped := rfl
@[simp] theorem Thread.ageLatch_due (t : Thread) : (t.ageLatch).due = t.due := rfl

/-! ### Thread.capture -/

@[simp] theorem Thread.capture_pc (t : Thread) (v : Option Word) : (t.capture v).pc = t.pc := rfl
@[simp] theorem Thread.capture_clause (t : Thread) (v : Option Word) : (t.capture v).clause = t.clause := rfl
@[simp] theorem Thread.capture_stack (t : Thread) (v : Option Word) : (t.capture v).stack = t.stack := rfl
@[simp] theorem Thread.capture_depth (t : Thread) (v : Option Word) : (t.capture v).depth = t.depth := rfl
@[simp] theorem Thread.capture_low (t : Thread) (v : Option Word) : (t.capture v).low = t.low := rfl
@[simp] theorem Thread.capture_winPending (t : Thread) (v : Option Word) : (t.capture v).winPending = t.winPending := rfl
@[simp] theorem Thread.capture_guards (t : Thread) (v : Option Word) : (t.capture v).guards = t.guards := rfl
@[simp] theorem Thread.capture_long (t : Thread) (v : Option Word) : (t.capture v).long = t.long := rfl
@[simp] theorem Thread.capture_sys (t : Thread) (v : Option Word) : (t.capture v).sys = t.sys := rfl
@[simp] theorem Thread.capture_uni (t : Thread) (v : Option Word) : (t.capture v).uni = t.uni := rfl
@[simp] theorem Thread.capture_hpat (t : Thread) (v : Option Word) : (t.capture v).hpat = t.hpat := rfl
@[simp] theorem Thread.capture_exited (t : Thread) (v : Option Word) : (t.capture v).exited = t.exited := rfl
@[simp] theorem Thread.capture_waiting (t : Thread) (v : Option Word) : (t.capture v).waiting = t.waiting := rfl
@[simp] theorem Thread.capture_syncAt (t : Thread) (v : Option Word) : (t.capture v).syncAt = t.syncAt := rfl
@[simp] theorem Thread.capture_bufMode (t : Thread) (v : Option Word) : (t.capture v).bufMode = t.bufMode := rfl
@[simp] theorem Thread.capture_loopBuf (t : Thread) (v : Option Word) : (t.capture v).loopBuf = t.loopBuf := rfl
@[simp] theorem Thread.capture_halted (t : Thread) (v : Option Word) : (t.capture v).halted = t.halted := rfl
@[simp] theorem Thread.capture_haltDue (t : Thread) (v : Option Word) : (t.capture v).haltDue = t.haltDue := rfl
@[simp] theorem Thread.capture_stopped (t : Thread) (v : Option Word) : (t.capture v).stopped = t.stopped := rfl
@[simp] theorem Thread.capture_saveDepth (t : Thread) (v : Option Word) : (t.capture v).saveDepth = t.saveDepth := rfl
@[simp] theorem Thread.capture_saveDone (t : Thread) (v : Option Word) : (t.capture v).saveDone = t.saveDone := rfl
@[simp] theorem Thread.capture_posted (t : Thread) (v : Option Word) : (t.capture v).posted = t.posted := rfl
@[simp] theorem Thread.capture_lastRec (t : Thread) (v : Option Word) : (t.capture v).lastRec = t.lastRec := rfl
@[simp] theorem Thread.capture_recCount (t : Thread) (v : Option Word) : (t.capture v).recCount = t.recCount := rfl
@[simp] theorem Thread.capture_masks (t : Thread) (v : Option Word) : (t.capture v).masks = t.masks := rfl
@[simp] theorem Thread.capture_yields (t : Thread) (v : Option Word) : (t.capture v).yields = t.yields := rfl
@[simp] theorem Thread.capture_armed (t : Thread) (v : Option Word) : (t.capture v).armed = t.armed := rfl
@[simp] theorem Thread.capture_refused (t : Thread) (v : Option Word) : (t.capture v).refused = t.refused := rfl
@[simp] theorem Thread.capture_regPoison (t : Thread) (v : Option Word) : (t.capture v).regPoison = t.regPoison := rfl
@[simp] theorem Thread.capture_uniPoison (t : Thread) (v : Option Word) : (t.capture v).uniPoison = t.uniPoison := rfl
@[simp] theorem Thread.capture_blocked (t : Thread) (v : Option Word) : (t.capture v).blocked = t.blocked := rfl
@[simp] theorem Thread.capture_entryDue (t : Thread) (v : Option Word) : (t.capture v).entryDue = t.entryDue := rfl
@[simp] theorem Thread.capture_resumed (t : Thread) (v : Option Word) : (t.capture v).resumed = t.resumed := rfl
@[simp] theorem Thread.capture_restAt (t : Thread) (v : Option Word) : (t.capture v).restAt = t.restAt := rfl
@[simp] theorem Thread.capture_jumped (t : Thread) (v : Option Word) : (t.capture v).jumped = t.jumped := rfl
@[simp] theorem Thread.capture_due (t : Thread) (v : Option Word) : (t.capture v).due = t.due := rfl

/-! ### Thread.advance -/

@[simp] theorem Thread.advance_stack (t : Thread) (n : DWord) : (t.advance n).stack = t.stack := by
  unfold Thread.advance; repeat (split <;> try rfl)
@[simp] theorem Thread.advance_depth (t : Thread) (n : DWord) : (t.advance n).depth = t.depth := by
  unfold Thread.advance; repeat (split <;> try rfl)
@[simp] theorem Thread.advance_low (t : Thread) (n : DWord) : (t.advance n).low = t.low := by
  unfold Thread.advance; repeat (split <;> try rfl)
@[simp] theorem Thread.advance_winPending (t : Thread) (n : DWord) : (t.advance n).winPending = t.winPending := by
  unfold Thread.advance; repeat (split <;> try rfl)
@[simp] theorem Thread.advance_guards (t : Thread) (n : DWord) : (t.advance n).guards = t.guards := by
  unfold Thread.advance; repeat (split <;> try rfl)
@[simp] theorem Thread.advance_latch (t : Thread) (n : DWord) : (t.advance n).latch = t.latch := by
  unfold Thread.advance; repeat (split <;> try rfl)
@[simp] theorem Thread.advance_long (t : Thread) (n : DWord) : (t.advance n).long = t.long := by
  unfold Thread.advance; repeat (split <;> try rfl)
@[simp] theorem Thread.advance_sys (t : Thread) (n : DWord) : (t.advance n).sys = t.sys := by
  unfold Thread.advance; repeat (split <;> try rfl)
@[simp] theorem Thread.advance_uni (t : Thread) (n : DWord) : (t.advance n).uni = t.uni := by
  unfold Thread.advance; repeat (split <;> try rfl)
@[simp] theorem Thread.advance_hpat (t : Thread) (n : DWord) : (t.advance n).hpat = t.hpat := by
  unfold Thread.advance; repeat (split <;> try rfl)
@[simp] theorem Thread.advance_exited (t : Thread) (n : DWord) : (t.advance n).exited = t.exited := by
  unfold Thread.advance; repeat (split <;> try rfl)
@[simp] theorem Thread.advance_waiting (t : Thread) (n : DWord) : (t.advance n).waiting = t.waiting := by
  unfold Thread.advance; repeat (split <;> try rfl)
@[simp] theorem Thread.advance_syncAt (t : Thread) (n : DWord) : (t.advance n).syncAt = t.syncAt := by
  unfold Thread.advance; repeat (split <;> try rfl)
@[simp] theorem Thread.advance_bufMode (t : Thread) (n : DWord) : (t.advance n).bufMode = t.bufMode := by
  unfold Thread.advance; repeat (split <;> try rfl)
@[simp] theorem Thread.advance_loopBuf (t : Thread) (n : DWord) : (t.advance n).loopBuf = t.loopBuf := by
  unfold Thread.advance; repeat (split <;> try rfl)
@[simp] theorem Thread.advance_halted (t : Thread) (n : DWord) : (t.advance n).halted = t.halted := by
  unfold Thread.advance; repeat (split <;> try rfl)
@[simp] theorem Thread.advance_haltDue (t : Thread) (n : DWord) : (t.advance n).haltDue = t.haltDue := by
  unfold Thread.advance; repeat (split <;> try rfl)
@[simp] theorem Thread.advance_stopped (t : Thread) (n : DWord) : (t.advance n).stopped = t.stopped := by
  unfold Thread.advance; repeat (split <;> try rfl)
@[simp] theorem Thread.advance_saveDepth (t : Thread) (n : DWord) : (t.advance n).saveDepth = t.saveDepth := by
  unfold Thread.advance; repeat (split <;> try rfl)
@[simp] theorem Thread.advance_saveDone (t : Thread) (n : DWord) : (t.advance n).saveDone = t.saveDone := by
  unfold Thread.advance; repeat (split <;> try rfl)
@[simp] theorem Thread.advance_posted (t : Thread) (n : DWord) : (t.advance n).posted = t.posted := by
  unfold Thread.advance; repeat (split <;> try rfl)
@[simp] theorem Thread.advance_lastRec (t : Thread) (n : DWord) : (t.advance n).lastRec = t.lastRec := by
  unfold Thread.advance; repeat (split <;> try rfl)
@[simp] theorem Thread.advance_recCount (t : Thread) (n : DWord) : (t.advance n).recCount = t.recCount := by
  unfold Thread.advance; repeat (split <;> try rfl)
@[simp] theorem Thread.advance_masks (t : Thread) (n : DWord) : (t.advance n).masks = t.masks := by
  unfold Thread.advance; repeat (split <;> try rfl)
@[simp] theorem Thread.advance_yields (t : Thread) (n : DWord) : (t.advance n).yields = t.yields := by
  unfold Thread.advance; repeat (split <;> try rfl)
@[simp] theorem Thread.advance_armed (t : Thread) (n : DWord) : (t.advance n).armed = t.armed := by
  unfold Thread.advance; repeat (split <;> try rfl)
@[simp] theorem Thread.advance_refused (t : Thread) (n : DWord) : (t.advance n).refused = t.refused := by
  unfold Thread.advance; repeat (split <;> try rfl)
@[simp] theorem Thread.advance_regPoison (t : Thread) (n : DWord) : (t.advance n).regPoison = t.regPoison := by
  unfold Thread.advance; repeat (split <;> try rfl)
@[simp] theorem Thread.advance_uniPoison (t : Thread) (n : DWord) : (t.advance n).uniPoison = t.uniPoison := by
  unfold Thread.advance; repeat (split <;> try rfl)
@[simp] theorem Thread.advance_blocked (t : Thread) (n : DWord) : (t.advance n).blocked = t.blocked := by
  unfold Thread.advance; repeat (split <;> try rfl)
@[simp] theorem Thread.advance_entryDue (t : Thread) (n : DWord) : (t.advance n).entryDue = t.entryDue := by
  unfold Thread.advance; repeat (split <;> try rfl)
@[simp] theorem Thread.advance_resumed (t : Thread) (n : DWord) : (t.advance n).resumed = t.resumed := by
  unfold Thread.advance; repeat (split <;> try rfl)
@[simp] theorem Thread.advance_restAt (t : Thread) (n : DWord) : (t.advance n).restAt = t.restAt := by
  unfold Thread.advance; repeat (split <;> try rfl)
@[simp] theorem Thread.advance_jumped (t : Thread) (n : DWord) : (t.advance n).jumped = t.jumped := by
  unfold Thread.advance; repeat (split <;> try rfl)
@[simp] theorem Thread.advance_due (t : Thread) (n : DWord) : (t.advance n).due = t.due := by
  unfold Thread.advance; repeat (split <;> try rfl)

/-! ### Thread.enter -/

@[simp] theorem Thread.enter_pc (t : Thread) : (t.enter).pc = t.pc := rfl
@[simp] theorem Thread.enter_clause (t : Thread) : (t.enter).clause = t.clause := rfl
@[simp] theorem Thread.enter_low (t : Thread) : (t.enter).low = t.low := rfl
@[simp] theorem Thread.enter_winPending (t : Thread) : (t.enter).winPending = t.winPending := rfl
@[simp] theorem Thread.enter_guards (t : Thread) : (t.enter).guards = t.guards := rfl
@[simp] theorem Thread.enter_latch (t : Thread) : (t.enter).latch = t.latch := rfl
@[simp] theorem Thread.enter_long (t : Thread) : (t.enter).long = t.long := rfl
@[simp] theorem Thread.enter_sys (t : Thread) : (t.enter).sys = t.sys := rfl
@[simp] theorem Thread.enter_uni (t : Thread) : (t.enter).uni = t.uni := rfl
@[simp] theorem Thread.enter_hpat (t : Thread) : (t.enter).hpat = t.hpat := rfl
@[simp] theorem Thread.enter_exited (t : Thread) : (t.enter).exited = t.exited := rfl
@[simp] theorem Thread.enter_waiting (t : Thread) : (t.enter).waiting = t.waiting := rfl
@[simp] theorem Thread.enter_syncAt (t : Thread) : (t.enter).syncAt = t.syncAt := rfl
@[simp] theorem Thread.enter_bufMode (t : Thread) : (t.enter).bufMode = t.bufMode := rfl
@[simp] theorem Thread.enter_loopBuf (t : Thread) : (t.enter).loopBuf = t.loopBuf := rfl
@[simp] theorem Thread.enter_halted (t : Thread) : (t.enter).halted = t.halted := rfl
@[simp] theorem Thread.enter_haltDue (t : Thread) : (t.enter).haltDue = t.haltDue := rfl
@[simp] theorem Thread.enter_stopped (t : Thread) : (t.enter).stopped = t.stopped := rfl
@[simp] theorem Thread.enter_saveDepth (t : Thread) : (t.enter).saveDepth = t.saveDepth := rfl
@[simp] theorem Thread.enter_saveDone (t : Thread) : (t.enter).saveDone = t.saveDone := rfl
@[simp] theorem Thread.enter_posted (t : Thread) : (t.enter).posted = t.posted := rfl
@[simp] theorem Thread.enter_lastRec (t : Thread) : (t.enter).lastRec = t.lastRec := rfl
@[simp] theorem Thread.enter_recCount (t : Thread) : (t.enter).recCount = t.recCount := rfl
@[simp] theorem Thread.enter_masks (t : Thread) : (t.enter).masks = t.masks := rfl
@[simp] theorem Thread.enter_yields (t : Thread) : (t.enter).yields = t.yields := rfl
@[simp] theorem Thread.enter_armed (t : Thread) : (t.enter).armed = t.armed := rfl
@[simp] theorem Thread.enter_refused (t : Thread) : (t.enter).refused = t.refused := rfl
@[simp] theorem Thread.enter_uniPoison (t : Thread) : (t.enter).uniPoison = t.uniPoison := rfl
@[simp] theorem Thread.enter_blocked (t : Thread) : (t.enter).blocked = t.blocked := rfl
@[simp] theorem Thread.enter_entryDue (t : Thread) : (t.enter).entryDue = t.entryDue := rfl
@[simp] theorem Thread.enter_resumed (t : Thread) : (t.enter).resumed = t.resumed := rfl
@[simp] theorem Thread.enter_restAt (t : Thread) : (t.enter).restAt = t.restAt := rfl
@[simp] theorem Thread.enter_jumped (t : Thread) : (t.enter).jumped = t.jumped := rfl
@[simp] theorem Thread.enter_due (t : Thread) : (t.enter).due = t.due := rfl

end Sys2Proof.Machine
end

