-- ==== Sys2Proof/Laws/Look.lean ====
section
/-! SUPPORT. What reading for an instruction in flight can do (spec/13_sluice_ports_and_patterns.md R279): it changes mills and
threads alone, and nothing where there is nothing to read. -/

namespace Sys2Proof.Machine

@[simp] theorem State.lookAll_none {s : State} {a : Agent} {lane : Nat} {o : LongOp} (h : o.look = none) : s.lookAll a lane o = s := by
  simp [State.lookAll, h]
theorem State.lookClear_rest (s : State) (a : Agent) (k : Look) : { s.lookClear a k with mills := s.mills, fe := s.fe } = s := by
  unfold State.lookClear
  split <;> rfl
/-- All but the mills and the front-end cores stays. -/
theorem State.lookNow_rest (s : State) (a : Agent) (lane : Nat) (o : LongOp) (k : Look) :
    { s.lookNow a lane o k with mills := s.mills, fe := s.fe } = s :=
  (congrArg (fun t : State => { t with mills := s.mills, fe := s.fe }) ((s.lookClear a k).modThread_rest a lane fun t =>
    { t with long := t.long.map fun q => if q.id == o.id then q.seen (s.lookVal a k) else q })).trans (s.lookClear_rest a k)
theorem State.lookBefore_rest (s : State) (a : Agent) (lane : Nat) (k : Look) :
    { s.lookBefore a lane k with mills := s.mills, fe := s.fe } = s := by
  unfold State.lookBefore
  generalize List.range lane = ls
  induction ls generalizing s with
  | nil => rfl
  | cons l ls ih =>
    refine (congrArg (fun t : State => { t with mills := s.mills, fe := s.fe }) (ih _)).trans ?_
    cases h : (s.thread a l).long.find? (fun q => q.look == some k) with
    | none => simp only [h]
    | some q => simpa only [h] using s.lookNow_rest a l q k
theorem State.lookAll_rest (s : State) (a : Agent) (lane : Nat) (o : LongOp) :
    { s.lookAll a lane o with mills := s.mills, fe := s.fe } = s := by
  unfold State.lookAll
  split
  · rfl
  · exact (congrArg (fun t : State => { t with mills := s.mills, fe := s.fe }) (State.lookNow_rest ..)).trans (s.lookBefore_rest ..)
  · exact s.lookNow_rest ..

end Sys2Proof.Machine
end

