-- ==== Sys2Proof/Laws/Memory.lean ====
section
/-! SUPPORT. Every operation on a sparse map, and so on memory, keeps the canonical form. -/

namespace Sys2Proof.Machine

variable {α : Type} [DecidableEq α] {d : α}

theorem swfFrom_le : ∀ {m : Sparse α} {lo lo' : Nat}, lo' ≤ lo → swfFrom d lo m = true → swfFrom d lo' m = true
  | [], _, _, _, _ => rfl
  | (k, v) :: m, lo, lo', h, hw => by
    simp only [swfFrom, Bool.and_eq_true, decide_eq_true_eq] at hw ⊢
    exact ⟨⟨h.trans hw.1.1, hw.1.2⟩, hw.2⟩

theorem swfFrom_filter (p : Nat × α → Bool) : ∀ {m : Sparse α} {lo : Nat}, swfFrom d lo m = true → swfFrom d lo (m.filter p) = true
  | [], _, _ => rfl
  | (k, v) :: m, lo, hw => by
    simp only [swfFrom, Bool.and_eq_true, decide_eq_true_eq] at hw
    by_cases h : p (k, v) = true
    · simp only [List.filter_cons, h, if_true, swfFrom, Bool.and_eq_true, decide_eq_true_eq]
      exact ⟨hw.1, swfFrom_filter p hw.2⟩
    · simp only [List.filter_cons, h, if_false, Bool.false_eq_true]
      exact swfFrom_le (by omega) (swfFrom_filter p hw.2)

theorem swfFrom_sinsert {x : Nat} {v : α} (hv : v ≠ d) : ∀ {m : Sparse α} {lo : Nat}, lo ≤ x → swfFrom d lo m = true →
    swfFrom d lo (sinsert m x v) = true
  | [], lo, h, _ => by simp [sinsert, swfFrom, h, hv]
  | (k, w) :: m, lo, h, hw => by
    simp only [swfFrom, Bool.and_eq_true, decide_eq_true_eq, bne_iff_ne] at hw
    unfold sinsert
    split
    · simp only [swfFrom, Bool.and_eq_true, decide_eq_true_eq, bne_iff_ne]
      exact ⟨⟨h, hv⟩, ⟨by omega, hw.1.2⟩, hw.2⟩
    · split
      · subst_vars
        simp only [swfFrom, Bool.and_eq_true, decide_eq_true_eq, bne_iff_ne]
        exact ⟨⟨h, hv⟩, hw.2⟩
      · simp only [swfFrom, Bool.and_eq_true, decide_eq_true_eq, bne_iff_ne]
        exact ⟨hw.1, swfFrom_sinsert hv (by omega) hw.2⟩

/-- Writing one key keeps the canonical form. -/
theorem swf_sput {m : Sparse α} (h : swf d m = true) (x : Nat) (v : α) : swf d (sput d m x v) = true := by
  unfold sput swf
  split
  · exact swfFrom_filter _ h
  · rename_i hv; exact swfFrom_sinsert hv (Nat.zero_le x) h
/-- Clearing a range keeps it. -/
theorem swf_sclear {m : Sparse α} (h : swf d m = true) (lo hi : Nat) : swf d (sclear m lo hi) = true := swfFrom_filter _ h

/-! ### Memory -/

theorem wf_memPut {m : Memory} (h : Memory.wf m = true) (k : Nat) (b : Byte) : Memory.wf (memPut m k b) = true := swf_sput h k b
theorem wf_memPutList : ∀ {bs : List Byte} {m : Memory}, Memory.wf m = true → ∀ k, Memory.wf (memPutList m k bs) = true
  | [], _, h, _ => h
  | b :: bs, _, h, k => wf_memPutList (bs := bs) (wf_memPut h k b) (k + 1)
theorem wf_memClear {m : Memory} (h : Memory.wf m = true) (lo hi : Nat) : Memory.wf (memClear m lo hi) = true := swf_sclear h lo hi

theorem wf_rekeyBlock {s : State} (h : Memory.wf s.mem = true) (gen blk : Nat) : Memory.wf (s.rekeyBlock gen blk).mem = true := by
  unfold State.rekeyBlock
  simp only
  split
  · exact h
  · dsimp only
    split
    · exact h
    · exact wf_memPutList h _
/-- A store under a key, with its blocks decrypted and encrypted again around it, keeps the form. -/
theorem wf_storeBytes {s : State} (h : Memory.wf s.mem = true) (gen key : Nat) (bs : List Byte) :
    Memory.wf (s.storeBytes gen key bs).mem = true := by
  have fold : ∀ (ls : List Nat) (s : State), Memory.wf s.mem = true →
      Memory.wf (ls.foldl (fun s blk => s.rekeyBlock gen blk) s).mem = true := by
    intro ls
    induction ls with
    | nil => exact fun _ h => h
    | cons l ls ih => exact fun s h => ih _ (wf_rekeyBlock h _ _)
  unfold State.storeBytes
  simp only [State.clearMarks]
  apply wf_memPutList
  split
  · exact fold _ _ h
  · exact h

theorem wf_reset : Memory.wf State.reset.mem = true := rfl

/-! ### What a key reads as -/

omit [DecidableEq α] in
theorem sget_filter (p : Nat × α → Bool) (x : Nat) (hp : ∀ v, p (x, v) = true) : ∀ m : Sparse α, sget d (m.filter p) x = sget d m x
  | [] => rfl
  | (k, v) :: m => by
    by_cases hk : k = x
    · subst hk; simp [hp, sget]
    · by_cases h : p (k, v) = true <;> simp [h, sget, hk, sget_filter p x hp m]
theorem sget_sput_same (m : Sparse α) (x : Nat) (v : α) : sget d (sput d m x v) x = v := by
  have none : ∀ m : Sparse α, sget d (m.filter fun p => p.1 != x) x = d := by
    intro m
    induction m with
    | nil => rfl
    | cons e m ih =>
      obtain ⟨k, w⟩ := e
      by_cases h : k = x
      · subst h; simpa [List.filter_cons] using ih
      · simpa [List.filter_cons, h, sget] using ih
  have ins : ∀ m : Sparse α, sget d (sinsert m x v) x = v := by
    intro m
    induction m with
    | nil => simp [sinsert, sget]
    | cons e m ih =>
      obtain ⟨k, w⟩ := e
      unfold sinsert
      split
      · simp [sget]
      · split
        · simp [sget]
        · rename_i h; simp only [sget]; rw [if_neg (fun e => h e.symm)]; exact ih
  unfold sput
  split
  · rename_i h; rw [h]; exact none m
  · exact ins m
theorem sget_sput_other (m : Sparse α) {x y : Nat} (v : α) (hy : y ≠ x) : sget d (sput d m x v) y = sget d m y := by
  have ins : ∀ m : Sparse α, sget d (sinsert m x v) y = sget d m y := by
    intro m
    induction m with
    | nil => simp [sinsert, sget, Ne.symm hy]
    | cons e m ih =>
      obtain ⟨k, w⟩ := e
      unfold sinsert
      split
      · simp [sget, Ne.symm hy]
      · split
        · subst_vars; simp [sget, Ne.symm hy]
        · simp only [sget]; rw [ih]
  unfold sput
  split
  · exact sget_filter _ _ (by simp [hy]) m
  · exact ins m

/-- A byte just written reads back, and every other byte reads as before. -/
theorem memGet_memPut (m : Memory) (k : Nat) (b : Byte) (a : Nat) : memGet (memPut m k b) a = if a = k then b else memGet m a := by
  unfold memGet memPut
  split
  · subst_vars; exact sget_sput_same m _ b
  · rename_i h; exact sget_sput_other m b h

end Sys2Proof.Machine
end

