-- ==== Sys2Proof/Laws/PerInstr.lean ====
section
/-! SUPPORT. Statements made per instruction: the family Opcodes says that the opcode and the fields of an instruction name it. -/

namespace Sys2Proof.Laws

/-- The opcode and fields of a well-formed word are those that decode to it. -/
def Opcodes.Statement (i : Instr) : Prop := ∀ op f, i.word? = some (op, f) → i.WellFormed = true → instrOf op f = some i

theorem opcodes_of {i : Instr} {op : BitVec 8} {f : Fields} (h : i.word? = some (op, f)) (hi : i.WellFormed = true → instrOf op f = some i) :
    Opcodes.Statement i := by
  intro op' f' h' hw
  rw [h] at h'
  cases h'
  exact hi hw
theorem opcodes_none {i : Instr} (h : i.word? = none) : Opcodes.Statement i := by
  intro op f h'
  rw [h] at h'
  cases h'

theorem Opcodes.nop (f : Fields) : Opcodes.Statement (.nop f) := opcodes_of rfl fun _ => rfl
theorem Opcodes.mov (f : Fields) : Opcodes.Statement (.mov f) := opcodes_of rfl fun _ => rfl
theorem Opcodes.sel (f : Fields) : Opcodes.Statement (.sel f) := opcodes_of rfl fun _ => rfl
theorem Opcodes.lea (f : Fields) : Opcodes.Statement (.lea f) := opcodes_of rfl fun _ => rfl
theorem Opcodes.add (f : Fields) : Opcodes.Statement (.add f) := opcodes_of rfl fun _ => rfl
theorem Opcodes.sub (f : Fields) : Opcodes.Statement (.sub f) := opcodes_of rfl fun _ => rfl
theorem Opcodes.addc (f : Fields) : Opcodes.Statement (.addc f) := opcodes_of rfl fun _ => rfl
theorem Opcodes.subb (f : Fields) : Opcodes.Statement (.subb f) := opcodes_of rfl fun _ => rfl
theorem Opcodes.mul (f : Fields) : Opcodes.Statement (.mul f) := opcodes_of rfl fun _ => rfl
theorem Opcodes.mulh (f : Fields) : Opcodes.Statement (.mulh f) := opcodes_of rfl fun _ => rfl
theorem Opcodes.mad (f : Fields) : Opcodes.Statement (.mad f) := opcodes_of rfl fun _ => rfl
theorem Opcodes.div (f : Fields) : Opcodes.Statement (.div f) := opcodes_of rfl fun _ => rfl
theorem Opcodes.rem (f : Fields) : Opcodes.Statement (.rem f) := opcodes_of rfl fun _ => rfl
theorem Opcodes.min (f : Fields) : Opcodes.Statement (.min f) := opcodes_of rfl fun _ => rfl
theorem Opcodes.max (f : Fields) : Opcodes.Statement (.max f) := opcodes_of rfl fun _ => rfl
theorem Opcodes.abs (f : Fields) : Opcodes.Statement (.abs f) := opcodes_of rfl fun _ => rfl
theorem Opcodes.neg (f : Fields) : Opcodes.Statement (.neg f) := opcodes_of rfl fun _ => rfl
theorem Opcodes.and (f : Fields) : Opcodes.Statement (.and f) := opcodes_of rfl fun _ => rfl
theorem Opcodes.or (f : Fields) : Opcodes.Statement (.or f) := opcodes_of rfl fun _ => rfl
theorem Opcodes.xor (f : Fields) : Opcodes.Statement (.xor f) := opcodes_of rfl fun _ => rfl
theorem Opcodes.andn (f : Fields) : Opcodes.Statement (.andn f) := opcodes_of rfl fun _ => rfl
theorem Opcodes.not (f : Fields) : Opcodes.Statement (.not f) := opcodes_of rfl fun _ => rfl
theorem Opcodes.shl (f : Fields) : Opcodes.Statement (.shl f) := opcodes_of rfl fun _ => rfl
theorem Opcodes.shr (f : Fields) : Opcodes.Statement (.shr f) := opcodes_of rfl fun _ => rfl
theorem Opcodes.sar (f : Fields) : Opcodes.Statement (.sar f) := opcodes_of rfl fun _ => rfl
theorem Opcodes.rot (f : Fields) : Opcodes.Statement (.rot f) := opcodes_of rfl fun _ => rfl
theorem Opcodes.fsh (f : Fields) : Opcodes.Statement (.fsh f) := opcodes_of rfl fun _ => rfl
theorem Opcodes.clz (f : Fields) : Opcodes.Statement (.clz f) := opcodes_of rfl fun _ => rfl
theorem Opcodes.popc (f : Fields) : Opcodes.Statement (.popc f) := opcodes_of rfl fun _ => rfl
theorem Opcodes.brev (f : Fields) : Opcodes.Statement (.brev f) := opcodes_of rfl fun _ => rfl
theorem Opcodes.bfx (f : Fields) : Opcodes.Statement (.bfx f) := opcodes_of rfl fun _ => rfl
theorem Opcodes.bfi (f : Fields) : Opcodes.Statement (.bfi f) := opcodes_of rfl fun _ => rfl
theorem Opcodes.cmp (f : Fields) : Opcodes.Statement (.cmp f) := opcodes_of rfl fun _ => rfl
theorem Opcodes.gop (f : Fields) : Opcodes.Statement (.gop f) := opcodes_of rfl fun _ => rfl
theorem Opcodes.gmov (f : Fields) : Opcodes.Statement (.gmov f) := opcodes_of rfl fun _ => rfl
theorem Opcodes.fadd (f : Fields) : Opcodes.Statement (.fadd f) := opcodes_of rfl fun _ => rfl
theorem Opcodes.fsub (f : Fields) : Opcodes.Statement (.fsub f) := opcodes_of rfl fun _ => rfl
theorem Opcodes.fmul (f : Fields) : Opcodes.Statement (.fmul f) := opcodes_of rfl fun _ => rfl
theorem Opcodes.fma (f : Fields) : Opcodes.Statement (.fma f) := opcodes_of rfl fun _ => rfl
theorem Opcodes.fmin (f : Fields) : Opcodes.Statement (.fmin f) := opcodes_of rfl fun _ => rfl
theorem Opcodes.fmax (f : Fields) : Opcodes.Statement (.fmax f) := opcodes_of rfl fun _ => rfl
theorem Opcodes.fcmp (f : Fields) : Opcodes.Statement (.fcmp f) := opcodes_of rfl fun _ => rfl
theorem Opcodes.fclass (f : Fields) : Opcodes.Statement (.fclass f) := opcodes_of rfl fun _ => rfl
theorem Opcodes.frcp (f : Fields) : Opcodes.Statement (.frcp f) := opcodes_of rfl fun _ => rfl
theorem Opcodes.frsq (f : Fields) : Opcodes.Statement (.frsq f) := opcodes_of rfl fun _ => rfl
theorem Opcodes.fsqrt (f : Fields) : Opcodes.Statement (.fsqrt f) := opcodes_of rfl fun _ => rfl
theorem Opcodes.fex2 (f : Fields) : Opcodes.Statement (.fex2 f) := opcodes_of rfl fun _ => rfl
theorem Opcodes.flg2 (f : Fields) : Opcodes.Statement (.flg2 f) := opcodes_of rfl fun _ => rfl
theorem Opcodes.fsin (f : Fields) : Opcodes.Statement (.fsin f) := opcodes_of rfl fun _ => rfl
theorem Opcodes.fcos (f : Fields) : Opcodes.Statement (.fcos f) := opcodes_of rfl fun _ => rfl
theorem Opcodes.cvt (f : Fields) : Opcodes.Statement (.cvt f) := opcodes_of rfl fun _ => rfl
theorem Opcodes.frnd (f : Fields) : Opcodes.Statement (.frnd f) := opcodes_of rfl fun _ => rfl
theorem Opcodes.hadd2 (f : Fields) : Opcodes.Statement (.hadd2 f) := opcodes_of rfl fun _ => rfl
theorem Opcodes.hmul2 (f : Fields) : Opcodes.Statement (.hmul2 f) := opcodes_of rfl fun _ => rfl
theorem Opcodes.hfma2 (f : Fields) : Opcodes.Statement (.hfma2 f) := opcodes_of rfl fun _ => rfl
theorem Opcodes.fscl (f : Fields) : Opcodes.Statement (.fscl f) := opcodes_of rfl fun _ => rfl
theorem Opcodes.bra (f : Fields) : Opcodes.Statement (.bra f) := opcodes_of rfl fun _ => rfl
theorem Opcodes.brx (f : Fields) : Opcodes.Statement (.brx f) := opcodes_of rfl fun _ => rfl
theorem Opcodes.call (f : Fields) : Opcodes.Statement (.call f) := opcodes_of rfl fun _ => rfl
theorem Opcodes.callx (f : Fields) : Opcodes.Statement (.callx f) := opcodes_of rfl fun _ => rfl
theorem Opcodes.ret (f : Fields) : Opcodes.Statement (.ret f) := opcodes_of rfl fun _ => rfl
theorem Opcodes.loop (f : Fields) : Opcodes.Statement (.loop f) := opcodes_of rfl fun _ => rfl
theorem Opcodes.exit (f : Fields) : Opcodes.Statement (.exit f) := opcodes_of rfl fun _ => rfl
theorem Opcodes.trap (f : Fields) : Opcodes.Statement (.trap f) := opcodes_of rfl fun _ => rfl
theorem Opcodes.bkpt (f : Fields) : Opcodes.Statement (.bkpt f) := opcodes_of rfl fun _ => rfl
theorem Opcodes.mfs (f : Fields) : Opcodes.Statement (.mfs f) := opcodes_of rfl fun _ => rfl
theorem Opcodes.mts (f : Fields) : Opcodes.Statement (.mts f) := opcodes_of rfl fun _ => rfl
theorem Opcodes.rfe (f : Fields) : Opcodes.Statement (.rfe f) := opcodes_of rfl fun _ => rfl
theorem Opcodes.pause (f : Fields) : Opcodes.Statement (.pause f) := opcodes_of rfl fun _ => rfl
theorem Opcodes.wspill (f : Fields) : Opcodes.Statement (.wspill f) := opcodes_of rfl fun _ => rfl
theorem Opcodes.wfill (f : Fields) : Opcodes.Statement (.wfill f) := opcodes_of rfl fun _ => rfl
theorem Opcodes.snap (f : Fields) : Opcodes.Statement (.snap f) := opcodes_of rfl fun _ => rfl
theorem Opcodes.ld (f : Fields) : Opcodes.Statement (.ld f) := opcodes_of rfl fun _ => rfl
theorem Opcodes.st (f : Fields) : Opcodes.Statement (.st f) := opcodes_of rfl fun _ => rfl
theorem Opcodes.ldx (f : Fields) : Opcodes.Statement (.ldx f) := opcodes_of rfl fun _ => rfl
theorem Opcodes.stx (f : Fields) : Opcodes.Statement (.stx f) := opcodes_of rfl fun _ => rfl
theorem Opcodes.pref (f : Fields) : Opcodes.Statement (.pref f) := opcodes_of rfl fun _ => rfl
theorem Opcodes.tileld (f : Fields) : Opcodes.Statement (.tileld f) := opcodes_of rfl fun _ => rfl
theorem Opcodes.tilest (f : Fields) : Opcodes.Statement (.tilest f) := opcodes_of rfl fun _ => rfl
theorem Opcodes.cinv (f : Fields) : Opcodes.Statement (.cinv f) := opcodes_of rfl fun _ => rfl
theorem Opcodes.cwb (f : Fields) : Opcodes.Statement (.cwb f) := opcodes_of rfl fun _ => rfl
theorem Opcodes.xbar (f : Fields) : Opcodes.Statement (.xbar f) := opcodes_of rfl fun h => by
  have h : Instr.formOk (.xbar f) = true := by simp only [Instr.WellFormed, Instr.word?, Bool.and_eq_true] at h; exact h.2
  simp_all [Instr.formOk, instrOf]
theorem Opcodes.xbarM (f : Fields) : Opcodes.Statement (.xbarM f) := opcodes_of rfl fun h => by
  have h : Instr.formOk (.xbarM f) = true := by simp only [Instr.WellFormed, Instr.word?, Bool.and_eq_true] at h; exact h.2
  simp_all [Instr.formOk, instrOf]
theorem Opcodes.xtld (f : Fields) : Opcodes.Statement (.xtld f) := opcodes_of rfl fun _ => rfl
theorem Opcodes.shfl (f : Fields) : Opcodes.Statement (.shfl f) := opcodes_of rfl fun _ => rfl
theorem Opcodes.bcast (f : Fields) : Opcodes.Statement (.bcast f) := opcodes_of rfl fun _ => rfl
theorem Opcodes.vote (f : Fields) : Opcodes.Statement (.vote f) := opcodes_of rfl fun _ => rfl
theorem Opcodes.redw (f : Fields) : Opcodes.Statement (.redw f) := opcodes_of rfl fun _ => rfl
theorem Opcodes.scanw (f : Fields) : Opcodes.Statement (.scanw f) := opcodes_of rfl fun _ => rfl
theorem Opcodes.topk (f : Fields) : Opcodes.Statement (.topk f) := opcodes_of rfl fun _ => rfl
theorem Opcodes.sortw (f : Fields) : Opcodes.Statement (.sortw f) := opcodes_of rfl fun _ => rfl
theorem Opcodes.matchw (f : Fields) : Opcodes.Statement (.matchw f) := opcodes_of rfl fun _ => rfl
theorem Opcodes.smov (f : Fields) : Opcodes.Statement (.smov f) := opcodes_of rfl fun _ => rfl
theorem Opcodes.sclaim (f : Fields) : Opcodes.Statement (.sclaim f) := opcodes_of rfl fun _ => rfl
theorem Opcodes.srel (f : Fields) : Opcodes.Statement (.srel f) := opcodes_of rfl fun _ => rfl
theorem Opcodes.wid (f : Fields) : Opcodes.Statement (.wid f) := opcodes_of rfl fun _ => rfl
theorem Opcodes.syncw (f : Fields) : Opcodes.Statement (.syncw f) := opcodes_of rfl fun _ => rfl
theorem Opcodes.dot4 (f : Fields) : Opcodes.Statement (.dot4 f) := opcodes_of rfl fun _ => rfl
theorem Opcodes.dot8 (f : Fields) : Opcodes.Statement (.dot8 f) := opcodes_of rfl fun _ => rfl
theorem Opcodes.qscl (f : Fields) : Opcodes.Statement (.qscl f) := opcodes_of rfl fun _ => rfl
theorem Opcodes.qpack (f : Fields) : Opcodes.Statement (.qpack f) := opcodes_of rfl fun _ => rfl
theorem Opcodes.unpk (f : Fields) : Opcodes.Statement (.unpk f) := opcodes_of rfl fun _ => rfl
theorem Opcodes.spawn (f : Fields) : Opcodes.Statement (.spawn f) := opcodes_of rfl fun _ => rfl
theorem Opcodes.grab (f : Fields) : Opcodes.Statement (.grab f) := opcodes_of rfl fun _ => rfl
theorem Opcodes.yield (f : Fields) : Opcodes.Statement (.yield f) := opcodes_of rfl fun _ => rfl
theorem Opcodes.fence (f : Fields) : Opcodes.Statement (.fence f) := opcodes_of rfl fun _ => rfl
theorem Opcodes.fwait (f : Fields) : Opcodes.Statement (.fwait f) := opcodes_of rfl fun _ => rfl
theorem Opcodes.atom (f : Fields) : Opcodes.Statement (.atom f) := opcodes_of rfl fun _ => rfl
theorem Opcodes.red (f : Fields) : Opcodes.Statement (.red f) := opcodes_of rfl fun _ => rfl
theorem Opcodes.cas (f : Fields) : Opcodes.Statement (.cas f) := opcodes_of rfl fun _ => rfl
theorem Opcodes.pvop (f : Fields) : Opcodes.Statement (.pvop f) := opcodes_of rfl fun _ => rfl
theorem Opcodes.send (f : Fields) : Opcodes.Statement (.send f) := opcodes_of rfl fun _ => rfl
theorem Opcodes.patset (f : Fields) : Opcodes.Statement (.patset f) := opcodes_of rfl fun _ => rfl
theorem Opcodes.portcfg (f : Fields) : Opcodes.Statement (.portcfg f) := opcodes_of rfl fun _ => rfl
theorem Opcodes.portst (f : Fields) : Opcodes.Statement (.portst f) := opcodes_of rfl fun _ => rfl
theorem Opcodes.hret (f : Fields) : Opcodes.Statement (.hret f) := opcodes_of rfl fun _ => rfl
theorem Opcodes.flstage (f : Fields) : Opcodes.Statement (.flstage f) := opcodes_of rfl fun _ => rfl
theorem Opcodes.tlrd (f : Fields) : Opcodes.Statement (.tlrd f) := opcodes_of rfl fun _ => rfl
theorem Opcodes.tlwait (f : Fields) : Opcodes.Statement (.tlwait f) := opcodes_of rfl fun _ => rfl
theorem Opcodes.wpost (f : Fields) : Opcodes.Statement (.wpost f) := opcodes_of rfl fun _ => rfl
theorem Opcodes.wstat (f : Fields) : Opcodes.Statement (.wstat f) := opcodes_of rfl fun _ => rfl
theorem Opcodes.wcancel (f : Fields) : Opcodes.Statement (.wcancel f) := opcodes_of rfl fun _ => rfl
theorem Opcodes.accld (f : Fields) : Opcodes.Statement (.accld f) := opcodes_of rfl fun _ => rfl
theorem Opcodes.accclr (f : Fields) : Opcodes.Statement (.accclr f) := opcodes_of rfl fun _ => rfl
theorem Opcodes.seedx (f : Fields) : Opcodes.Statement (.seedx f) := opcodes_of rfl fun _ => rfl
theorem Opcodes.seedfit (f : Fields) : Opcodes.Statement (.seedfit f) := opcodes_of rfl fun _ => rfl
theorem Opcodes.savedone (f : Fields) : Opcodes.Statement (.savedone f) := opcodes_of rfl fun _ => rfl
theorem Opcodes.frec (f : Fields) : Opcodes.Statement (.frec f) := opcodes_of rfl fun _ => rfl
theorem Opcodes.drnwait (f : Fields) : Opcodes.Statement (.drnwait f) := opcodes_of rfl fun _ => rfl
theorem Opcodes.clauseHeader (h : Header) : Opcodes.Statement (.clauseHeader h) := opcodes_none rfl
theorem Opcodes.longLatencyComplete (a : Agent) (lane op : Nat) : Opcodes.Statement (.longLatencyComplete a lane op) := opcodes_none rfl
theorem Opcodes.accessPerform (id : Nat) (scope : Scope) : Opcodes.Statement (.accessPerform id scope) := opcodes_none rfl
theorem Opcodes.fenceSlotComplete (a : Agent) (slot : Nat) : Opcodes.Statement (.fenceSlotComplete a slot) := opcodes_none rfl
theorem Opcodes.postedFaultArrival (id : Nat) (cause : Nat) : Opcodes.Statement (.postedFaultArrival id cause) := opcodes_none rfl
theorem Opcodes.faultResolution (req : Nat) (mapped : Bool) : Opcodes.Statement (.faultResolution req mapped) := opcodes_none rfl
theorem Opcodes.pauseExpiry (a : Agent) : Opcodes.Statement (.pauseExpiry a) := opcodes_none rfl
theorem Opcodes.gangPlacement (part : Nat) : Opcodes.Statement (.gangPlacement part) := opcodes_none rfl
theorem Opcodes.millFinish (mill : Nat) : Opcodes.Statement (.millFinish mill) := opcodes_none rfl
theorem Opcodes.millFree (mill : Nat) : Opcodes.Statement (.millFree mill) := opcodes_none rfl
theorem Opcodes.patternFire (mill : Nat) : Opcodes.Statement (.patternFire mill) := opcodes_none rfl
theorem Opcodes.handlerWheelStart (mill wheel : Nat) : Opcodes.Statement (.handlerWheelStart mill wheel) := opcodes_none rfl
theorem Opcodes.handlerRetire (mill wheel : Nat) : Opcodes.Statement (.handlerRetire mill wheel) := opcodes_none rfl
theorem Opcodes.walkStart (mill ctx : Nat) : Opcodes.Statement (.walkStart mill ctx) := opcodes_none rfl
theorem Opcodes.kstepBegin (mill ctx : Nat) : Opcodes.Statement (.kstepBegin mill ctx) := opcodes_none rfl
theorem Opcodes.kstepEnd (mill ctx : Nat) : Opcodes.Statement (.kstepEnd mill ctx) := opcodes_none rfl
theorem Opcodes.ready (mill ctx : Nat) : Opcodes.Statement (.ready mill ctx) := opcodes_none rfl
theorem Opcodes.accfree (mill ctx : Nat) : Opcodes.Statement (.accfree mill ctx) := opcodes_none rfl
theorem Opcodes.flumeIssue (mill : Nat) : Opcodes.Statement (.flumeIssue mill) := opcodes_none rfl
theorem Opcodes.flumeElement (mill op elem : Nat) : Opcodes.Statement (.flumeElement mill op elem) := opcodes_none rfl
theorem Opcodes.flumeOpComplete (mill op : Nat) : Opcodes.Statement (.flumeOpComplete mill op) := opcodes_none rfl
theorem Opcodes.flumeNotice (mill : Nat) : Opcodes.Statement (.flumeNotice mill) := opcodes_none rfl
theorem Opcodes.sliceEnd (gang : Nat) : Opcodes.Statement (.sliceEnd gang) := opcodes_none rfl
theorem Opcodes.preemptRequest (gang sub : Nat) : Opcodes.Statement (.preemptRequest gang sub) := opcodes_none rfl
theorem Opcodes.saveVectorEntry (a : Agent) (lane : Nat) : Opcodes.Statement (.saveVectorEntry a lane) := opcodes_none rfl
theorem Opcodes.saveFreeze (gang : Nat) : Opcodes.Statement (.saveFreeze gang) := opcodes_none rfl
theorem Opcodes.saveClose (mill : Nat) : Opcodes.Statement (.saveClose mill) := opcodes_none rfl
theorem Opcodes.saveImage (mill : Nat) : Opcodes.Statement (.saveImage mill) := opcodes_none rfl
theorem Opcodes.saveTimeout (mill wheel : Nat) : Opcodes.Statement (.saveTimeout mill wheel) := opcodes_none rfl
theorem Opcodes.restore (gang : Nat) : Opcodes.Statement (.restore gang) := opcodes_none rfl
theorem Opcodes.debugHalt (a : Agent) (lane : Nat) : Opcodes.Statement (.debugHalt a lane) := opcodes_none rfl
theorem Opcodes.debugFreeze (mill : Nat) : Opcodes.Statement (.debugFreeze mill) := opcodes_none rfl
theorem Opcodes.debugResume (a : Agent) (lane : Nat) : Opcodes.Statement (.debugResume a lane) := opcodes_none rfl
theorem Opcodes.debugRead (mill : Nat) : Opcodes.Statement (.debugRead mill) := opcodes_none rfl
theorem Opcodes.remoteWrite (src dst : Nat) : Opcodes.Statement (.remoteWrite src dst) := opcodes_none rfl
theorem Opcodes.push (src dst : Nat) : Opcodes.Statement (.push src dst) := opcodes_none rfl
theorem Opcodes.fetchResponse (src dst : Nat) : Opcodes.Statement (.fetchResponse src dst) := opcodes_none rfl
theorem Opcodes.clockBeacon (src dst : Nat) : Opcodes.Statement (.clockBeacon src dst) := opcodes_none rfl
theorem Opcodes.linkRead (port : Nat) (fl : Flit) : Opcodes.Statement (.linkRead port fl) := opcodes_none rfl
theorem Opcodes.linkAtomic (port : Nat) (fl : Flit) : Opcodes.Statement (.linkAtomic port fl) := opcodes_none rfl
theorem Opcodes.linkCas (port : Nat) (fl : Flit) : Opcodes.Statement (.linkCas port fl) := opcodes_none rfl
theorem Opcodes.linkReadData (port : Nat) (fl : Flit) : Opcodes.Statement (.linkReadData port fl) := opcodes_none rfl
theorem Opcodes.linkOldValue (port : Nat) (fl : Flit) : Opcodes.Statement (.linkOldValue port fl) := opcodes_none rfl
theorem Opcodes.linkAcknowledgement (port : Nat) (fl : Flit) : Opcodes.Statement (.linkAcknowledgement port fl) := opcodes_none rfl
theorem Opcodes.linkWrite (port : Nat) (fl : Flit) : Opcodes.Statement (.linkWrite port fl) := opcodes_none rfl
theorem Opcodes.linkReduction (port : Nat) (fl : Flit) : Opcodes.Statement (.linkReduction port fl) := opcodes_none rfl
theorem Opcodes.nak (port : Nat) (fl : Flit) : Opcodes.Statement (.nak port fl) := opcodes_none rfl
theorem Opcodes.idle (port : Nat) (fl : Flit) : Opcodes.Statement (.idle port fl) := opcodes_none rfl
theorem Opcodes.retrainRequest (port : Nat) (fl : Flit) : Opcodes.Statement (.retrainRequest port fl) := opcodes_none rfl
theorem Opcodes.retrainAcknowledgement (port : Nat) (fl : Flit) : Opcodes.Statement (.retrainAcknowledgement port fl) := opcodes_none rfl
theorem Opcodes.corruptFlit (port : Nat) (fl : Flit) : Opcodes.Statement (.corruptFlit port fl) := opcodes_none rfl
theorem Opcodes.portRetrain (port : Nat) (ok : Bool) : Opcodes.Statement (.portRetrain port ok) := opcodes_none rfl
theorem Opcodes.pageMove (root va lo hi : Nat) : Opcodes.Statement (.pageMove root va lo hi) := opcodes_none rfl
theorem Opcodes.pageMoveCommit (k : Nat) : Opcodes.Statement (.pageMoveCommit k) := opcodes_none rfl
theorem Opcodes.frontEndEvent (core : Nat) : Opcodes.Statement (.frontEndEvent core) := opcodes_none rfl
theorem Opcodes.launch (q : Nat) : Opcodes.Statement (.launch q) := opcodes_none rfl
theorem Opcodes.signal (q : Nat) : Opcodes.Statement (.signal q) := opcodes_none rfl
theorem Opcodes.waittl (q : Nat) : Opcodes.Statement (.waittl q) := opcodes_none rfl
theorem Opcodes.engage (q : Nat) : Opcodes.Statement (.engage q) := opcodes_none rfl
theorem Opcodes.release (q : Nat) : Opcodes.Statement (.release q) := opcodes_none rfl
theorem Opcodes.snapshot (q : Nat) : Opcodes.Statement (.snapshot q) := opcodes_none rfl
theorem Opcodes.flush (q : Nat) : Opcodes.Statement (.flush q) := opcodes_none rfl
theorem Opcodes.doorbell (q tail : Nat) : Opcodes.Statement (.doorbell q tail) := opcodes_none rfl
theorem Opcodes.wakeComplete : Opcodes.Statement .wakeComplete := opcodes_none rfl
theorem Opcodes.queueEnable (q : Nat) : Opcodes.Statement (.queueEnable q) := opcodes_none rfl
theorem Opcodes.queueDisable (q : Nat) : Opcodes.Statement (.queueDisable q) := opcodes_none rfl
theorem Opcodes.queueRestart (q : Nat) : Opcodes.Statement (.queueRestart q) := opcodes_none rfl
theorem Opcodes.eventRingConfig (part : Nat) (reg : RingReg) (v : Nat) : Opcodes.Statement (.eventRingConfig part reg v) := opcodes_none rfl
theorem Opcodes.evhead (part v : Nat) : Opcodes.Statement (.evhead part v) := opcodes_none rfl
theorem Opcodes.partitionCommit (part : Nat) : Opcodes.Statement (.partitionCommit part) := opcodes_none rfl
theorem Opcodes.partitionDestroy (part : Nat) : Opcodes.Statement (.partitionDestroy part) := opcodes_none rfl
theorem Opcodes.fwgo : Opcodes.Statement .fwgo := opcodes_none rfl
theorem Opcodes.cap (v : Nat) : Opcodes.Statement (.cap v) := opcodes_none rfl
theorem Opcodes.tokens (v : Nat) : Opcodes.Statement (.tokens v) := opcodes_none rfl
theorem Opcodes.warmReset : Opcodes.Statement .warmReset := opcodes_none rfl
theorem Opcodes.registerWrite (r : PlainReg) (v : Nat) : Opcodes.Statement (.registerWrite r v) := opcodes_none rfl
theorem Opcodes.coldStart : Opcodes.Statement .coldStart := opcodes_none rfl
theorem Opcodes.functionLevelReset (part : Nat) : Opcodes.Statement (.functionLevelReset part) := opcodes_none rfl
theorem Opcodes.getVersion (body : List Byte) : Opcodes.Statement (.getVersion body) := opcodes_none rfl
theorem Opcodes.getCapabilities (body : List Byte) : Opcodes.Statement (.getCapabilities body) := opcodes_none rfl
theorem Opcodes.negotiateAlgorithms (body : List Byte) : Opcodes.Statement (.negotiateAlgorithms body) := opcodes_none rfl
theorem Opcodes.getDigests (body : List Byte) : Opcodes.Statement (.getDigests body) := opcodes_none rfl
theorem Opcodes.getCertificate (body : List Byte) : Opcodes.Statement (.getCertificate body) := opcodes_none rfl
theorem Opcodes.challenge (body : List Byte) : Opcodes.Statement (.challenge body) := opcodes_none rfl
theorem Opcodes.getMeasurements (body : List Byte) : Opcodes.Statement (.getMeasurements body) := opcodes_none rfl
theorem Opcodes.keyExchange (body : List Byte) : Opcodes.Statement (.keyExchange body) := opcodes_none rfl
theorem Opcodes.finish (body : List Byte) : Opcodes.Statement (.finish body) := opcodes_none rfl
theorem Opcodes.endSession (body : List Byte) : Opcodes.Statement (.endSession body) := opcodes_none rfl
theorem Opcodes.keyUpdate (body : List Byte) : Opcodes.Statement (.keyUpdate body) := opcodes_none rfl
theorem Opcodes.vendorDefinedRequest (part : Nat) : Opcodes.Statement (.vendorDefinedRequest part) := opcodes_none rfl
theorem Opcodes.unsupportedRequest (code : Nat) : Opcodes.Statement (.unsupportedRequest code) := opcodes_none rfl
theorem Opcodes.lockInterfaceRequest (part : Nat) : Opcodes.Statement (.lockInterfaceRequest part) := opcodes_none rfl
theorem Opcodes.getDeviceInterfaceReport (part : Nat) : Opcodes.Statement (.getDeviceInterfaceReport part) := opcodes_none rfl
theorem Opcodes.getDeviceInterfaceState (part : Nat) : Opcodes.Statement (.getDeviceInterfaceState part) := opcodes_none rfl
theorem Opcodes.startInterfaceRequest (part : Nat) : Opcodes.Statement (.startInterfaceRequest part) := opcodes_none rfl
theorem Opcodes.stopInterfaceRequest (part : Nat) : Opcodes.Statement (.stopInterfaceRequest part) := opcodes_none rfl
theorem Opcodes.thermalLimit (die : Nat) : Opcodes.Statement (.thermalLimit die) := opcodes_none rfl
theorem Opcodes.throttleEnd (die : Nat) : Opcodes.Statement (.throttleEnd die) := opcodes_none rfl
theorem Opcodes.patrolScrub : Opcodes.Statement .patrolScrub := opcodes_none rfl
theorem Opcodes.powerGating : Opcodes.Statement .powerGating := opcodes_none rfl
theorem Opcodes.softError (target : ErrTarget) (double : Bool) : Opcodes.Statement (.softError target double) := opcodes_none rfl
theorem Opcodes.breakpointClaim (mill : Nat) (c : Claim) : Opcodes.Statement (.breakpointClaim mill c) := opcodes_none rfl
theorem Opcodes.waittlSatisfied (q : Nat) : Opcodes.Statement (.waittlSatisfied q) := opcodes_none rfl
theorem Opcodes.dropsItsCopy (die line : Nat) : Opcodes.Statement (.dropsItsCopy die line) := opcodes_none rfl
theorem Opcodes.ideStreamKeying (fn : Nat) (linkIde : Bool) : Opcodes.Statement (.ideStreamKeying fn linkIde) := opcodes_none rfl
theorem Opcodes.powerLoss : Opcodes.Statement .powerLoss := opcodes_none rfl

end Sys2Proof.Laws
end

