-- ==== Sys2Proof/Laws/Units.lean ====
section
/-! SUPPORT. What operations over memory, the link and the units leave of the threads: none of them changes where a thread stands
or whether it has ended. -/

namespace Sys2Proof.Machine

/-- The threads' own state is the same: mills and front-end cores are. -/
structure State.Still (s s' : State) : Prop where
  mills : s'.mills = s.mills
  fe    : s'.fe = s.fe

theorem State.Still.rfl' {s : State} : s.Still s := ⟨rfl, rfl⟩
theorem State.Still.trans {s t u : State} (h : s.Still t) (k : t.Still u) : s.Still u :=
  ⟨k.mills.trans h.mills, k.fe.trans h.fe⟩
theorem State.Still.marks {s t : State} {a : Agent} (h : s.Still t) : t.marks a = s.marks a := marks_of h.mills h.fe
theorem still_foldl {α : Type} {f : State → α → State} (h : ∀ (s : State) (x : α), s.Still (f s x)) : ∀ (l : List α) (s : State), s.Still (l.foldl f s)
  | [], _ => .rfl'
  | x :: xs, s => (h s x).trans (still_foldl h xs _)

theorem still_post (s : State) (i : PostInfo) (va : Nat) (p : Piece) (bs : List Byte) (o : Option MemOp) (n : Nat) (t : Option Nat) :
    s.Still (s.post i va p bs o n t) := ⟨rfl, rfl⟩
theorem still_fillTlb (s : State) (ps : List Piece) : s.Still (s.fillTlb ps) := by
  unfold State.fillTlb
  apply still_foldl
  intro s p
  split
  · exact .rfl'
  · exact ⟨rfl, rfl⟩
theorem still_monitor (s : State) (k kid : Nat) (w : Bool) : s.Still (s.monitor k kid w) := by
  unfold State.monitor
  split <;> exact ⟨rfl, rfl⟩
theorem still_countReads (s : State) (ps : List Piece) : s.Still (s.countReads ps) := by
  unfold State.countReads
  split
  · exact .rfl'
  · apply still_foldl
    intro s p
    apply still_foldl
    intro s ln
    split
    · exact .rfl'
    · exact still_monitor s _ _ _
theorem still_failTxn (s : State) (t : Txn) (n : Nat) (b : Bool) : s.Still (s.failTxn t n b) := by
  unfold State.failTxn
  cases t.posted <;> exact ⟨rfl, rfl⟩
theorem still_request (s : State) (t : Txn) (n l : Nat) (f : Flit) : s.Still (s.request t n l f) := by
  unfold State.request
  dsimp only
  split
  · exact still_failTxn ..
  · split
    · exact still_failTxn ..
    · exact ⟨rfl, rfl⟩
theorem still_request' {s s' : State} (t : Txn) (n l : Nat) (f : Flit) (h : s.Still s') : s.Still (s'.request t n l f) :=
  h.trans (still_request ..)
theorem still_newTag {s s' : State} (h : s.Still s') : s.Still s'.newTag.2 := h.trans ⟨rfl, rfl⟩
theorem still_sendReduction (s : State) (x : Ctx) (l : Nat) (va : DWord) (p : Piece) (o : MemOp) :
    s.Still (s.sendReduction x l va p o) := by
  unfold State.sendReduction
  dsimp only
  split
  · exact still_request' _ _ _ _ (still_newTag (still_post ..))
  · exact still_post ..
theorem marks_startLong' (s t : State) (a : Agent) (f : Fields) (l lo : Nat) (ds : List Dst) (vs : List Word) (fl : BitVec 5)
    (w : Option Nat) (e : Nat) (ps : List (Nat × Option (List Byte))) (lk : Option Look) (h : s.Still t) :
    (t.startLong a f l lo ds vs fl w e ps lk).marks a = s.marks a := (marks_startLong ..).trans h.marks
theorem marks_sendAtomic (s : State) (x : Ctx) (l : Nat) (va : DWord) (p : Piece) (o : MemOp) :
    (s.sendAtomic x l va p o).marks x.a = s.marks x.a := by
  unfold State.sendAtomic
  dsimp only
  split
  · exact marks_startLong' _ _ _ _ _ _ _ _ _ _ _ _ _ (still_request' _ _ _ _ (still_newTag (still_post ..)))
  · exact marks_startLong' _ _ _ _ _ _ _ _ _ _ _ _ _ (still_post ..)

/-- When every lane passes, `gather` has each lane's answer, in order. -/
theorem gather_ok {α : Type} {lanes : List Nat} {chk : Nat → Except AErr α} {v : Nat → α} (h : ∀ l ∈ lanes, chk l = .ok (v l)) :
    gather lanes chk = .ok (lanes.map fun l => (l, v l)) := by
  have h1 : (lanes.filterMap fun l => (asFault (chk l)).map fun fi => (l, fi)) = [] :=
    List.filterMap_eq_nil_iff.mpr fun l hl => by simp [h l hl, asFault]
  have h2 : (lanes.filterMap fun l => (asWait (chk l)).map fun e => (l, e)) = [] :=
    List.filterMap_eq_nil_iff.mpr fun l hl => by simp [h l hl, asWait]
  have h3 : (lanes.filterMap fun l => (asGiven (chk l)).map fun v => (l, v)) = lanes.map fun l => (l, v l) := by
    rw [← List.filterMap_eq_map]
    exact List.filterMap_congr fun l hl => by simp [h l hl, asGiven]
  unfold gather
  simp only [h1, h2, h3]

/-- Taking or keeping fence slots moves no thread. -/
theorem marks_setFences (s : State) (a : Agent) (fs : Fences) : (s.setFences a fs).marks a = s.marks a := by
  have h : (s.setFences a fs).threads a = s.threads a := by
    unfold State.setFences State.threads
    cases a with
    | fe n => simp only [State.modFe, modAt_get]; cases s.fe[n]? <;> rfl
    | wheel m w =>
      dsimp only
      rw [wheel?_modWheel s _ _ (by simp [Agent.mill])]
      cases s.wheel? (.wheel m w) <;> rfl
    | buf m w =>
      dsimp only
      rw [wheel?_modWheel s _ _ (by simp [Agent.mill])]
      cases s.wheel? (.buf m w) <;> rfl
  unfold State.marks
  rw [h]

end Sys2Proof.Machine
end

