-- ==== Sys2Proof/Tests/Slice0.lean ====
section
/-! SUPPORT. Tests: decoding of words written out from the spec, ill-formed terms, one-step results taken from the spec's own
examples, and for every statement a state and operands that meet its hypotheses. -/

open Sys2Proof Sys2Proof.Machine

namespace Sys2Proof.Tests

-- one test at a time: many kernel evaluations side by side take more threads than the memory limit allows
set_option Elab.async false

/-! ### Helpers -/

/-- Fields of a 64-bit word with no lane selects. -/
def fields (d a b c sub mod : Nat) : Fields :=
  ⟨0, 0, 0, BitVec.ofNat 6 d, BitVec.ofNat 6 a, 0, BitVec.ofNat 6 b, 0, BitVec.ofNat 6 c, 0, 0, 0, BitVec.ofNat 6 sub, BitVec.ofNat 10 mod, 0⟩
/-- A wheel inside a clause, every register zero; two of its threads, so that tests stay small. -/
def idle : State :=
  let s := State.reset.withFetchWord 64 0
  { s with mills := s.mills.map fun m => { m with wheels := m.wheels.map fun w => { w with threads := w.threads.take 2 } } }
/-- The same with registers of every lane given. -/
def withRegs (rs : List (Nat × Word)) (s : State) : State :=
  { s with mills := s.mills.map fun m => { m with wheels := m.wheels.map fun w => { w with
      threads := w.threads.map fun t => rs.foldl (fun t r => t.setV r.1 r.2) t } } }
/-- The four parts of State.Issues as one Bool. -/
def goes (st : State) (op : BitVec 8) (f : Fields) (sh : Shape) : Bool :=
  !(st.takers op f sh).isEmpty &&
    st.lanes.all (fun l => st.ready.checkLane st.cur op f sh l == .go || st.ready.checkLane st.cur op f sh l == .skip) &&
    !st.ready.unclaimed st.cur (ownFields f sh) sh && st.lanes.all fun l => (st.ready.thread st.cur l).armed == none
theorem issues_of {st : State} {op : BitVec 8} {f : Fields} {sh : Shape} (h : goes st op f sh = true) : st.Issues op f sh := by
  simp only [goes, Bool.and_eq_true, Bool.not_eq_true', List.all_eq_true, Bool.or_eq_true, beq_iff_eq] at h
  obtain ⟨⟨⟨h1, h2⟩, h3⟩, h4⟩ := h
  exact ⟨fun e => by simp [e] at h1, h2, h3, h4⟩
abbrev Row := BitVec 8 × Fields × (Fields → Agent → Shape)

theorem test_MovesWriteTheSelectedSource_hyps :
    (([
      (0x00, fields 8 4 16 12 0 0, (fun _ _ => {})),
      (0x01, fields 8 4 16 12 0 0, shape1),
      (0x02, fields 8 4 16 12 0 0, (fun f _ => { d := wUse f, a := wUse f, b := wUse f, gRead := [f.mod.toNat % 8] })),
      (0x03, fields 8 4 16 12 0 0, (fun f a => { shape3 f a with modOk := f.mod.toNat % 8 ≤ 4 }))] : List Row).all fun r => goes idle r.1 r.2.1 (r.2.2 r.2.1 idle.cur)) = true := by decide +kernel

theorem test_AdditionsWrapSaturateAndCarry_hyps :
    (([
      (0x04, fields 8 4 16 12 0 0, shape2),
      (0x05, fields 8 4 16 12 0 0, shape2),
      (0x06, fields 8 4 16 12 0 0, carryShape),
      (0x07, fields 8 4 16 12 0 0, carryShape)] : List Row).all fun r => goes idle r.1 r.2.1 (r.2.2 r.2.1 idle.cur)) = true := by decide +kernel

theorem test_MultiplicationsWriteHalfProducts_hyps :
    (([
      (0x08, fields 8 4 16 12 0 0, shape2),
      (0x09, fields 8 4 16 12 0 0, shape2),
      (0x0A, fields 8 4 16 12 0 0, shape3)] : List Row).all fun r => goes idle r.1 r.2.1 (r.2.2 r.2.1 idle.cur)) = true := by decide +kernel

theorem test_DivisionsBeginWithTruncatedResults_hyps :
    (([
      (0x0B, fields 8 4 16 12 0 0, shape2),
      (0x0C, fields 8 4 16 12 0 0, shape2)] : List Row).all fun r => goes idle r.1 r.2.1 (r.2.2 r.2.1 idle.cur)) = true := by decide +kernel

theorem test_MinMaxComparesAndGuardMoves_hyps :
    (([
      (0x0D, fields 8 4 16 12 0 0, shape2),
      (0x0E, fields 8 4 16 12 0 0, shape2),
      (0x0F, fields 8 4 16 12 0 0, shape1),
      (0x10, fields 8 4 16 12 0 0, shape1),
      (0x20, fields 8 4 16 12 0 0, (fun f _ => { a := if f.sub.getLsbD 4 then .pair else .word, b := if f.sub.getLsbD 4 then .pair else .word, gWrite := [f.d.toNat % 8] })),
      (0x21, fields 8 4 16 12 0 0, (fun f _ => { gRead := [f.a.toNat % 8, f.b.toNat % 8], gWrite := [f.d.toNat % 8], guardSrc := true })),
      (0x22, fields 8 4 16 12 0 0, (fun f _ => if f.sub = 0 then { d := .word, gRead := [1, 2, 3, 4, 5, 6, 7] } else { a := .word, gWrite := [1, 2, 3, 4, 5, 6, 7] }))] : List Row).all fun r => goes idle r.1 r.2.1 (r.2.2 r.2.1 idle.cur)) = true := by decide +kernel

theorem test_LogicAndShiftsWriteTheirResults_hyps :
    (([
      (0x11, fields 8 4 16 12 0 0, shape2),
      (0x12, fields 8 4 16 12 0 0, shape2),
      (0x13, fields 8 4 16 12 0 0, shape2),
      (0x14, fields 8 4 16 12 0 0, shape2),
      (0x15, fields 8 4 16 12 0 0, shape1),
      (0x16, fields 8 4 16 12 0 0, shape2),
      (0x17, fields 8 4 16 12 0 0, shape2),
      (0x18, fields 8 4 16 12 0 0, shape2),
      (0x19, fields 8 4 16 12 0 0, shape2),
      (0x1A, fields 8 4 16 12 0 0, (fun _ _ => { d := .word, a := .word, b := .word, c := .word }))] : List Row).all fun r => goes idle r.1 r.2.1 (r.2.2 r.2.1 idle.cur)) = true := by decide +kernel

theorem test_BitCountsAndBitFieldsWriteTheirResults_hyps :
    (([
      (0x1B, fields 8 4 16 12 0 0, shape1),
      (0x1C, fields 8 4 16 12 0 0, shape1),
      (0x1D, fields 8 4 16 12 0 0, shape1),
      (0x1E, fields 8 4 16 12 0 0, shape2),
      (0x1F, fields 8 4 16 12 0 0, shape3)] : List Row).all fun r => goes idle r.1 r.2.1 (r.2.2 r.2.1 idle.cur)) = true := by decide +kernel

theorem test_FloatArithmeticRoundsTheExactResultOnce_hyps :
    (([
      (0x40, fields 8 4 16 12 0 0, word2),
      (0x41, fields 8 4 16 12 0 0, word2),
      (0x42, fields 8 4 16 12 0 0, word2),
      (0x43, fields 8 4 16 12 0 0, word3),
      (0x55, fields 8 4 16 12 0 0, word2),
      (0x52, fields 8 4 16 12 0 0, word2),
      (0x53, fields 8 4 16 12 0 0, word2),
      (0x54, fields 8 4 16 12 0 0, word3)] : List Row).all fun r => goes idle r.1 r.2.1 (r.2.2 r.2.1 idle.cur)) = true := by decide +kernel

theorem test_FloatSpecialOperandsOrderAndClass_hyps :
    (([
      (0x44, fields 8 4 16 12 0 0, word2),
      (0x45, fields 8 4 16 12 0 0, word2),
      (0x46, fields 8 4 16 12 0 0, (fun f _ => { a := .word, b := .word, gWrite := [f.d.toNat % 8] })),
      (0x47, fields 8 4 16 12 0 0, word1)] : List Row).all fun r => goes idle r.1 r.2.1 (r.2.2 r.2.1 idle.cur)) = true := by decide +kernel

theorem test_FloatFunctionsBeginWithTheTableOfSpecialSources_hyps :
    (([
      (0x48, fields 8 4 16 12 0 0, word1),
      (0x49, fields 8 4 16 12 0 0, word1),
      (0x4A, fields 8 4 16 12 0 0, word1),
      (0x4B, fields 8 4 16 12 0 0, word1),
      (0x4C, fields 8 4 16 12 0 0, word1),
      (0x4D, fields 8 4 16 12 0 0, word1),
      (0x4E, fields 8 4 16 12 0 0, word1)] : List Row).all fun r => goes idle r.1 r.2.1 (r.2.2 r.2.1 idle.cur)) = true := by decide +kernel

theorem test_ConversionsRoundOrClamp_hyps :
    (([
      (0x50, fields 8 4 16 12 0 0, (fun f _ => { d := if f.mod.toNat / 16 % 16 ≥ 14 then .pair else .word, a := if f.mod.toNat % 16 ≥ 14 then .pair else .word, modOk := f.mod.toNat % 16 ∉ [6, 7] && f.mod.toNat / 16 % 16 ∉ [6, 7] })),
      (0x51, fields 8 4 16 12 0 0, word1)] : List Row).all fun r => goes idle r.1 r.2.1 (r.2.2 r.2.1 idle.cur)) = true := by decide +kernel

theorem test_PermutesVotesAndMatchesAmongParticipants_hyps :
    (([
      (0x80, fields 8 4 16 12 0 0, (fun f a => { word2 f a with perm := true })),
      (0x82, fields 8 4 16 12 0 0, word2),
      (0x83, fields 8 4 16 12 0 0, word2),
      (0x84, fields 8 4 16 12 0 0, (fun f _ => if f.sub = 2 then { d := .word, gRead := [f.mod.toNat % 8] } else { gRead := [f.mod.toNat % 8], gWrite := [f.d.toNat % 8] })),
      (0x89, fields 8 4 16 12 0 0, word1)] : List Row).all fun r => goes idle r.1 r.2.1 (r.2.2 r.2.1 idle.cur)) = true := by decide +kernel

theorem test_ReductionsUseTheFixedTree_hyps :
    (([
      (0x85, fields 8 4 16 12 0 0, (fun f _ => { d := if f.sub.getLsbD 3 then .pair else .word, a := .word })),
      (0x86, fields 8 4 16 12 0 0, word1)] : List Row).all fun r => goes idle r.1 r.2.1 (r.2.2 r.2.1 idle.cur)) = true := by decide +kernel

theorem test_TopkAndSortwDeliverByRank_hyps :
    (([
      (0x87, fields 8 4 16 12 0 0, (fun f _ => { d := .pair, a := .word, ownA := true, modOk := decide (f.mod.toNat % 8 + 1 ≤ 4 * 2 ^ (f.sub.toNat % 4)) })),
      (0x88, fields 8 4 16 12 0 0, (fun _ _ => { d := .pair, a := .word, ownA := true }))] : List Row).all fun r => goes idle r.1 r.2.1 (r.2.2 r.2.1 idle.cur)) = true := by decide +kernel

theorem test_UniformRegistersConvergenceAndWid_hyps :
    (([
      (0x8A, fields 8 4 16 12 0 0, (fun f _ => if f.sub = 0 then { d := .word, uRead := [f.mod.toNat % 64] } else { a := .word, uWrite := [f.mod.toNat % 64] })),
      (0x8B, fields 8 4 16 12 0 0, (fun f _ => { gWrite := [f.d.toNat % 8] })),
      (0x8C, fields 8 4 16 12 0 0, (fun _ _ => {})),
      (0x8D, fields 8 4 16 12 0 0, (fun f _ => { d := if f.mod.toNat % 16 = 6 then .pair else .word, modOk := decide (f.mod.toNat % 8 < 6) || f.mod.toNat % 16 == 6 }))] : List Row).all fun r => goes idle r.1 r.2.1 (r.2.2 r.2.1 idle.cur)) = true := by decide +kernel

theorem test_ScaledBlocksMultiplyAndRoundOnce_hyps :
    let _quad := fun (x : Ctx) (l : Nat) => (x.s0.srcGroup x.a x.f l .A 4).map BitVec.toNat
    let ns := fun (f : Fields) => f.mod.getLsbD 4
    (([
      (0x90, fields 8 4 16 12 0 0, (dotShape 2)),
      (0x91, fields 8 4 16 12 0 0, (dotShape 1)),
      (0x92, fields 8 4 16 12 0 0, (fun _ _ => { d := .word, dRead := true, a := .quad })),
      (0x93, fields 8 4 16 12 0 0, (fun f _ => { d := .word, dRead := f.sub == 2, a := .quad, c := .word })),
      (0x94, fields 8 4 16 12 0 0, (fun f _ => { d := .quad, a := .word, c := if ns f then .none else .word }))] : List Row).all fun r => goes idle r.1 r.2.1 (r.2.2 r.2.1 idle.cur)) = true := by decide +kernel

theorem test_SystemRegistersPauseSnapAndWindowMoves_hyps :
    (([
      (0x6C, fields 8 4 16 12 0 0, (fun _ _ => { a := .word })),
      (0x6F, fields 8 4 16 12 0 0, (fun _ _ => {}))] : List Row).all fun r => goes idle r.1 r.2.1 (r.2.2 r.2.1 idle.cur)) = true := by decide +kernel

theorem test_StoresArePostedAndCachesManaged_hyps :
    (([
      (0x78, fields 8 4 16 12 0 0, (fun _ _ => { a := .pair, b := .word })),
      (0x74, fields 8 4 16 12 0 0, (fun _ _ => { a := .pair, b := .word })),
      (0x77, fields 8 4 16 12 0 0, (fun _ _ => { a := .pair, b := .word }))] : List Row).all fun r => goes idle r.1 r.2.1 (r.2.2 r.2.1 idle.cur)) = true := by decide +kernel

theorem test_TablesRecordsDrainsSyncwAndYield_hyps :
    (([
      (0xE2, fields 8 4 16 12 0 0, (fun _ _ => { d := .quad })),
      (0xE0, fields 8 4 16 12 0 0, (fun _ _ => {}))] : List Row).all fun r => goes idle r.1 r.2.1 (r.2.2 r.2.1 idle.cur)) = true := by decide +kernel

theorem test_SpawnAddsGridsAndGrabTakesRanges_hyps :
    (([
      (0x96, fields 8 4 16 12 0 0, (fun _ _ => { d := .quad }))] : List Row).all fun r => goes idle r.1 r.2.1 (r.2.2 r.2.1 idle.cur)) = true := by decide +kernel

theorem test_SendPortsAndPatterns_hyps :
    (([
      (0xC3, fields 8 4 16 12 0 0, (fun f _ => { d := .pair, b := .word, modOk := f.mod.toNat % 4 != 3 }))] : List Row).all fun r => goes idle r.1 r.2.1 (r.2.2 r.2.1 idle.cur)) = true := by decide +kernel

theorem test_StagesRiseAndTimelinesAreAwaited_hyps :
    (([
      (0xC8, fields 8 4 16 12 0 0, (fun _ _ => { a := .word })),
      (0xC9, fields 8 4 16 12 0 0, (fun f _ => { d := .pair, modOk := f.mod.toNat % 4 != 3 }))] : List Row).all fun r => goes idle r.1 r.2.1 (r.2.2 r.2.1 idle.cur)) = true := by decide +kernel

theorem test_WalkInstructionsAndSeededRecords_hyps :
    (([
      (0xD1, fields 8 4 16 12 0 0, (fun f _ => { d := .pair, modOk := decide (f.mod.toNat / 2 % 16 ≤ 6) })),
      (0xD2, fields 8 4 16 12 0 0, (fun _ _ => {})),
      (0xD5, fields 8 4 16 12 0 0, (fun _ _ => { d := .pair, a := .word })),
      (0xD6, fields 8 4 16 12 0 0, (fun _ _ => { d := .quad, a := .word, b := .octet, c := .word }))] : List Row).all fun r => goes idle r.1 r.2.1 (r.2.2 r.2.1 idle.cur)) = true := by decide +kernel

/-! ### Words that act lane by lane: the fold of the statement's own action passes -/

/-- A header of a clause of one word at 0x200, and a launch record at 0x1000. -/
def memory : State :=
  let header := memPutList idle.mem 0x200 (bytesOfNat 8 (encodeHeader ⟨0, 15, 15, 1⟩).toNat)
  let record := bytesOfNat 8 0x200 ++ bytesOfNat 8 5 ++ bytesOfNat 4 32 ++ (List.replicate 5 (bytesOfNat 4 1)).flatten ++ [1, 0, 1, 4] ++
    bytesOfNat 2 64 ++ List.replicate 0xD2 0
  { idle with mem := memPutList header 0x1000 record }
/-- Every thread as `f` makes it. -/
def eachThread (f : Thread → Thread) (s : State) : State :=
  { s with mills := s.mills.map fun m => { m with wheels := m.wheels.map fun w => { w with threads := w.threads.map f } } }
/-- Every thread at depth 1, trapped at the header at 0x200, with one image at `wsp`. -/
def deeper (s : State) : State :=
  eachThread (fun t => { t with depth := 1, sys := { t.sys with tpc := 0x200, tcause := 63 * 2 ^ 16, wsp := 0x200060 } }) s
/-- Port 0 counts what finds no room. -/
def deepPorts : State :=
  { idle with mills := idle.mills.map fun m => { m with ports := modAt m.ports 0 fun p => { p with depth := 16, count := true } } }
def passes (st : State) (op : BitVec 8) (f : Fields) (sh : Shape) (act : Ctx → State → Nat → Except AErr State) : Bool :=
  goes st op f sh && ((st.ctx op f sh).todo.foldlM (act (st.ctx op f sh)) st.ready).toBool
def jumps (st : State) (op : BitVec 8) (f : Fields) (sh : Shape) (act : Ctx → State → Nat → Except AErr (State × Bool)) : Bool :=
  goes st op f sh && ((st.ctx op f sh).todo.foldlM (fun (r : State × List Nat) l => do
    let q ← act (st.ctx op f sh) r.1 l
    pure (q.1, if q.2 then r.2 ++ [l] else r.2)) (st.ready, [])).toBool

theorem test_bra_hyps :
    let goTo := fun (x : Ctx) (s : State) (l : Nat) (target : DWord) => (s.keepFetch x.a l target).modThread x.a l fun t =>
      { t with pc := target, clause := none, jumped := s.code.length }
    let rel := fun (x : Ctx) (l : Nat) => x.pc + (x.w l .A).signExtend 64
    jumps (withRegs [(4, 0x200 - 0x100008)] memory) 0x60 (fields 8 4 16 12 0 0) ((fun _ _ => { a := .word, transfer := true }) (fields 8 4 16 12 0 0) idle.cur)
      (fun x s l => do
      let _ ← s.fetchHeader x.a l (rel x l)
      pure (goTo x s l (rel x l), true)) = true := by decide +kernel
theorem test_brx_hyps :
    let goTo := fun (x : Ctx) (s : State) (l : Nat) (target : DWord) => (s.keepFetch x.a l target).modThread x.a l fun t =>
      { t with pc := target, clause := none, jumped := s.code.length }
    jumps (withRegs [(4, 0x200)] memory) 0x61 (fields 8 4 16 12 0 0) ((fun _ _ => { a := .pair, transfer := true }) (fields 8 4 16 12 0 0) idle.cur)
      (fun x s l => do
      let _ ← s.fetchHeader x.a l (x.dw l .A)
      pure (goTo x s l (x.dw l .A), true)) = true := by decide +kernel
theorem test_call_hyps :
    let goTo := fun (x : Ctx) (s : State) (l : Nat) (target : DWord) => (s.keepFetch x.a l target).modThread x.a l fun t =>
      { t with pc := target, clause := none, jumped := s.code.length }
    let rel := fun (x : Ctx) (l : Nat) => x.pc + (x.w l .A).signExtend 64
    let call := fun (target : Ctx → Nat → DWord) (x : Ctx) (s : State) (l : Nat) => do
      let _ ← s.fetchHeader x.a l (target x l)
      let s ← (s.putD x.a x.f l x.lowest [x.next.lo, x.next.hi]).riseDepth x.a l x.pc s.fresh
      pure (goTo x s l (target x l), true)
    jumps (withRegs [(4, 0x200 - 0x100008)] memory) 0x62 (fields 8 4 16 12 0 0) ((fun _ _ => { d := .pair, a := .word, transfer := true }) (fields 8 4 16 12 0 0) idle.cur)
      (call rel) = true := by decide +kernel
theorem test_callx_hyps :
    let goTo := fun (x : Ctx) (s : State) (l : Nat) (target : DWord) => (s.keepFetch x.a l target).modThread x.a l fun t =>
      { t with pc := target, clause := none, jumped := s.code.length }
    let call := fun (target : Ctx → Nat → DWord) (x : Ctx) (s : State) (l : Nat) => do
      let _ ← s.fetchHeader x.a l (target x l)
      let s ← (s.putD x.a x.f l x.lowest [x.next.lo, x.next.hi]).riseDepth x.a l x.pc s.fresh
      pure (goTo x s l (target x l), true)
    jumps (withRegs [(4, 0x200)] memory) 0x63 (fields 8 4 16 12 0 0) ((fun _ _ => { d := .pair, a := .pair, transfer := true }) (fields 8 4 16 12 0 0) idle.cur)
      (call fun x l => x.dw l .A) = true := by decide +kernel
theorem test_ret_hyps :
    let goTo := fun (x : Ctx) (s : State) (l : Nat) (target : DWord) => (s.keepFetch x.a l target).modThread x.a l fun t =>
      { t with pc := target, clause := none, jumped := s.code.length }
    jumps (withRegs [(4, 0x200)] (deeper memory)) 0x64 (fields 8 4 16 12 0 0) ((fun _ _ => { a := .pair, transfer := true }) (fields 8 4 16 12 0 0) idle.cur)
      (fun x s l => do
      let _ ← s.fetchHeader x.a l (x.dw l .A)
      let s ← s.lowerDepth x.a l
      pure (goTo x s l (x.dw l .A), true)) = true := by decide +kernel
theorem test_loop_hyps :
    let goTo := fun (x : Ctx) (s : State) (l : Nat) (target : DWord) => (s.keepFetch x.a l target).modThread x.a l fun t =>
      { t with pc := target, clause := none, jumped := s.code.length }
    let rel := fun (x : Ctx) (l : Nat) => x.pc + (x.w l .A).signExtend 64
    jumps (withRegs [(4, 0x200 - 0x100008), (8, 2)] memory) 0x65 (fields 8 4 16 12 0 0) ((fun _ _ => { d := .word, dRead := true, a := .word, transfer := true }) (fields 8 4 16 12 0 0) idle.cur)
      (fun x s l =>
      let n := x.s0.srcDst x.a x.f l 0 - 1
      if n ≠ 0 then do
        let _ ← s.fetchHeader x.a l (rel x l)
        pure (goTo x (s.putD x.a x.f l x.lowest [n]) l (rel x l), true)
      else pure (s.putD x.a x.f l x.lowest [n], false)) = true := by decide +kernel
theorem test_rfe_hyps :
    jumps (deeper memory) 0x6B (fields 8 4 16 12 0 0) ((fun _ _ => { transfer := true }) (fields 8 4 16 12 0 0) idle.cur)
      (fun x s l => do pure (← s.returnFrom x.a l, true)) = true := by decide +kernel
theorem test_mfs_hyps :
    let mill := fun (x : Ctx) (g : Mill → Nat) => match x.a.mill.bind x.s0.mill? with
      | some m => BitVec.ofNat 64 (g m)
      | none => 0
    let read := fun (x : Ctx) (l : Nat) =>
      let t := x.thread l
      let fe := x.a.mill.isNone
      [some t.sys.tvec, some t.sys.tpc, some (t.sys.tcause &&& 0xFF3FFFFF), some t.sys.frp, some t.sys.wsp, some t.sys.wlim,
        some (BitVec.ofNat 64 t.depth), some t.sys.fmode, some t.sys.fstat,
        some (BitVec.ofNat 64 ((if fe then x.s0.feClk else x.s0.clk) - Config.clockLag (x.s0.coreNo x.a))),
        some (mill x fun m => m.bud), some (if fe then 0 else BitVec.ofNat 64 l), some (if fe then 0 else BitVec.ofNat 64 x.a.wheelIdx),
        some (mill x fun m => m.f2), some (if fe then 0 else BitVec.ofNat 64 t.hpat),
        if fe then some t.sys.xroot else none, if fe then some t.sys.xkey else none].getD (x.f.mod.toNat % 256) none
    let fail := fun (sub : Nat) => (.error (.fault { cls := 5, sub := sub }) : Except AErr State)
    passes (memory) 0x69 (fields 8 4 16 12 0 4) ((fun _ _ => { d := .pair }) (fields 8 4 16 12 0 4) idle.cur)
      (fun x s l => match read x l with
      | some v => pure (s.putD x.a x.f l x.lowest [v.lo, v.hi])
      | none => fail 0) = true := by decide +kernel
theorem test_mts_hyps :
    let mill := fun (x : Ctx) (g : Mill → Nat) => match x.a.mill.bind x.s0.mill? with
      | some m => BitVec.ofNat 64 (g m)
      | none => 0
    let read := fun (x : Ctx) (l : Nat) =>
      let t := x.thread l
      let fe := x.a.mill.isNone
      [some t.sys.tvec, some t.sys.tpc, some (t.sys.tcause &&& 0xFF3FFFFF), some t.sys.frp, some t.sys.wsp, some t.sys.wlim,
        some (BitVec.ofNat 64 t.depth), some t.sys.fmode, some t.sys.fstat,
        some (BitVec.ofNat 64 ((if fe then x.s0.feClk else x.s0.clk) - Config.clockLag (x.s0.coreNo x.a))),
        some (mill x fun m => m.bud), some (if fe then 0 else BitVec.ofNat 64 l), some (if fe then 0 else BitVec.ofNat 64 x.a.wheelIdx),
        some (mill x fun m => m.f2), some (if fe then 0 else BitVec.ofNat 64 t.hpat),
        if fe then some t.sys.xroot else none, if fe then some t.sys.xkey else none].getD (x.f.mod.toNat % 256) none
    let fail := fun (sub : Nat) => (.error (.fault { cls := 5, sub := sub }) : Except AErr State)
    passes (memory) 0x6A (fields 8 4 16 12 0 4) ((fun _ _ => { a := .pair }) (fields 8 4 16 12 0 4) idle.cur)
      (fun x s l =>
      let k := x.f.mod.toNat % 256
      let v := x.dw l .A
      if (read x l).isNone then fail 0
      else if k = 0x06 ∨ 0x09 ≤ k ∧ k ≤ 0x0E then fail 1
      else pure (s.modThread x.a l fun t => { t with sys :=
        match k with
        | 0x00 => { t.sys with tvec := v }
        | 0x01 => { t.sys with tpc := v }
        | 0x02 => { t.sys with tcause := v }
        | 0x03 => { t.sys with frp := v }
        | 0x04 => { t.sys with wsp := v }
        | 0x05 => { t.sys with wlim := v }
        | 0x07 => { t.sys with fmode := v }
        | 0x08 => { t.sys with fstat := v }
        | 0x0F => { t.sys with xroot := v }
        | _ => { t.sys with xkey := v } })) = true := by decide +kernel
theorem test_wspill_hyps :
    passes (memory) 0x6D (fields 8 4 16 12 0 0) ((fun _ _ => {}) (fields 8 4 16 12 0 0) idle.cur)
      (fun x s l =>
      let t := s.thread x.a l
      if t.winPending then pure (s.modThread x.a l fun u => { u with low := u.depth, winPending := false })
      else if t.sys.wsp.toNat % 4 ≠ 0 ∨ t.sys.wsp.toNat + 96 * (t.depth - t.low + 1) > t.sys.wlim.toNat ∨
        t.pendingIn (24 * t.low) (24 * t.depth + 24) then .error .stall
      else do
        let n := s.fresh
        let s ← ((List.range (t.depth - t.low)).map (t.low + ·)).foldlM (fun s k => do
          let s ← s.spillImage x.a l x.pc k (s.thread x.a l).sys.wsp n
          pure (s.modThread x.a l fun u =>
            { u with stack := sclear u.stack (24 * k) (24 * k + 24), low := k + 1, sys := { u.sys with wsp := u.sys.wsp + 96 } })) s
        s.spillImage x.a l x.pc t.depth (s.thread x.a l).sys.wsp n) = true := by decide +kernel
theorem test_wfill_hyps :
    passes (deeper memory) 0x6E (fields 8 4 16 12 0 0) ((fun _ _ => {}) (fields 8 4 16 12 0 0) idle.cur)
      (fun x s l =>
      let t := s.thread x.a l
      if t.sys.wsp.toNat % 4 ≠ 0 ∨ t.pendingIn (24 * t.depth) (24 * t.depth + 32) then .error .stall
      else do
        let (bs, s) ← s.fillImage x.a l t.sys.wsp
        pure (s.modThread x.a l fun u =>
          let u := (List.range 24).foldl (fun u i =>
            u.setPos (24 * t.depth + i) (BitVec.ofNat 32 (natOfBytes ((bs.drop (4 * i)).take 4)))) u
          { u with stack := sclear u.stack 0 (24 * t.depth), low := t.depth, winPending := false })) = true := by decide +kernel
theorem test_ld_hyps :
    let size := fun (sub : Nat) => [1, 2, 4, 8, 16, 1, 1, 1, 1, 2].getD sub 1
    let regs := fun (sub : Nat) => [1, 1, 1, 2, 4, 1, 1, 1, 1, 1].getD sub 1
    let use := fun (sub : Nat) => [Use.word, .word, .word, .pair, .quad, .word, .word, .word, .word, .word].getD sub .word
    let space := fun (c : Nat) => [Space.glob, .sp, .pd, .glob].getD c .glob
    let ok := fun (f : Fields) (a : Agent) => match a with
      | .fe _ => f.mod.toNat % 4 == 0
      | _ => f.mod.toNat % 4 != 3
    let go := fun (addr : Ctx → Nat → DWord) (x : Ctx) (s : State) (l : Nat) =>
      let sub := x.f.sub.toNat
      let k := x.f.d.toNat % 8
      let dsts := if sub = 5 then (if k = 0 then [] else [Dst.guard k]) else s.dstsOf x.a x.f l (regs sub)
      s.loadInto x l (if dsts = [] then .touch else .load) (space (x.f.mod.toNat % 4)) (addr x l) (size sub) (size sub) sub dsts
    passes (withRegs [(4, 0x200)] memory) 0x70 (fields 8 4 63 12 4 0) ((fun f a => if f.sub = 5 then { a := .pair, b := .word, modOk := ok f a, gWrite := [f.d.toNat % 8] } else { d := use f.sub.toNat, a := .pair, b := .word, modOk := ok f a }) (fields 8 4 63 12 4 0) idle.cur)
      (go fun x l => x.dw l .A + (x.w l .B).signExtend 64) = true := by decide +kernel
theorem test_ldx_hyps :
    let size := fun (sub : Nat) => [1, 2, 4, 8, 16, 1, 1, 1, 1, 2].getD sub 1
    let regs := fun (sub : Nat) => [1, 1, 1, 2, 4, 1, 1, 1, 1, 1].getD sub 1
    let use := fun (sub : Nat) => [Use.word, .word, .word, .pair, .quad, .word, .word, .word, .word, .word].getD sub .word
    let space := fun (c : Nat) => [Space.glob, .sp, .pd, .glob].getD c .glob
    let ok := fun (f : Fields) (a : Agent) => match a with
      | .fe _ => f.mod.toNat % 4 == 0
      | _ => f.mod.toNat % 4 != 3
    let go := fun (addr : Ctx → Nat → DWord) (x : Ctx) (s : State) (l : Nat) =>
      let sub := x.f.sub.toNat
      let k := x.f.d.toNat % 8
      let dsts := if sub = 5 then (if k = 0 then [] else [Dst.guard k]) else s.dstsOf x.a x.f l (regs sub)
      s.loadInto x l (if dsts = [] then .touch else .load) (space (x.f.mod.toNat % 4)) (addr x l) (size sub) (size sub) sub dsts
    passes (withRegs [(4, 0x200), (16, 1)] memory) 0x72 (fields 8 4 16 12 3 12) ((fun f a => { d := use f.sub.toNat, a := .pair, b := .word, c := .word, modOk := ok f a && decide (f.mod.toNat / 4 % 8 ≤ 4) }) (fields 8 4 16 12 3 12) idle.cur)
      (go fun x l => x.dw l .A +
      (if x.f.mod.getLsbD 5 then (x.w l .B).setWidth 64 else (x.w l .B).signExtend 64) <<< (x.f.mod.toNat / 4 % 8) +
      (x.w l .C).signExtend 64) = true := by decide +kernel
theorem test_tileld_hyps :
    let space := fun (c : Nat) => [Space.glob, .sp, .pd, .glob].getD c .glob
    let ok := fun (f : Fields) (a : Agent) => match a with
      | .fe _ => f.mod.toNat % 4 == 0
      | _ => f.mod.toNat % 4 != 3
    passes (withRegs [(4, 0x200), (16, 32)] memory) 0x75 (fields 8 4 16 12 3 0) ((fun f a => { d := [Use.word, .pair, .quad, .octet].getD f.sub.toNat .octet, a := .pair, b := .word, modOk := ok f a }) (fields 8 4 16 12 3 0) idle.cur)
      (fun x s l =>
      let e := 2 ^ (x.f.sub.toNat % 4)
      s.loadInto x l .load (space (x.f.mod.toNat % 4))
        (x.dw x.lowest .A + BitVec.ofNat 64 l * (x.w x.lowest .B).signExtend 64) (4 * e) e 2
        (s.dstsOf x.a x.f l ([1, 2, 4, 8].getD x.f.sub.toNat 8))) = true := by decide +kernel
theorem test_xbarM_hyps :
    let space := fun (c : Nat) => [Space.glob, .sp, .pd, .glob].getD c .glob
    passes (withRegs [(4, 0x200)] memory) 0x80 (fields 8 4 16 12 0 8) ((fun f _ => { d := .word, a := .pair, modOk := f.mod.toNat / 16 % 4 != 3, perm := true }) (fields 8 4 16 12 0 8) idle.cur)
      (fun x s l =>
      let e : Byte := match x.a.mill.bind x.s0.mill? with
        | some m => (m.tables.getD (x.f.mod.toNat % 8) []).getD l 0
        | none => 0
      if e.getLsbD 7 then pure (s.startLong x.a x.f l x.lowest (s.dstsOf x.a x.f l 1) [0] 0 none 0)
      else s.loadInto x l .load (space (x.f.mod.toNat / 16 % 4)) (x.dw l .A + BitVec.ofNat 64 (4 * (e.extractLsb' 0 6).toNat)) 4 4
        (if e.getLsbD 6 then 22 else 2) (s.dstsOf x.a x.f l 1)) = true := by decide +kernel
theorem test_st_hyps :
    let size := fun (sub : Nat) => [1, 2, 4, 8, 16].getD sub 1
    let use := fun (sub : Nat) => [Use.word, .word, .word, .pair, .quad].getD sub .word
    let ok := fun (f : Fields) (a : Agent) => match a with
      | .fe _ => f.mod.toNat % 4 == 0
      | _ => f.mod.toNat % 4 != 3
    let data := fun (x : Ctx) (l n : Nat) => ((List.range n).map fun i => (x.s0.srcDst x.a x.f l (i / 4)).extractLsb' (8 * (i % 4)) 8)
    let put := fun (addr : Ctx → Nat → DWord) (x : Ctx) (s : State) (l : Nat) =>
      let n := size x.f.sub.toNat
      s.storeBytesAt x l (addr x l) n n (min n 8) (data x l n) .st fun _ => true
    passes (withRegs [(4, 0x300)] memory) 0x71 (fields 8 4 63 12 4 0) ((fun f a => { d := use f.sub.toNat, dRead := true, dWrite := false, a := .pair, b := .word, modOk := ok f a }) (fields 8 4 63 12 4 0) idle.cur)
      (put fun x l => x.dw l .A + (x.w l .B).signExtend 64) = true := by decide +kernel
theorem test_stx_hyps :
    let size := fun (sub : Nat) => [1, 2, 4, 8, 16].getD sub 1
    let use := fun (sub : Nat) => [Use.word, .word, .word, .pair, .quad].getD sub .word
    let ok := fun (f : Fields) (a : Agent) => match a with
      | .fe _ => f.mod.toNat % 4 == 0
      | _ => f.mod.toNat % 4 != 3
    let data := fun (x : Ctx) (l n : Nat) => ((List.range n).map fun i => (x.s0.srcDst x.a x.f l (i / 4)).extractLsb' (8 * (i % 4)) 8)
    let put := fun (addr : Ctx → Nat → DWord) (x : Ctx) (s : State) (l : Nat) =>
      let n := size x.f.sub.toNat
      s.storeBytesAt x l (addr x l) n n (min n 8) (data x l n) .st fun _ => true
    passes (withRegs [(4, 0x300), (16, 1)] memory) 0x73 (fields 8 4 16 12 3 12) ((fun f a => { d := use f.sub.toNat, dRead := true, dWrite := false, a := .pair, b := .word, c := .word, modOk := ok f a && decide (f.mod.toNat / 4 % 8 ≤ 4) }) (fields 8 4 16 12 3 12) idle.cur)
      (put fun x l => x.dw l .A +
      (if x.f.mod.getLsbD 5 then (x.w l .B).setWidth 64 else (x.w l .B).signExtend 64) <<< (x.f.mod.toNat / 4 % 8) +
      (x.w l .C).signExtend 64) = true := by decide +kernel
theorem test_tilest_hyps :
    let ok := fun (f : Fields) (a : Agent) => match a with
      | .fe _ => f.mod.toNat % 4 == 0
      | _ => f.mod.toNat % 4 != 3
    let data := fun (x : Ctx) (l n : Nat) => ((List.range n).map fun i => (x.s0.srcDst x.a x.f l (i / 4)).extractLsb' (8 * (i % 4)) 8)
    passes (withRegs [(4, 0x400), (16, 32)] memory) 0x76 (fields 8 4 16 12 3 0) ((fun f a => { d := [Use.word, .pair, .quad, .octet].getD f.sub.toNat .octet, dRead := true, dWrite := false, a := .pair, b := .word, modOk := ok f a }) (fields 8 4 16 12 3 0) idle.cur)
      (fun x s l =>
      let e := 2 ^ (x.f.sub.toNat % 4)
      let row := fun (n : Nat) => x.dw x.lowest .A + BitVec.ofNat 64 n * (x.w x.lowest .B).signExtend 64
      s.storeBytesAt x l (row l) (4 * e) e e (data x l (4 * e)) .st fun off => !x.parts.any fun n =>
        decide (n > l) && decide ((row n).toNat ≤ (row l).toNat + off) && decide ((row l).toNat + off < (row n).toNat + 4 * e) &&
          x.rowPasses n) = true := by decide +kernel
theorem test_spawn_hyps :
    passes (withRegs [(4, 0x1000)] memory) 0x95 (fields 1 4 63 12 1 0) ((fun f _ => { a := .pair, gWrite := if f.sub = 1 then [f.d.toNat % 8] else [] }) (fields 1 4 63 12 1 0) idle.cur)
      (fun x s l => match x.a.mill.bind x.s0.gridOfMill with
      | none => pure s
      | some g =>
        let told := fun (b : Bool) (s : State) => if x.f.sub = 1 then s.modThread x.a l fun t => t.setGuard (x.f.d.toNat % 8) b else s
        if (s.gangs.filter fun h => h.st == .unplaced && (s.grid? h.grid).map (·.part) == some g.part).length ≥ 4096 then
          if x.f.sub = 1 then pure (told false s) else .error .stall
        else do
          let e ← s.readLaunch g.part false (s.spawnRead x.a l g.part) (x.dw l .A)
          -- the lines read count for the monitors (R414)
          let s := (e.reads (x.dw l .A)).foldl (fun t r => match t.pieces x.a l .load .glob r.1 r.2 with
            | .ok ps => t.countReads ps
            | .error _ => t) s
          pure (told true { s with
            grids := s.grids ++ [{ uid := s.fresh, part := g.part, queue := g.queue, cmd := g.cmd, seed := false, lr := e.lr,
                                   params := e.params, patImg := e.patImg, portImg := e.portImg, sched := e.sched, cursor := 0,
                                   left := e.lr.gangs, placed := 0, dead := false }]
            gangs := s.gangs ++ [{ uid := s.fresh + 1, grid := s.fresh, num := 0, st := .unplaced, order := s.fresh, age := 0, starve := 0,
                                   yield := false, save := none, restoring := false, mills := [] }]
            cmds := s.cmds.map fun c => if c.uid = g.cmd then { c with tree := c.tree + 1 } else c
            fresh := s.fresh + 2 })) = true := by decide +kernel
theorem test_send_hyps :
    passes (deepPorts) 0xC0 (fields 8 4 16 12 0 0) ((fun f _ => { a := .pair, b := .word, c := if f.sub = 1 then .word else .none, allHaz := true }) (fields 8 4 16 12 0 0) idle.cur)
      (fun x s l =>
      let far := x.f.sub == 1
      let port := fun (n : Nat) => (x.w n .B).toNat
      let members := match x.a.mill.bind x.s0.gridOfMill with
        | some g => g.lr.gang
        | none => 0
      let legal := x.parts.all fun n => decide (port n ≤ if far then 31 else 33) && (!far || decide ((x.w n .C).toNat < members))
      let to' : Option Nat :=
        if far then (match x.s0.gangOf x.a with
          | some g => (match x.s0.gang? g with
            | some g => g.mills[(x.w l .C).toNat]?
            | none => none)
          | none => none)
        else x.a.mill
      let seen := fun (sc : Scope) => (s.posted.filter fun p =>
        p.set != .ho && p.set != .en &&
          (p.owner.same x.a && p.lane == l ||
            p.rd == 0 && p.readers.any fun r => r.1.same x.a && r.2.1 == l && r.2.2 != some .ho)).map fun p => (p.id, sc)
      match legal, to', to'.bind s.mill? with
      | true, some uid, some m =>
        if port l ≥ 32 then
          match m.ctxs[port l - 32]? with
          | some c =>
            if ((x.dw l .A).toNat / 2 ^ 60 = 4 ∨ (x.dw l .A).toNat / 2 ^ 60 = 5) ∧ c.walks.any Walk.live then
              pure (s.modMill uid fun m => { m with ctxs := modAt m.ctxs (port l - 32) fun c =>
                { c with input := c.input ++ [⟨x.dw l .A, seen .mill⟩] } })
            else .error .stall
          | none => .error .stall
        else match m.st == .running && !m.aborted, m.ports[port l]? with
          | true, some q =>
            if q.fifo.length < q.depth then
              let q := { q with fifo := q.fifo ++ [⟨x.dw l .A, seen (if far || q.gang then .gang else .mill)⟩] }
              pure (s.modMill uid fun m => { m with ports := setAt m.ports (port l) q })
            else if q.count then
              let q := { q with drops := if q.drops = BitVec.allOnes 32 then q.drops else q.drops + 1, sticky := true }
              pure (s.modMill uid fun m => { m with ports := setAt m.ports (port l) q })
            else .error .stall
          | _, _ => .error .stall
      | _, _, _ => .error .stall) = true := by decide +kernel
/-! ### Words with a condition, and words that end threads or trap: each condition met, and where it waits -/

/-- A change of the one mill, and of its wheel. -/
def onMill (f : Mill → Mill) (s : State) : State := { s with mills := s.mills.map f }
def onWheel (f : Wheel → Wheel) (s : State) : State := onMill (fun m => { m with wheels := m.wheels.map f }) s
/-- A store, or with `op` a memory-side operation, in flight. -/
def access (id : Nat) (owner : Agent) (key : Nat) (bs : List Byte) (op : Option MemOp) : Posted where
  id := id
  owner := owner
  lane := 0
  mill := owner.mill
  gang := some 1
  die := some 0
  pc := 0
  va := 0
  key := key
  bytes := bs
  red := op
  rd := 0
  set := .st
  kid := 0
  sc := false
  reach := none
  settled := none
  bad := none
  tag := none
  held := none
  access := 0
  place := none
  grp := 0
  whole := (key, bs.length)
  readers := []
  fenced := []
  engines := []
/-- All four slots hold a fence; the first has token (0, 5). -/
def fenced : State :=
  withRegs [(4, 20)] (onWheel (fun w => { w with fences := ⟨(List.range 4).map fun i => some ⟨5 + i, .mill, false, [], [], false⟩, 9, none⟩ }) idle)
theorem test_fence_hyps : goes idle 0xB0 (fields 8 4 16 12 1 2) { d := .word, bImm := true } = true ∧ (idle.ready.fences idle.cur).free? = some 0 ∧
    goes fenced 0xB0 (fields 8 4 16 12 1 2) { d := .word, bImm := true } = true ∧ (fenced.ready.fences fenced.cur).free? = none := by decide +kernel
theorem test_fwait_hyps : goes idle 0xB1 (fields 8 4 16 12 0 0) { a := .word } = true ∧ (idle.ready.fences idle.cur).live 0 = false ∧
    goes fenced 0xB1 (fields 8 4 16 12 0 0) { a := .word } = true ∧ (fenced.ready.fences fenced.cur).live 20 = true := by decide +kernel

/-- Every participant's location passes. -/
def placed (st : State) (op : BitVec 8) (f : Fields) (sh : Shape) (old : Bool) (size : Nat) : Bool :=
  let x := st.ctx op f sh
  goes st op f sh && x.todo.all fun l =>
    let a := x.dw l .A
    a.toNat % size == 0 && (match x.s0.pieces x.a l .atomic .glob a size with
      | .ok ps => (x.s0.boundPieces ps false).isNone && x.s0.writeReady x.a l ps x.s0.fresh && (!old || !x.s0.poisonedIn ps)
      | .error _ => false)
theorem test_atomics_hyps :
    let s := withRegs [(4, 0x200)] idle
    placed s 0xB2 (fields 8 4 63 12 16 0) { d := .pair, a := .pair, b := .word, c := .pair } true 8 = true ∧
    placed s 0xB3 (fields 8 4 63 12 0 0) { a := .pair, b := .word, c := .word } false 4 = true ∧
    placed s 0xB4 (fields 8 4 16 12 0 0) { d := .word, a := .pair, b := .word, c := .word } true 4 = true := by decide +kernel
/-- Partition 0 has 1 MiB of die 0's pond, at its start. -/
def ponded : State :=
  { idle with parts := idle.parts.map fun p => { p with pond := [(0, 1), (0, 0), (0, 0), (0, 0)] } }
theorem test_pvop_hyps :
    let s := withRegs [(4, 0xFFFF0), (16, 4)] ponded
    let x := s.ctx 0xB5 (fields 8 4 16 12 1 0) { a := .pair, b := .word, c := .word }
    goes s 0xB5 (fields 8 4 16 12 1 0) { a := .pair, b := .word, c := .word } = true ∧ (x.s0.part (x.s0.partOfAgent x.a)).pond.getD 0 (0, 0) = (0, 1) ∧
      ∀ l ∈ x.todo, (x.dw l .A).toNat + 4 * (x.w l .B).toNat = 2 ^ 20 := by decide +kernel
theorem test_xtld_hyps :
    let s := withRegs [(4, 0x200)] idle
    goes s 0x81 (fields 8 4 16 12 0 3) { a := .pair } = true ∧ (s.ready.load s.cur 0 .load .glob 0x200 32 32).toBool = true := by decide +kernel
/-- A store of a wheel of another mill into this one's scratchpad. -/
def drains : State := { idle with posted := [access 1 (.wheel 2 0) (padKey 1 0) [1] none] }
theorem test_drnwait_hyps : goes idle 0xE3 (fields 8 4 16 12 0 0) { d := .word, a := .word } = true ∧ idle.drainOf 1 = 0 ∧
    goes drains 0xE3 (fields 8 4 16 12 0 0) { d := .word, a := .word } = true ∧ drains.drainOf 1 = 1 := by decide +kernel
/-- A grid with one handler wheel, and an enabled pattern on port 0 in v4-v7. -/
def handled : State :=
  withRegs [(4, 1), (5, 0x100), (6, 0x200)] { idle with grids := idle.grids.map fun g => { g with lr := { g.lr with hres := 1 } } }
theorem test_patset_hyps :
    let s := handled
    let x := s.ctx 0xC1 (fields 8 4 16 12 0 0) { a := .quad, b := .word }
    let w := fun (k : Nat) => (x.s0.srcGroup x.a x.f x.lowest .A 4).getD k 0
    goes s 0xC1 (fields 8 4 16 12 0 0) { a := .quad, b := .word } = true ∧ w 0 = 1 ∧ w 1 = 0x100 ∧ w 2 = 0x200 ∧
      (x.a.mill.bind x.s0.gridOfMill).map (·.lr.hres) = some 1 := by decide +kernel
theorem test_portcfg_hyps : goes idle 0xC2 (fields 8 4 16 12 0 0) { a := .word, b := .word } = true ∧
    idle.mills.all (fun m => m.ports.all (·.fifo.isEmpty) && m.ctxs.all (·.walks.isEmpty)) = true := by decide +kernel
theorem test_tlwait_hyps :
    let late := withRegs [(4, 1)] idle
    goes idle 0xCA (fields 1 4 16 12 1 0) { a := .pair, gWrite := [1] } = true ∧ goes idle 0xCA (fields 1 4 16 12 0 0) { a := .pair } = true ∧
    goes late 0xCA (fields 1 4 16 12 0 0) { a := .pair } = true ∧ idle.mills.all (fun m => m.flume.timeline == 0 && m.flume.halt.isNone) = true := by
  decide +kernel

/-- The problem record of the smallest walk: one tile of 32 by 32, one k-step, one slot each. -/
def walkBytes : List Byte :=
  bytesOfNat 4 32 ++ bytesOfNat 4 32 ++ bytesOfNat 4 32 ++ bytesOfNat 4 0 ++ [0, 0, 0, 0, 0, 1, 0, 0] ++ bytesOfNat 8 (0xF000000000002000) ++
    bytesOfNat 8 (0xF000000000004000) ++ bytesOfNat 8 (0xF000000000100000) ++ bytesOfNat 2 1 ++ bytesOfNat 2 1 ++ bytesOfNat 2 1 ++ [0, 1, 2] ++
    List.replicate 71 0
/-- A mill with an accumulator part, the record at 0x400 and its address in v4. -/
def posts : State :=
  withRegs [(4, 0x400)] (onMill (fun m => { m with acc := 64 }) { idle with mem := memPutList idle.mem 0x400 walkBytes })
/-- A walk of the record on context 0, its accumulator slot in a state. -/
def walkIs (st : WalkState) (y : AccState) : Walk :=
  { newWalk (walkRecOf walkBytes) 0 1 0 1 0x100000 with st := st, cslots := [⟨y, 0, []⟩] }
def walking (st : WalkState) (y : AccState) : State :=
  onMill (fun m => { m with acc := 64, ctxs := [{ WalkCtx.start with posted := 1, tiles := 1, walks := [walkIs st y] }, WalkCtx.start] }) idle
/-- Eight walks queued. -/
def queued8 : State :=
  onMill (fun m => { m with ctxs := [{ WalkCtx.start with walks := List.replicate 8 (walkIs .queued .free) }, WalkCtx.start] }) posts
theorem test_wpost_hyps :
    (walkBytes.length, posts.mills.map fun m => m.walkSub (walkRecOf walkBytes)) = (128, [none]) ∧
    goes posts 0xD0 (fields 8 4 63 12 0 0) { d := .pair, a := .pair, b := .word } = true ∧ posts.queueUsed 0 = 0 ∧
    (match posts.ready.load posts.cur 0 .load .glob 0x400 128 128 with
      | .ok r => decide (r.2 = walkBytes)
      | .error _ => false) = true ∧
    goes queued8 0xD0 (fields 8 4 63 12 0 0) { d := .pair, a := .pair, b := .word } = true ∧ queued8.queueUsed 0 = 8 := by decide +kernel
theorem test_accld_accclr_hyps :
    goes (walking .running .done) 0xD3 (fields 8 4 16 12 0 0) { d := .quad, a := .word, b := .word, c := .word } = true ∧
    goes (walking .running .done) 0xD4 (fields 8 4 16 12 0 0) { a := .word } = true ∧
    (walking .running .done).mills.all (fun m => (m.liveWalk 0).map (·.cslots) == some [⟨.done, 0, []⟩]) = true := by decide +kernel

theorem test_syncw_yield_exit_hyps : goes idle 0x8E (fields 8 4 16 12 0 0) {} = true ∧ goes idle 0x97 (fields 8 4 16 12 0 0) {} = true ∧
    goes idle 0x66 (fields 8 4 16 12 0 0) { transfer := true } = true ∧ goes idle 0xC4 (fields 8 4 16 12 0 0) { transfer := true } = true := by
  decide +kernel
/-- Every thread has a vector table at 0x2000, whose entries of the classes 0x30 and 0x31 name the header at 0x200. -/
def vectored : State :=
  let m := memPutList (memPutList memory.mem 0x2300 (bytesOfNat 16 (0x200 + 2 ^ 64))) 0x2310 (bytesOfNat 16 (0x200 + 2 ^ 64))
  eachThread (fun t => { t with sys := { t.sys with tvec := 0x2000 } }) { memory with mem := m }
/-- An instruction in flight that waits for nothing, and writes no uniform register. -/
def lands (o : LongOp) : Bool := o.wait.isNone && o.parts.isEmpty && o.look.isNone && o.writes.all fun w => match w.1 with
  | .uni _ => false
  | _ => true
/-- A thread can enter the handler of a class at once, as one Bool. -/
def canEnter (s : State) (a : Agent) (l cls : Nat) (hpc : DWord) : Bool :=
  (match s.vector a l cls with
    | .ok (v, u) => v == some hpc && (u.fetchHeader a l hpc).toBool
    | .error _ => false) && (s.thread a l).long.all lands && (s.thread a l).sys.frp &&& ~~~63 == 0 &&
    !(s.thread a l).winPending && decide ((s.thread a l).depth + 2 - (s.thread a l).low ≤ s.poolWindows a)
theorem canEnter_of {s : State} {a : Agent} {l cls : Nat} {hpc : DWord} (h : canEnter s a l cls hpc = true) : s.CanEnter a l cls hpc := by
  simp only [canEnter, Bool.and_eq_true, Bool.not_eq_true', beq_iff_eq, decide_eq_true_eq, List.all_eq_true] at h
  obtain ⟨⟨⟨⟨hv, hl⟩, hr⟩, hw⟩, hd⟩ := h
  refine ⟨?_, fun o ho => ?_, hr, hw, hd⟩
  swap
  · have g := hl o ho
    simp only [lands, Bool.and_eq_true, Option.isNone_iff_eq_none, List.isEmpty_iff, List.all_eq_true] at g
    exact ⟨g.1.1.1, g.1.1.2, g.1.2, fun n v hm => by simpa using g.2 _ hm⟩
  rcases e : s.vector a l cls with _ | ⟨v, u⟩
  · simp [e] at hv
  · rcases g : u.fetchHeader a l hpc with _ | k
    · simp [e, g, Except.toBool] at hv
    · simp only [e, Bool.and_eq_true, beq_iff_eq] at hv
      exact ⟨u, k, by rw [hv.1], g⟩
/-- Lanes can enter handlers at one address, one after another. -/
def canEnterAll (a : Agent) (cls : Nat → Nat) (hpc : DWord) : List Nat → State → Bool
  | [], _ => true
  | l :: ls, s => canEnter s a l (cls l) hpc && match s.vector a l (cls l) with
    | .ok (some _, u) => canEnterAll a cls hpc ls (u.keepFetch a l hpc)
    | _ => true
theorem canEnterAll_of {a : Agent} {cls : Nat → Nat} {hpc : DWord} {ls : List Nat} {s : State} (h : canEnterAll a cls hpc ls s = true) :
    State.CanEnterAll a cls (fun _ => hpc) ls s := by
  induction ls generalizing s with
  | nil => trivial
  | cons l ls ih =>
    simp only [canEnterAll, Bool.and_eq_true] at h
    refine ⟨canEnter_of h.1, fun u e => ih ?_⟩
    simpa [e] using h.2
theorem test_trap_hyps : goes vectored 0x67 (fields 8 4 16 12 0 7) {} = true ∧ goes vectored 0x68 (fields 8 4 16 12 0 0) {} = true ∧
    vectored.ready.breakClaimed vectored.cur = false ∧
    canEnterAll vectored.cur (fun _ => 0x31) 0x200 vectored.lanes vectored.ready = true ∧
    canEnterAll vectored.cur (fun _ => 0x30) 0x200 vectored.lanes vectored.ready = true := by
  decide +kernel
/-- A debugger claims the mill's breakpoints. -/
def claimed : State := onMill (fun m => { m with claimed := true }) idle
theorem test_bkpt_claimed_hyps : goes claimed 0x68 (fields 8 4 16 12 0 0) {} = true ∧ claimed.ready.breakClaimed claimed.cur = true := by decide +kernel
/-- A wheel at a header with nothing due. -/
def atHeader : State := eachThread (fun t => { t with clause := none, entryDue := true }) idle
theorem test_header_hyps : atHeader.lanes = [0, 1] ∧ (⟨0, 15, 15, 1⟩ : Header).ok = true ∧ (atHeader.lanes.all fun l =>
    let t := atHeader.ready.thread atHeader.cur l
    t.clause.isNone && !atHeader.ready.saveDue atHeader.cur l && !t.haltDue && t.posted.isEmpty) = true := by decide +kernel

/-! ### Ill-formed terms, each refused by the check it fails -/

theorem test_wf_plain : (Instr.add (fields 5 4 6 0 0 0)).WellFormed = true ∧
    (Instr.add { fields 5 4 59 0 0 0 with len := 1, imm := 2 ^ 32 - 1 }).WellFormed = true ∧
    (Instr.clauseHeader ⟨1, 15, 15, 2⟩).WellFormed = true ∧ (Instr.cap 1300).WellFormed = true := by decide
theorem test_wf_length : (Instr.add { fields 5 4 6 0 0 0 with len := 3 }).WellFormed = false := by decide
theorem test_wf_immediate : (Instr.add { fields 5 4 59 0 0 0 with imm := 1 }).WellFormed = false ∧
    (Instr.add { fields 5 4 59 0 0 0 with len := 1, imm := 2 ^ 32 }).WellFormed = false := by decide
theorem test_wf_sub : (Instr.add (fields 5 4 6 0 2 0)).WellFormed = false ∧ (Instr.nop (fields 0 0 0 0 1 0)).WellFormed = false := by decide
theorem test_wf_form : (Instr.xbar (fields 5 4 6 0 0 8)).WellFormed = false ∧ (Instr.xbarM (fields 5 4 6 0 0 0)).WellFormed = false ∧
    (Instr.xbarM (fields 5 4 6 0 0 8)).WellFormed = true := by decide
theorem test_wf_header : (Instr.clauseHeader ⟨0, 15, 15, 0⟩).WellFormed = false ∧ (Instr.clauseHeader ⟨0, 12, 15, 1⟩).WellFormed = false ∧
    (Instr.clauseHeader ⟨0, 15, 14, 1⟩).WellFormed = false := by decide

/-! ### Words written out from the spec's encodings -/

/-- The fields of R37 from bit 63 down: MOD, SUB, HOLD, EDGE, CN, C, BN, B, AN, A, D, GN, G, OP, LEN. -/
def word (m : BitVec 10) (sub : BitVec 6) (hold edge cn : BitVec 2) (c : BitVec 6) (bn : BitVec 2) (b : BitVec 6) (an : BitVec 2) (a d : BitVec 6)
    (gn : BitVec 1) (g : BitVec 3) (op : BitVec 8) (len : BitVec 2) : Nat :=
  (m ++ sub ++ hold ++ edge ++ cn ++ c ++ bn ++ b ++ an ++ a ++ d ++ gn ++ g ++ op ++ len).toNat
-- the examples of R21 and R44, and of spec/07
theorem test_decode_header : decodeTableWord 64 0x0000_0000_00BF_C007 = some (.clauseHeader ⟨1, 15, 15, 2⟩) := by decide
theorem test_decode_add : decodeBytes [0x11, 0x40, 0x41, 0xB0, 0x03, 0, 0, 0, 1, 0, 0, 0, 0xFF] =
    .ok (.add { fields 5 4 59 0 0 0 with len := 1, imm := 1 }, [0xFF]) := by decide
theorem test_decode_fma : decodeTableWord 64 0x0000_A030_2412_2D0C =
    some (.fma { fields 8 1 2 3 0 0 with g := 3, gn := 1, an := 1, edge := 2, hold := 2 }) := by decide
theorem test_decode_long_form : decodeTableWord 128 (0x10 * 2 ^ 64 + 0x0002_0003_B021_01C2) =
    some (.ld { fields 4 2 59 0 2 0 with len := 2, imm := 0x10 }) := by decide
theorem test_decode_st : decodeTableWord 96 (0x14 * 2 ^ 64 + 0x0002_0003_B021_41C5) =
    some (.st { fields 5 2 59 0 2 0 with len := 1, imm := 0x14 }) := by decide
theorem test_decode_ret : decodeTableWord 64 0x0000_0000_0060_0190 = some (.ret (fields 0 6 0 0 0 0)) := by decide
theorem test_decode_dot4 : decodeTableWord 64 0x0100_0030_2012_0240 = some (.dot4 (fields 8 1 2 3 0 4)) := by decide
-- one word of each other family, from R47-R53 and the MOD columns of its chapter
theorem test_decode_cmp : decodeTableWord 64 0x000A_0000_6040_8080 = some (.cmp (fields 2 4 6 0 0b001010 0)) := by decide
theorem test_decode_cvt : decodeTableWord 64 (word 0b01_0011_1100 0b000001 0 0 0 0 0 0 0 4 5 0 0 0b0101_0000 0b00) =
    some (.cvt (fields 5 4 0 0 1 0b0100111100)) := by decide
theorem test_decode_hadd2 : decodeTableWord 64 (word 0 0b000001 0 0 0 0 0 6 0 4 5 0 0 0b0101_0010 0b00) = some (.hadd2 (fields 5 4 6 0 1 0)) := by decide
theorem test_decode_tileld : decodeTableWord 64 (word 0 0b000010 0 0 0 0 0 6 0 4 8 0 0 0b0111_0101 0b00) = some (.tileld (fields 8 4 6 0 2 0)) := by decide
theorem test_decode_xbar : decodeTableWord 64 (word 0b00000_0_111 0 0 0 0 0 0 6 0 4 5 0 0 0b1000_0000 0b00) = some (.xbar (fields 5 4 6 0 0 7)) := by decide
theorem test_decode_xbarM : decodeTableWord 64 (word 0b00000_1_111 0 0 0 0 0 0 0 0 4 5 0 0 0b1000_0000 0b00) =
    some (.xbarM (fields 5 4 0 0 0 15)) := by decide
theorem test_decode_spawn : decodeTableWord 64 (word 0 0b000001 0 0 0 0 0 0 0 4 2 0 0 0b1001_0101 0b00) = some (.spawn (fields 2 4 0 0 1 0)) := by decide
theorem test_decode_fence : decodeTableWord 64 0x0081_0000_8002_02C0 = some (.fence (fields 8 0 8 0 1 2)) := by decide
theorem test_decode_cas : decodeTableWord 64 (word 0b0000000010 0b010000 0 0 0 8 0 6 0 4 10 0 0 0b1011_0100 0b00) =
    some (.cas (fields 10 4 6 8 16 2)) := by decide
theorem test_decode_send : decodeTableWord 64 (word 0b0000000001 0b000001 0 0 0 0 0 6 0 4 3 1 2 0b1100_0000 0b00) =
    some (.send { fields 3 4 6 0 1 1 with g := 2, gn := 1 }) := by decide
theorem test_decode_tlwait : decodeTableWord 64 (word 0b0000000010 0b000001 0 0 0 0 0 0 0 4 3 0 0 0b1100_1010 0b00) =
    some (.tlwait (fields 3 4 0 0 1 2)) := by decide
theorem test_decode_wpost : decodeTableWord 64 0x0140_0003_F0C1_8340 = some (.wpost (fields 6 12 63 0 0 5)) := by decide
theorem test_decode_seedfit : decodeBytes [0x59, 0x03, 0x43, 0, 0xB1, 0x03, 0, 0, 2, 0, 0, 0] =
    .ok (.seedfit { fields 12 4 16 59 0 0 with len := 1, imm := 2 }, []) := by decide
theorem test_decode_frec : decodeTableWord 64 (word 0b0000000101 0 0 0 0 0 0 0 0 0 8 0 0 0b1110_0010 0b00) = some (.frec (fields 8 0 0 0 0 5)) := by decide
theorem test_decode_refuses : decode (BitVec.ofNat 128 (word 0 0 0 0 0 0 0 0 0 0 0 0 0 0x23 0)) = .error .unlistedOpcode ∧
    decode (BitVec.ofNat 128 (word 0 2 0 0 0 0 0 0 0 0 0 0 0 0x04 0)) = .error .unlistedSub ∧ decodeBytes [0x11, 0x40, 0x41] = .error .short := by decide

/-! ### Results of the spec's worked examples -/

/-- What vN of lane 0 holds after an instruction, and the flags of `fstat`. -/
def gives (i : Instr) (s : State) (n : Nat) : Word := match exec i s with
  | .next t => (t.thread s.cur 0).getV n
  | _ => 0xDEADBEEF
def raises (i : Instr) (s : State) : DWord := match exec i s with
  | .next t => (t.thread s.cur 0).sys.fstat
  | _ => 0xDEADBEEF
/-- What a long-latency instruction will write. -/
def brings (i : Instr) (s : State) : List Word := match exec i s with
  | .next t => (t.thread s.cur 0).long.flatMap fun o => o.writes.map (·.2)
  | _ => []
-- R78: the second word of the 128-bit sum
theorem test_addc_carries : gives (.addc (fields 1 5 9 0 0 9)) (eachThread (fun t => t.setGuard 1 true) (withRegs [(5, 0xFFFFFFFF)] idle)) 1 = 0 := by
  decide +kernel
-- R86 and R91
theorem test_fma_rounds_once : gives (.fma (fields 3 0 0 4 0 0)) (withRegs [(0, 0x3F800800), (4, 0xBF800000)] idle) 3 = 0x3A000400 := by decide +kernel
-- R100's table
theorem test_cvt_rne : gives (.cvt (fields 8 4 0 0 0 0xC0)) (withRegs [(4, 0xC0200000)] idle) 8 = 0xFFFFFFFE ∧
    raises (.cvt (fields 8 4 0 0 0 0xC0)) (withRegs [(4, 0xC0200000)] idle) = 16 := by decide +kernel
theorem test_cvt_clamps : gives (.cvt (fields 8 4 0 0 2 0x80)) (withRegs [(4, 0xC3480000)] idle) 8 = 0xFFFFFF80 ∧
    raises (.cvt (fields 8 4 0 0 2 0x80)) (withRegs [(4, 0xC3480000)] idle) = 1 := by decide +kernel
-- R101
theorem test_hadd2_overflows : gives (.hadd2 (fields 8 4 6 0 1 0)) (withRegs [(4, 0x7BFF3C00), (6, 0x7BFF3C00)] idle) 8 = 0x7C004000 ∧
    raises (.hadd2 (fields 8 4 6 0 1 0)) (withRegs [(4, 0x7BFF3C00), (6, 0x7BFF3C00)] idle) = 0b10100 := by decide +kernel
-- R194
theorem test_dot4_scales : gives (.dot4 (fields 8 1 2 3 0 4)) (withRegs [(1, 0xBC304038), (2, 0x38383838), (3, 0x7F80), (8, 0x3E800000)] idle) 8 =
    0x40880000 := by decide +kernel
-- R195, R196
def quads : State := withRegs [(4, 0x40400000), (5, 0xC2C80000), (6, 0x3C23D70A), (7, 0x43FA0000), (9, 128)] idle
theorem test_qscl_code : gives (.qscl (fields 9 4 0 0 0 0)) (withRegs [(9, 0)] quads) 9 = 128 := by decide +kernel
theorem test_qpack_block : gives (.qpack (fields 10 4 0 9 0 0)) quads 10 = 0x7803E43C ∧ raises (.qpack (fields 10 4 0 9 0 0)) quads = 0b11000 := by
  decide +kernel
-- R341, R342
theorem test_seedx_basis : gives (.seedx (fields 10 4 0 0 0 0)) (withRegs [(4, 0x006C2F35)] idle) 10 = 0xCB40EAC8 ∧
    gives (.seedx (fields 10 4 0 0 0 0)) (withRegs [(4, 0x006C2F35)] idle) 11 = 0xF3D5A624 := by decide +kernel
theorem test_seedfit_clamps : brings (.seedfit { fields 12 4 16 59 0 0 with len := 1, imm := 4 }) (withRegs [(4, 0x006C2F35), (16, 0xBF80BF80),
    (17, 0x3F80BF80), (18, 0xBF80BF80), (19, 0x3F803F80), (20, 0x3F80BF80), (21, 0x3F80BF80), (22, 0x3F80BF80), (23, 0x3F803F80)] idle) =
    [0x0F6C2F35, 0x00004101, 0x40810000, 1] := by decide +kernel
-- R71
theorem test_redw_tree : brings (.redw (fields 8 4 0 0 3 0)) { idle with mills := idle.mills.map fun m => { m with wheels := m.wheels.map fun w =>
    { w with threads := (List.range 4).map fun l => ((w.threads.getD 0 (Thread.start 0 true)).setV 4 (if l = 1 then 0x4B800000 else 0x3F800000)) } } } =
    [0x4B800001] := by decide +kernel

/-! ### Statements of operations: values that meet the hypotheses of each clause -/

theorem test_round_to_clauses : e5m2 ∈ [fp32, fp16, bf16, e5m2, e4m3, e2m1] ∧ (⟨0x7B, 20⟩ : FRes) = roundTo e5m2 false .rne false 62000 0 ∧
    roundTo e5m2 true .rne false 62000 0 = ⟨0x7C, 20⟩ ∧ roundTo e5m2 true .rtz false 62000 0 = ⟨0x7B, 16⟩ ∧
    roundTo e4m3 e4m3.overInf .rne false 464 0 = ⟨0x7E, 16⟩ := by decide
theorem test_special_operands_clauses : (FV.nan true).isSig = true ∧ (FV.nan false).isSig = false ∧ (FV.nan false).isNan = true ∧
    fp32.val 0x7F800000 = .inf false ∧ (fp32.val 0x80000000).isNan = false := by decide
theorem test_function_clauses : 0x7F800000 < 0x7FC00000 % 2 ^ 31 ∧ (0x80000000 : Nat) < 0xBF800000 ∧ (0xBF800000 : Nat) < 0xFF800000 := by decide
/-- Two wheels on the core; the second keeps an instruction of an address that cannot be read in its loop buffer. -/
def buffers : State :=
  let other := fun (w : Wheel) => { w with threads := w.threads.map fun t => { t with loopBuf := [(0x7000000000, 0)] } }
  onMill (fun m => { m with wheels := m.wheels ++ m.wheels.map other }) (withRegs [(5, 0x70), (16, 4)] idle)
theorem test_cinv_l1_hyps : goes buffers 0x77 (fields 8 4 16 12 0 0) { a := .pair, b := .word } = true ∧
    (match exec (.cinv (fields 8 4 16 12 0 0)) buffers with
      | .next t => (t.thread (.wheel 1 1) 0).loopBuf == [(0x7000000000, 0)]
      | _ => false) = true ∧
    (buffers.ready.coreOf (.wheel 1 1) == buffers.ready.coreOf buffers.cur) = true ∧
    (buffers.ready.srcD buffers.cur (fields 8 4 16 12 0 0) 0 .A, buffers.ready.srcW buffers.cur (fields 8 4 16 12 0 0) 0 .B) = (0x7000000000, 4) := by
  decide +kernel
theorem test_registers_read_back_hyps : (idle.threads (.wheel 1 0)).length = 2 ∧ (idle.mill? 1).isSome = true ∧
    (fields 28 0 0 0 0 0).d.toNat + 4 = 32 ∧ (fields 63 0 0 0 0 0).d = 63 ∧ (fields 47 0 0 0 0 0).d.toNat - 32 = 15 := by decide +kernel
/-- A thread whose pool of four windows is full, its area at a place and of a length. -/
def fullPool (wsp wlim : DWord) : State := eachThread (fun t => { t with depth := 3, sys := { t.sys with wsp := wsp, wlim := wlim } }) memory
theorem test_windows_hyps : idle.poolWindows (.wheel 1 0) = 4 ∧ (idle.thread (.wheel 1 0) 0).depth = 0 ∧
    (idle.thread (.wheel 1 0) 0).winPending = false ∧
    ([fullPool 0x200002 0x201000, fullPool 0x200000 0x20005F, fullPool 0x200000 0x200060].all fun s =>
      let t := s.thread (.wheel 1 0) 0
      !t.winPending && decide (t.low < t.depth) && decide (t.depth + 2 - t.low > s.poolWindows (.wheel 1 0)) && !t.pendingIn 0 24) = true ∧
    ((fullPool 0x200000 0x200060).spillImage (.wheel 1 0) 0 0 0 0x200000 0).toBool = true := by decide +kernel
theorem test_loads_hyps :
    let s := idle
    let x := s.ctx 0x70 (fields 8 4 63 0 2 0) { d := .word, a := .pair, b := .word }
    (0x202 : DWord).toNat % 4 ≠ 0 ∧ (s.pieces x.a 0 .load .glob 0x7000000000 4).toBool = false ∧
    (match s.pieces x.a 0 .load .glob 0x200 4 with
      | .ok ps => !s.poisonedIn ps && ps.all fun p => p.tier != 3 && (s.loadGate x.a 0 p).toBool
      | .error _ => false) = true := by decide +kernel
theorem test_memory_hyps : Memory.wf State.reset.mem = true ∧ 0x1000 + 4 ≤ 2 ^ 52 ∧ 2 ^ 52 ≤ padKey 1 0 := by decide
/-- The last word of a clause fails its guard in both lanes. -/
theorem test_failed_guards_hyps : idle.lanes = [0, 1] ∧ (Instr.mov { fields 8 4 0 0 0 0 with g := 1 }).WellFormed = true ∧
    (idle.lanes.all fun l =>
      let t := idle.ready.thread idle.cur l
      t.clause.isSome && !t.pending (.guard 1) && !xor (t.guard 1) false) = true := by decide +kernel
theorem test_hold_hyps : goes idle 0x01 { fields 8 4 0 0 0 0 with hold := 1 } { d := .word, a := .word } = true := by decide +kernel
/-- Threads where a header is due, with a vector table for class 0x04; and a front-end core in a clause with one for class 0x01. -/
def dueHeader : State :=
  eachThread (fun t => { t with clause := none, sys := { t.sys with tvec := 0x2000 } })
    { memory with mem := memPutList memory.mem 0x2040 (bytesOfNat 16 (0x200 + 2 ^ 64)) }
def onCore : State :=
  { memory with
    mem := memPutList memory.mem 0x2010 (bytesOfNat 16 (0x200 + 2 ^ 64))
    fe := memory.fe.map fun c => { c with thread := { c.thread with
      exited := false, clause := some ⟨0x100000, 0, 1, 0, 1, false⟩, sys := { c.thread.sys with tvec := 0x2000, xroot := 0x10000 } } }
    cur := .fe 0 }
theorem test_faults_hyps : dueHeader.lanes = [0, 1] ∧ (dueHeader.lanes.all fun l => (dueHeader.ready.thread dueHeader.cur l).clause.isNone) = true ∧
    canEnterAll dueHeader.cur (fun _ => 4) 0x200 dueHeader.lanes dueHeader.ready = true ∧
    onCore.lanes = [0] ∧ feExecutes 0x80 = false ∧ canEnterAll onCore.cur (fun _ => 1) 0x200 onCore.lanes onCore.ready = true ∧
    (onCore.ready.thread onCore.cur 0).clause.isSome = true := by decide +kernel
/-- Each clause of the return: at a header, inside the clause of 0x200, and a target that is no header. -/
def returning (tpc tcause : DWord) : State := eachThread (fun t => { t with sys := { t.sys with tpc := tpc, tcause := tcause } }) (deeper memory)
theorem test_returns_hyps : (idle.thread (.wheel 1 0) 0).depth = 0 ∧ ((deeper memory).thread (.wheel 1 0) 0).low < ((deeper memory).thread (.wheel 1 0) 0).depth ∧
    ((returning 0x200 (63 * 2 ^ 16)).fetchHeader (.wheel 1 0) 0 0x200).toBool = true ∧
    ((match (returning 0x208 (2 * 2 ^ 24)).fetchHeader (.wheel 1 0) 0 (0x208 - 8) with
      | .ok h => h.ok && decide (0 < h.count.toNat) && h.wait == 0
      | .error _ => false)) = true ∧
    ((returning 0x300 0).fetchHeader (.wheel 1 0) 0 0x300).toBool = false := by decide +kernel
/-- A step at a no-operation: the word is fetched and decodes; and a step of each of the other two shapes. -/
def nopAhead : State := State.reset.withFetchWord 64 0
theorem test_step_nop : (match step nopAhead with
    | .next t => (t.thread nopAhead.cur 0).pc == 0x100010 && decide (Memory.wf t.mem = true)
    | _ => false) = true := by decide +kernel
theorem test_step_safe_hyps : Memory.wf nopAhead.mem = true := by decide +kernel
theorem test_step_turn_event : ({ nopAhead with agenda := [.turn (.wheel 1 0)] }.endSlices).agenda = [.turn (.wheel 1 0)] ∧
    (match step { nopAhead with agenda := [.ev (.cap 1300)] } with
      | .next t => t.agenda.isEmpty && t.board.cap == 1300
      | _ => false) = true := by decide +kernel
theorem test_round_trip_hyps : (encode (.add (fields 5 4 6 0 0 0))).isSome = true ∧
    decode 0x0000_0000_00BF_C007 = .ok (.clauseHeader ⟨1, 15, 15, 2⟩) := by decide
/-- The frame's instructions issue and answer next states. -/
def runs (i : Instr) (st : State) : Bool := match exec i st with
  | .next _ => true
  | _ => false
theorem test_frame_hyps : goes idle 0x04 (fields 8 4 16 12 0 0) (shape2 (fields 8 4 16 12 0 0) idle.cur) = true ∧
    runs (.add (fields 8 4 16 12 0 0)) idle = true ∧ goes idle 0x43 (fields 8 4 16 12 0 0) (word3 (fields 8 4 16 12 0 0) idle.cur) = true ∧
    runs (.fma (fields 8 4 16 12 0 0)) idle = true := by decide +kernel

/-! ### Events: for the clauses of each statement, a state that meets its hypotheses and what the step then answers -/

/-- Something of the state that the step answers. -/
def of (o : Out) (p : State → Bool) : Bool := match o with
  | .next u => p u
  | _ => false
/-- The package is up, with the mill of `idle`. -/
def up : State := { idle with board := { idle.board with up := true, fwStat := 2 } }
def bare : State := { State.reset with board := { State.reset.board with up := true, fwStat := 2 } }
theorem test_cap_tokens : of (exec (.cap 1300) bare) (fun t => t.board.cap == 1300 && t.dies.all (·.tokens == 1)) = true ∧
    of (exec (.tokens 13) bare) (fun t => t.dies.all (·.tokens == 13)) = true ∧ of (exec (.cap 1299) bare) (fun t => t.board.cap == 3000) = true ∧
    of (exec (.cap 3001) bare) (fun t => t.board.cap == 3000) = true ∧ of (exec (.tokens 14) bare) (fun t => t.board.tokens == 0) = true := by decide +kernel
/-- Die 1 is throttled. -/
def hot : State := { bare with dies := modAt bare.dies 1 fun x => { x with throttled := true } }
theorem test_throttle : of (exec (.thermalLimit 1) bare) (fun t => t.dies.map (·.tokens) == [9, 1, 9, 9] && t.board.therm == 2) = true ∧
    of (exec (.throttleEnd 1) hot) (fun t => t.dies.all (fun d => d.tokens == 9 && !d.throttled)) = true := by decide +kernel
theorem test_power_gating : of (exec .powerGating bare) (fun t => t.board.gating && !t.board.gated && t.board.vacated.length == 416) = true ∧
    of (exec .powerGating { bare with board := { bare.board with gating := true } }) (fun t => t.board.gated && !t.board.gating) = true ∧
    of (exec .powerGating up) (fun t => t.gangs.all fun g => g.save == some ⟨0x21, 0, false⟩) = true := by decide +kernel
theorem test_wake_complete : of (exec .wakeComplete { bare with board := { bare.board with gated := true, waking := true } }) (fun t =>
    !t.board.gated && !t.board.waking) = true := by decide +kernel
theorem test_soft_errors : of (exec (.softError (.word (2 ^ 53)) true) bare) (fun t => t.poison == [2 ^ 50]) = true ∧
    of (exec (.softError (.line 0x1040) true) bare) (fun t => t.poison == [2 ^ 60 + 0x41]) = true ∧
    of (exec (.softError (.line 0x1040) false) { bare with fixed := [(1, List.replicate 63 0)] }) (fun t => t.fixed == [(1, List.replicate 64 0)]) = true ∧
    of (exec (.softError (.reg (.wheel 1 0) 0 4) true) up) (fun t => (t.thread (.wheel 1 0) 0).regPoison == [4]) = true ∧
    of (exec .patrolScrub { bare with fixed := [(1, [0])] }) (fun t => t.fixed == [(1, [0])]) = true := by decide +kernel
theorem test_cold_start : of (exec .coldStart { up with mem := memPutList up.mem (2 ^ 52) [7] }) (fun t => t.mem == [(2 ^ 52, 7)] && t.mills.isEmpty &&
    t.board.power && !t.board.up) = true ∧ of (exec .powerLoss up) (fun t => !t.board.power && t.mills.isEmpty && t.mem.isEmpty) = true := by
  decide +kernel
theorem test_warm_reset : up.parts.length = 8 ∧ of (exec .warmReset { bare with parts := up.parts }) (fun t => t.parts.all (!·.valid) && t.mills.isEmpty && t.mem.all (fun c => decide (2 ^ 52 ≤ c.1)) &&
    t.ports.length == 18 && t.board.up) = true := by decide +kernel
-- the verdict of an image is the device's own: either clause may be the one that runs
theorem test_fwgo_hyps : State.reset.board.power = true ∧ State.reset.board.fwStat.toNat % 4 ≠ 2 ∧
    (Config.fwVerdict [] = 0 ∨ Config.fwVerdict [] ≠ 0) := ⟨by decide, by decide, Classical.em _⟩
/-- An entry of partition 0 that passes every check, with 8 MiB of die 0's pond; and the machine that holds it. -/
def entry : Partition :=
  { Partition.zero with clusters := 1, hbmSize := 2 ^ 30, keyFirst := 16, keyCount := 16, qCount := 1, node := 5, split := [6, 8, 8, 8],
                        pond := [(0, 8), (0, 0), (0, 0), (0, 0)] }
def withEntry (e : Partition) : State := { bare with parts := setAt bare.parts 0 e }
theorem test_register_write : (withEntry entry).parts.length = 8 ∧ (withEntry entry).dies.length = 4 ∧
    of (exec (.registerWrite (.partField 0 0x56) 32) (withEntry entry)) (fun t => (t.part 0).keyCount == 32) = true ∧
    of (exec (.registerWrite (.partField 0 0x34) 9) (withEntry entry)) (fun t => (t.part 0).pond.getD 0 (0, 0) == (0, 9)) = true ∧
    of (exec (.registerWrite (.partField 0 0x56) 32) (withEntry { entry with valid := true })) (fun t => (t.part 0).keyCount == 16) = true := by
  decide +kernel
theorem test_frozen_register : of (exec (.registerWrite (.bar 0) 32) (withEntry { entry with valid := true, tdisp := .run })) (fun t =>
    (t.part 0).bar0 == 0 && (t.part 0).tdisp == .error && (t.queue 0).state == 2) = true := by decide +kernel
theorem test_partition_commit : of (exec (.partitionCommit 0) (withEntry entry)) (fun t => (t.part 0).valid && (t.die 0).pond16 == 6 &&
      (t.die 1).pond16 == 8 && t.board.nodeId == 0x80000005 && t.evq == [.partWrite 0]) = true ∧
    of (exec (.partitionCommit 0) (withEntry { entry with keyCount := 15 })) (fun t => !(t.part 0).valid && (t.part 0).refused) = true := by
  decide +kernel
theorem test_partition_destroy : of (exec (.partitionDestroy 0) (withEntry { entry with valid := true })) (fun t => !(t.part 0).valid &&
    (t.queue 0).base == 0 && t.evq == [.partWrite 0]) = true := by decide +kernel

/-- Queue 0 of a partition in force, its block in host memory at 0x100 and its commands at 0x1000. -/
def queued (x : Queue) : State :=
  { withEntry { entry with valid := true, tdisp := .run, ring := ⟨0x2000, 4, 0, 0, 0, false, [], 0⟩ } with queues := [(0, x)] }
def queue0 : Queue := { Queue.zero with base := 0x1000, logsz := 4, status := 0x100, ctrl := 1, state := 0 }
theorem test_queue_hyps : (queued queue0).partOfQueue 0 = some 0 := by decide +kernel
theorem test_doorbell : of (exec (.doorbell 0 3) (queued queue0)) (fun t => (t.queue 0).tail == 3 && t.wake == [0] && t.evq == [.doorbell 0]) = true ∧
    of (exec (.doorbell 0 4) { queued queue0 with wake := [0] }) (fun t => (t.queue 0).tail == 4 && t.evq.isEmpty) = true := by decide +kernel
theorem test_queue_enable : of (exec (.queueEnable 0) (queued { queue0 with ctrl := 0, state := 2 })) (fun t => (t.queue 0).ctrl == 1 &&
    (t.queue 0).state == 0) = true := by decide +kernel
theorem test_queue_disable : of (exec (.queueDisable 0) (queued queue0)) (fun t => (t.queue 0).state == 2 &&
    memGetList t.mem (2 ^ 52 + 0x108) 4 == [2, 0, 0, 0]) = true := by decide +kernel
theorem test_queue_restart : of (exec (.queueRestart 0) (queued { queue0 with state := 1 })) (fun t => (t.queue 0).state == 0) = true := by decide +kernel
theorem test_event_ring_config : of (exec (.eventRingConfig 0 .evlog 5) (queued queue0)) (fun t => (t.part 0).ring.evlog == 5) = true ∧
    of (exec (.eventRingConfig 0 .evlog 17) (queued queue0)) (fun t => (t.part 0).ring.evlog == 4) = true ∧
    of (exec (.eventRingConfig 0 .evbase 8) (queued queue0)) (fun t => (t.part 0).ring.evbase == 8) = true := by decide +kernel
/-- A full ring that has lost two records. -/
def lossy : State := (queued queue0).modPart 0 fun e => { e with ring := { e.ring with evtail := 16, lost := 2, summary := true } }
theorem test_evhead : of (exec (.evhead 0 4) lossy) (fun t => (t.part 0).ring.evhead == 4 && (t.part 0).ring.evtail == 17 && (t.part 0).ring.lost == 0 &&
      memGetList t.mem (2 ^ 52 + 0x2000) 20 == [0, 0x80, 3, 0, 1, 0, 0, 0, 0xFF, 0xFF, 0, 0, 2, 0, 0, 0, 0, 0, 0, 0]) = true ∧
    of (exec (.evhead 0 0) lossy) (fun t => (t.part 0).ring.lost == 2) = true := by decide +kernel
theorem test_host_record : let t := (queued queue0).hostRecord 0 7 1 0 0x203 [9]
    (t.part 0).ring.evtail = 1 ∧ memGetList t.mem (2 ^ 52 + 0x2000) 13 = [7, 0, 1, 0, 1, 0, 0, 0, 0, 0, 3, 2, 9] ∧
    (lossy.hostRecord 0 7 1 0 0 []).parts.all (fun e => e.ring.lost != 1) = true := by decide +kernel
/-- The machine of `up` with a command at HEAD of queue 0, and a second engagement. -/
def cmdBytes (op flags seq a0 a1 a2 : Nat) : List Byte :=
  [BitVec.ofNat 8 op, BitVec.ofNat 8 flags, 0, 0] ++ bytesOfNat 4 seq ++ bytesOfNat 8 a0 ++ bytesOfNat 8 a1 ++ bytesOfNat 8 a2 ++ List.replicate 32 0
def commanded (op flags seq a0 a1 a2 : Nat) : State :=
  { up with
    fresh := 100
    mem := memPutList memory.mem (hostKey 0x1000) (cmdBytes op flags seq a0 a1 a2)
    queues := [(0, { queue0 with root := 0x10000, tail := 1, seen := 1 })]
    parts := up.parts.map fun e => { e with engs := [⟨0, [16], [], [], [], [], [], 0⟩, ⟨1, [17], [], [], [], [], [], 0⟩] } }
/-- The parts of a command's readiness. -/
def ready (s : State) : Bool := s.board.up && !s.board.gated && (s.queue 0).state == 0 && (s.queue 0).ctrl.getLsbD 0 && (s.queue 0).head != (s.queue 0).seen &&
  s.cmds.isEmpty && s.evq.isEmpty && s.partOfQueue 0 == some 0
theorem test_launch : let s := commanded 1 0 5 0x1000 0 0
    ready s = true ∧ of (exec (.launch 0) s) (fun t => t.grids.length == 2 && t.gangs.length == 2 && t.cmds.length == 1 && (t.queue 0).head == 1) = true ∧
    of (exec (.launch 0) (commanded 1 0 5 0x1001 0 0)) (fun t => (t.queue 0).state == 1 && (t.queue 0).error.cls == 0x14) = true := by decide +kernel
theorem test_signal : of (exec (.signal 0) (commanded 2 0 5 0x3000 9 0)) (fun t => memGet t.mem 0x3000 == 9 && (t.queue 0).head == 1) = true ∧
    of (exec (.signal 0) (commanded 2 0 5 0x3004 9 0)) (fun t => (t.queue 0).error.cls == 0x0A) = true ∧
    of (exec (.signal 0) (commanded 9 0 5 0 9 0)) (fun t => (t.queue 0).error.cls == 1) = true := by decide +kernel
theorem test_waittl : of (exec (.waittl 0) (commanded 3 0 5 0x3000 9 0)) (fun t => t.waitTl == [(0, 0x3000, 9)]) = true := by decide +kernel
/-- The command has started and waits; the word at 0x3000 reads 9. -/
def started (op a0 a1 phase : Nat) : State :=
  { commanded 0 0 0 0 0 0 with
    mem := memPutList memory.mem 0x3000 [9], waitTl := [(0, 0x3000, 9)]
    cmds := [⟨99, 0, op, 1, 5, [BitVec.ofNat 64 a0, BitVec.ofNat 64 a1, 0], 0, false, none, phase, false, none, []⟩] }
theorem test_waittl_satisfied : of (exec (.waittlSatisfied 0) (started 3 0x3000 9 0)) (fun t => t.waitTl.isEmpty && t.cmds.all (·.done) &&
      (t.queue 0).doneseq == 5 && (t.part 0).ring.evtail == 1) = true ∧
    of (exec (.waittlSatisfied 0) { started 3 0x3000 9 0 with waitTl := [(0, 0x3000, 10)] }) (fun t => t.waitTl == [(0, 0x3000, 10)]) = true := by
  decide +kernel
theorem test_engage : of (exec (.engage 0) (commanded 4 0 5 3 2 0)) (fun t => (t.part 0).engs.map (fun e => (e.num, e.kids)) ==
      [(0, [16]), (1, [17]), (3, [18, 19])] && t.kidGen 19 == 2 && (t.queue 0).doneseq == 5) = true ∧
    of (exec (.engage 0) (commanded 4 0 5 3 0 0)) (fun t => (t.queue 0).error.cls == 0x14 && (t.queue 0).error.sub == 5) = true := by decide +kernel
theorem test_release : of (exec (.release 0) (commanded 5 0 5 1 0x4000 100)) (fun t => t.cmds.length == 1 && t.cmds.all (!·.done)) = true ∧
    of (exec (.release 0) (commanded 5 0 5 7 0x4000 100)) (fun t => (t.queue 0).error.sub == 5) = true := by decide +kernel
-- both later phases: no grid of engagement 1 is left
theorem test_release_hyps : ((started 5 1 0x4000 0).engOf 0 1).isSome = true ∧ (started 5 1 0x4000 0).grids.all (·.lr.eng != 1) = true ∧
    (started 5 1 0x4000 1).cmds.all (fun c => c.phase == 1 && !c.done) = true := by decide +kernel
theorem test_snapshot_hyps : let s := commanded 6 0 5 0x4000 0 0
    ready s = true ∧ (s.cmdPieces 0 (s.cmdSpace 0 0) .store 0x4000 0).toBool = true := by decide +kernel
theorem test_flush : of (exec (.flush 0) { commanded 7 0 5 0x200000 0x1000 0 with
    tlb := [⟨0, 0x10000, 0x200000, ⟨0, 0, 16, 0, false, false, 0, false, true, true, true⟩⟩] }) (fun t => t.cmds.all (·.done) && t.tlb.isEmpty) = true := by decide +kernel
theorem test_front_end_event : let s := { commanded 1 0 5 0 0 0 with evq := [.doorbell 0], wake := [0] }
    (s.thread (.fe 3) 0).exited = true ∧ s.locked 0 = false ∧ of (exec (.frontEndEvent 3) s) (fun t => t.evq.isEmpty && t.wake.isEmpty &&
      (t.thread (.fe 3) 0).exited == false && (t.thread (.fe 3) 0).entryDue) = true := by decide +kernel
/-- A flit of the given kind to this node, in order at a port that has just trained, under its own CRC. -/
def sealedFlit (vc typ addr : Nat) : Flit :=
  let f : Flit := { vc := vc, typ := typ, seq := 1, ack := 0, credit := 0, srcNode := 2, dstNode := 0, tag := 3, addr := addr, size := 7, opc := 0, srcPart := 0,
                    status := 0, nakSeq := 1, opnd0 := 0, opnd1 := 0, mask := 0xFF, data := List.replicate 128 1, rsv := List.replicate 58 0, crc := 0 }
  { f with crc := crc64 (flitBody f) }
-- the CRC's initial value and bit order are the device's own, so a good flit is one whose CRC is that function of its bytes
theorem test_flit_hyps : (sealedFlit 0 1 0x200000).crc = crc64 (flitBody (sealedFlit 0 1 0x200000)) ∧
    (sealedFlit 0 1 0x200000).seq = (up.port 1).rxNext ∧ 1 < up.ports.length ∧ (up.port 1).st ≠ 2 := ⟨rfl, by decide, by decide, by decide⟩
theorem test_flit_free_hyps : (Config.exports 0x200000 = true ∨ Config.exports 0x200000 = false) ∧ (Config.admits 2 0 0 = true ∨ Config.admits 2 0 0 = false) :=
  ⟨by cases Config.exports 0x200000 <;> simp, by cases Config.admits 2 0 0 <;> simp⟩
theorem test_corrupt_flit : of (exec (.corruptFlit 1 (sealedFlit 3 9 0)) up) (fun t => (t.port 1).unacked.map (fun f => (f.vc, f.typ, f.nakSeq)) == [(3, 1, 1)] &&
    (t.port 1).rxNext == 1) = true := by decide +kernel
/-- A read's transaction is out, with a write's access behind another; and a grid with an inbox. -/
def linked : State :=
  { up with
    txns := [⟨3, some (.wheel 1 0, 0), some 1, 0x100, 0x7204, 4, none, none⟩]
    grids := up.grids.map fun g => { g with seed := false, lr := { g.lr with ext := [32, 1, 1, 2, 1, 1] } } }
theorem test_response_inbox_hyps : linked.txns.all (fun t => t.tag == 3 && t.resp.isNone) = true ∧
    (linked.grids.find? fun g => g.part == 0 && !g.seed && decide (1 < g.lr.gangs * g.lr.gang)).isSome = true ∧
    (0x40000000000 + 2 ^ 21) / 2 ^ 37 % 8 = 0 ∧ (0x40000000000 + 2 ^ 21) / 2 ^ 21 % 2 ^ 16 = 1 := by decide +kernel
/-- Port 1 retrains; port 2 is down. -/
def retrains : State := { up with ports := modAt (modAt up.ports 1 fun p => { p with st := 1, replays := 16 }) 2 fun p => { p with st := 2 } }
theorem test_port_retrain : of (exec (.portRetrain 1 true) retrains) (fun t => (t.port 1).st == 0 && (t.port 1).replays == 0) = true ∧
    of (exec (.portRetrain 1 false) retrains) (fun t => (t.port 1).st == 2 && t.evq == [.link 1]) = true ∧
    of (exec (.idle 2 (sealedFlit 3 2 0)) retrains) (fun t => (t.port 2).rxNext == 1) = true := by decide +kernel
theorem test_mask_runs : maskRuns 129 0 0b1101 (List.replicate 128 7) = [(0, [7]), (2, [7, 7])] := by decide +kernel
/-- Messages of die 0 to die 1 in causal order: a write, a push, a fetch and a beacon may each be the oldest. -/
def message (kind : XKind) : State :=
  { up with xmsgs := [⟨0, 1, 5, [5, 0, 0, 0], kind⟩], posted := [{ access 4 (.wheel 1 0) 0x200000 [1, 2] none with die := some 0 }]
            dies := modAt up.dies 1 fun d => { d with copies := [(0x4000 * 1024, List.replicate 128 9)] } }
theorem test_remote_write : of (exec (.remoteWrite 0 1) (message (.write 4))) (fun t => memGet t.mem 0x200001 == 2 && (t.die 1).kn.getD 0 0 == 5) = true ∧
    of (exec (.remoteWrite 0 1) { message (.write 4) with xmsgs := [⟨0, 1, 5, [5, 0, 1, 0], .write 4⟩] }) (fun t => t.xmsgs.length == 1) = true := by
  decide +kernel
theorem test_push : of (exec (.push 0 1) (message (.push 0x200002 0 [1, 2] 0 (some 4)))) (fun t => t.posted.isEmpty &&
    ((t.copyOf 1 0x4000 0).map fun l => (l.take 5)) == some [9, 9, 1, 2, 9]) = true := by decide +kernel
theorem test_fetch_response : of (exec (.fetchResponse 0 1) (message (.fetch 0x4001 16 [7]))) (fun t => t.copyOf 1 0x4001 16 == some [7]) = true := by
  decide +kernel
theorem test_clock_beacon : of (exec (.clockBeacon 0 1) (message .beacon)) (fun t => t.xmsgs.isEmpty && (t.die 1).kn.getD 0 0 == 5) = true ∧
    of (exec (.clockBeacon 0 1) { up with dies := modAt up.dies 0 fun d => { d with seq := 8 } }) (fun t => t.xmsgs == [⟨0, 1, 8, [], .beacon⟩] &&
      (t.die 0).sentTo.getD 1 0 == 8) = true ∧
    of (exec (.clockBeacon 0 1) up) (fun t => t.xmsgs.isEmpty) = true := by decide +kernel
theorem test_drops_its_copy : of (exec (.dropsItsCopy 1 0x4000) { message .beacon with posted := [] }) (fun t => t.copyOf 1 0x4000 0 == none) = true := by
  decide +kernel
/-- A page table at 0x20000 whose leaf at 0x28000 maps the 4 KiB at address 0 to the frame of 0x200000 under key-ID 16. -/
def leafLo (frame kid : Nat) : Nat := 0x1F + frame * 2 ^ 12 + kid * 2 ^ 52
def tabled : State :=
  { up with
    mem := ([(0x20000, 0x22001), (0x22000, 0x24001), (0x24000, 0x26001), (0x26000, 0x28001), (0x28000, leafLo 0x200 16)] : List (Nat × Nat)).foldl
      (fun m e => memPutList m e.1 (bytesOfNat 16 e.2)) up.mem
    tlb := [⟨0, 0x20000, 0, ⟨0x200, 0, 16, 0, false, false, 0, false, true, true, true⟩⟩] }
theorem test_page_move : (match walkGo tabled 0 4 0x20000 with
      | .leaf l e => decide ((l.frame, l.kid, e) = (0x200, 16, 0x28000))
      | _ => false) = true ∧
    of (exec (.pageMove 0x20000 0x18 (leafLo 0x300 17) 0) tabled) (fun t => t.moves.map (fun m => (m.root, m.va, m.entry, m.size)) == [(0x20000, 0, 0x28000, 4096)] &&
      t.tlb.isEmpty && memGet t.mem 0x28001 == 2) = true ∧
    of (exec (.pageMove 0x20000 0x18 (leafLo 0x300 17) 1) tabled) (fun t => t.moves.isEmpty) = true := by decide +kernel
/-- The move is under way, and commits while nothing of the page is outstanding. -/
def theMove : PageMove := ⟨0x20000, 0, 0x28000, 4096, leafLo 0x200 16, BitVec.ofNat 64 (leafLo 0x300 17), 0, 0, []⟩
def moving : State := { tabled with moves := [theMove] }
theorem test_page_move_commit_hyps : moving.moveReady theMove (some 0x200000) (some 0x300000) = true ∧
    (leafOf (leafLo 0x200 16)).base = some 0x200000 ∧ (leafOf (leafLo 0x300 17)).base = some 0x300000 ∧
    { moving with posted := [access 1 (.wheel 1 0) 0x200000 [1] none] }.moveReady theMove (some 0x200000) (some 0x300000) = false := by decide +kernel
/-- A gang of the grid that waits for a place, and one that has nothing to run. -/
def gangOf (uid num order : Nat) (st : GangState) (mills : List Nat) : Gang := ⟨uid, 1, num, st, order, 0, 0, false, none, false, mills⟩
def waiting : State := { up with gangs := up.gangs ++ [gangOf 2 1 5 .unplaced []], fresh := 100 }
/-- One with no room for it: the scratchpads of the only cluster's cores are full. -/
def crowded : State := { waiting with mills := (List.range 8).map fun c => { (up.mills.headD (startMill (up.grids.headD (⟨1, 0, 0, 1, true, fetchLaunch, [], [], [], [], 0, 1, 0, false⟩)) 1 1 0 0 0 [])) with
  uid := c + 1, core := c } }
theorem test_gang_placement : (waiting.readyOrder 0).map (·.uid) = [2] ∧ of (exec (.gangPlacement 0) waiting) (fun t =>
      t.mills.map (fun m => (m.uid, m.gang, m.core)) == [(1, 1, 0), (100, 2, 1)] && t.gangs.map (·.st) == [.resident, .resident]) = true ∧
    of (exec (.gangPlacement 0) crowded) (fun t => t.gangs.map (·.st) == [.resident, .unplaced]) = true := by decide +kernel
theorem test_pause_expiry : of (exec (.pauseExpiry (.wheel 1 0)) (onWheel (fun w => { w with paused := 9 }) up)) (fun t =>
    t.mills.all fun m => m.wheels.all (·.paused == 0)) = true := by decide +kernel
/-- A snapshot is being latched: what triggers one joins it (R404). -/
def latching (s : State) : State := { s with snapDue := [(0, 1, 9)] }
/-- Every thread has ended. -/
def ended : State := eachThread (fun t => { t with exited := true }) up
theorem test_mill_finish : of (exec (.millFinish 1) ended) (fun t => t.mills.all (·.st == .draining)) = true ∧
    of (exec (.millFinish 1) up) (fun t => t.mills.all (·.st == .running)) = true ∧
    of (exec (.millFinish 1) (latching (onMill (fun m => { m with flume := { m.flume with halt := some (3, 0) } }) ended))) (fun t =>
      t.mills.all (·.aborted)) = true := by decide +kernel
theorem test_mill_free : of (exec (.millFree 1) (onMill (fun m => { m with st := .draining }) ended)) (fun t => t.mills.isEmpty && t.gangs.isEmpty) = true ∧
    of (exec (.millFree 1) ended) (fun t => t.mills.length == 1) = true := by decide +kernel
/-- The slice is over. -/
def spent (s : State) : State := onMill (fun m => { m with bud := 0 }) s
theorem test_slice_end : of (exec (.sliceEnd 1) (spent waiting)) (fun t => t.gangs.map (·.save) == [some ⟨0x20, 0, false⟩, none]) = true ∧
    of (exec (.sliceEnd 1) (spent up)) (fun t => t.mills.all (·.bud == 800000)) = true ∧
    of (exec (.sliceEnd 1) up) (fun t => t.gangs.all (·.save == none)) = true := by decide +kernel
/-- The gang is asked to save, under class 0x21; and has frozen. -/
def saving (s : State) : State := { s with gangs := s.gangs.map fun g => { g with save := some ⟨0x21, 1, false⟩ } }
def frozen (s : State) : State := { s with gangs := s.gangs.map fun g => { g with save := some ⟨0x21, 1, true⟩ } }
theorem test_preempt_request : of (exec (.preemptRequest 1 1) up) (fun t => t.gangs.all (·.save == some ⟨0x21, 1, false⟩) && t.board.vacated.isEmpty) = true ∧
    of (exec (.preemptRequest 1 0) up) (fun t => t.board.vacated == [0]) = true ∧
    of (exec (.preemptRequest 1 2) up) (fun t => t.gangs.all (·.save == none)) = true := by decide +kernel
/-- Threads at a header, asked to save, with a vector entry of class 0x21. -/
def savable : State := saving (eachThread (fun t => { t with clause := none, sys := { t.sys with tvec := 0x2000 } })
  { up with mem := memPutList memory.mem 0x2210 (bytesOfNat 16 (0x200 + 2 ^ 64)) })
theorem test_save_vector_entry : canEnter savable (.wheel 1 0) 0 0x21 0x200 = true ∧ of (exec (.saveVectorEntry (.wheel 1 0) 0) savable) (fun t =>
      (t.thread (.wheel 1 0) 0).pc == 0x200 && (t.thread (.wheel 1 0) 0).saveDepth == some 1 && (t.thread (.wheel 1 0) 1).saveDepth == none) = true ∧
    of (exec (.saveVectorEntry (.wheel 1 0) 0) (saving up)) (fun t => (t.thread (.wheel 1 0) 0).saveDepth == none) = true := by decide +kernel
/-- Every thread has executed `savedone`. -/
def saved : State := eachThread (fun t => { t with saveDepth := some 1, saveDone := true }) savable
theorem test_save_freeze : of (exec (.saveFreeze 1) saved) (fun t => t.gangs.all (·.save == some ⟨0x21, 1, true⟩)) = true ∧
    of (exec (.saveFreeze 1) savable) (fun t => t.gangs.all (·.save == some ⟨0x21, 1, false⟩)) = true := by decide +kernel
theorem test_save_close : of (exec (.saveClose 1) (frozen saved)) (fun t => t.mills.all (·.closed)) = true ∧
    of (exec (.saveClose 1) { frozen saved with posted := [access 1 (.wheel 2 0) (padKey 1 0) [1] none] }) (fun t => t.mills.all (!·.closed)) = true := by
  decide +kernel
def closed : State :=
  let s := onMill (fun m => { m with closed := true }) (frozen saved)
  { s with parts := s.parts.map fun p => { p with saveBase := 0x40000, saveSize := 0x200000 } }
theorem test_save_image : of (exec (.saveImage 1) closed) (fun t => t.mills.all (·.st == .evicted) && t.gangs.all (fun g => g.st == .evicted && g.save == none)) =
    true := by decide +kernel
theorem test_save_timeout : of (exec (.saveTimeout 1 0) { latching (onWheel (fun w => { w with saveFrom := some 1 }) savable) with clk := 262145 }) (fun t =>
      t.mills.all (·.aborted)) = true ∧
    of (exec (.saveTimeout 1 0) { latching (onWheel (fun w => { w with saveFrom := some 1 }) savable) with clk := 262144 }) (fun t => t.mills.all (!·.aborted)) = true := by
  decide +kernel
/-- A gang placed again, whose threads saved at depth 1, with a vector entry of class 0x22. -/
def restores : State :=
  let s := eachThread (fun t => { t with clause := none, depth := 1, saveDepth := some 1, saveDone := true, sys := { t.sys with tvec := 0x2000 } })
    { up with mem := memPutList memory.mem 0x2220 (bytesOfNat 16 (0x200 + 2 ^ 64)) }
  { s with gangs := s.gangs.map fun g => { g with restoring := true } }
theorem test_restore : of (exec (.restore 1) restores) (fun t => t.gangs.all (!·.restoring) && (t.thread (.wheel 1 0) 0).pc == 0x200 &&
      (t.thread (.wheel 1 0) 0).winPending && (t.thread (.wheel 1 0) 0).restAt == some 1) = true ∧
    of (exec (.restore 1) up) (fun t => (t.thread (.wheel 1 0) 0).restAt == none) = true := by decide +kernel

theorem test_breakpoint_claim : of (exec (.breakpointClaim 1 (.breakpoints true)) up) (fun t => t.mills.all (·.claimed)) = true ∧
    of (exec (.breakpointClaim 1 (.address true 0x100)) up) (fun t => t.watch == [(1, 0x100)]) = true ∧
    of (exec (.breakpointClaim 1 (.address false 0x100)) { up with watch := [(1, 0x100)] }) (fun t => t.watch.isEmpty) = true := by decide +kernel
theorem test_debug_halt : of (exec (.debugHalt (.wheel 1 0) 0) (latching atHeader)) (fun t => (t.thread (.wheel 1 0) 0).halted && (t.thread (.wheel 1 0) 1).halted) = true ∧
    of (exec (.debugHalt (.wheel 1 0) 0) (latching up)) (fun t => (t.thread (.wheel 1 0) 1).haltDue && !(t.thread (.wheel 1 0) 1).halted) = true := by decide +kernel
theorem test_debug_freeze : of (exec (.debugFreeze 1) up) (fun t => t.mills.all (·.frozen) && (t.thread (.wheel 1 0) 0).haltDue) = true := by decide +kernel
/-- A frozen mill whose threads have halted. -/
def stopped : State := onMill (fun m => { m with frozen := true }) (eachThread (fun t => { t with halted := true }) (withRegs [(4, 77)] up))
theorem test_debug_resume : of (exec (.debugResume (.wheel 1 0) 0) stopped) (fun t => !(t.thread (.wheel 1 0) 0).halted &&
    (t.thread (.wheel 1 0) 0).resumed == some 0x100008 && t.mills.all (!·.frozen)) = true := by decide +kernel
theorem test_debug_read : of (exec (.debugRead 1) stopped) (fun t => t.debugOut.contains 0x100008 && t.debugOut.contains 77) = true ∧
    of (exec (.debugRead 1) up) (fun t => t.debugOut.isEmpty) = true := by decide +kernel
/-- Pattern 2 waits on ports 0 and 3, which hold messages, and handler wheel 1 is free. -/
def fires : State :=
  let s := onMill (fun m => { m with
    wheels := m.wheels ++ m.wheels.map fun w => { w with handler := true, threads := [] }
    pats := modAt m.pats 2 fun p => { p with entry := 2 ^ 40 + 0b1001 + 0x500 * 2 ^ 64 }
    ports := modAt (modAt m.ports 0 fun q => { q with fifo := [⟨0x100000002, []⟩, ⟨9, []⟩] }) 3 fun q => { q with fifo := [⟨7, [(4, .mill)]⟩] } }) up
  { s with grids := s.grids.map fun g => { g with lr := { g.lr with hres := 1 } } }
theorem test_pattern_fire : of (exec (.patternFire 1) fires) (fun t => t.mills.all fun m =>
      (m.wheels[1]?).map (·.inst) == some (some ⟨2, [(4, .mill)], false⟩) && (m.pats.getD 2 ⟨0, 0, 0⟩).live == 1 &&
      (m.ports.getD 0 Port.default).fifo == [⟨9, []⟩] && (List.range 4).map (t.thread (.wheel 1 1) 31).getV == [2, 1, 7, 0]) = true ∧
    of (exec (.patternFire 1) up) (fun t => t.mills.all fun m => m.wheels.length == 1) = true := by decide +kernel
/-- A handler wheel with an instance of pattern 2, whose threads have ended, and one claim. -/
def instance2 (stamps : List (Nat × Scope)) : State :=
  onMill (fun m => { m with
    wheels := m.wheels ++ m.wheels.map fun w => { w with handler := true, inst := some ⟨2, stamps, false⟩, threads := w.threads.map fun t => { t with exited := true } }
    pats := modAt m.pats 2 fun p => { p with live := 1 }, claims := [(5, 2)] }) up
theorem test_handler_wheel_start : of (exec (.handlerWheelStart 1 1) (instance2 [(1, .mill)])) (fun t => (t.wheel? (.wheel 1 1)).map (·.inst) ==
      some (some ⟨2, [], true⟩)) = true ∧
    of (exec (.handlerWheelStart 1 1) { instance2 [(1, .mill)] with posted := [access 1 (.wheel 1 0) 0x200000 [1] none] }) (fun t =>
      (t.wheel? (.wheel 1 1)).map (·.inst) == some (some ⟨2, [(1, .mill)], false⟩)) = true := by decide +kernel
theorem test_handler_retire : of (exec (.handlerRetire 1 1) (instance2 [])) (fun t => (t.wheel? (.wheel 1 1)).map (·.inst) == some none &&
    t.mills.all fun m => (m.pats.getD 2 ⟨0, 0, 0⟩).live == 0 && m.claims.isEmpty) = true := by decide +kernel

/-- A schedule of one entry: two rows of two words from 0x200 into the scratchpad, three repeats, one stage apart, each with a notice
to port 3. -/
def copyEntry : FlEntry := ⟨0, 2, 0x83, 0, 3, 1, 1, 0x200, 0xF000000000000040, 2, 2, 16, 8, 0, 16, 0⟩
def flumed (f : Flume) : State :=
  let s := onMill (fun m => { m with flume := f }) up
  { s with mem := memPutList s.mem 0x200 [1, 2, 3, 4, 5, 6, 7, 8], grids := s.grids.map fun g => { g with sched := [copyEntry] } }
theorem test_flume_issue : of (exec (.flumeIssue 1) (flumed { Flume.start with stage := 1 })) (fun t => t.mills.all fun m =>
      m.flume.next == 2 && m.flume.ops == [⟨1, 0, 0, [], false, false, [], [], []⟩]) = true ∧
    of (exec (.flumeIssue 1) (flumed { Flume.start with stage := 1, next := 2 })) (fun t => t.mills.all fun m => m.flume.next == 2) = true := by decide +kernel
def underWay (done : List Nat) (noticed : Bool) : State := flumed { Flume.start with stage := 1, next := 2, ops := [⟨1, 0, 0, done, noticed, false, [], [], []⟩] }
theorem test_flume_element : of (exec (.flumeElement 1 1 1) (underWay [0] false)) (fun t => t.mills.all (fun m => m.flume.ops.all fun o => o.done == [0, 1]) &&
      t.posted.map (fun p => (p.key, p.bytes)) == [(padKey 1 0x44, [5, 6, 7, 8])]) = true ∧
    of (exec (.flumeElement 1 1 4) (underWay [0] false)) (fun t => t.posted.isEmpty) = true := by decide +kernel
theorem test_flume_notice : of (exec (.flumeNotice 1) (underWay [0, 1, 2, 3] false)) (fun t => t.mills.all fun m => m.flume.ops.all (·.noticed) &&
      (m.ports.getD 3 Port.default).fifo.map (·.val) == [0x7000000000000000]) = true ∧
    of (exec (.flumeNotice 1) (underWay [0, 1, 2] false)) (fun t => t.mills.all fun m => m.flume.ops.all (!·.noticed)) = true := by decide +kernel
theorem test_flume_op_complete : of (exec (.flumeOpComplete 1 1) (underWay [0, 1, 2, 3] true)) (fun t => t.mills.all fun m => m.flume.ops.isEmpty &&
      m.flume.timeline == 1) = true ∧
    of (exec (.flumeOpComplete 1 1) (underWay [0, 1, 2, 3] false)) (fun t => t.mills.all fun m => m.flume.timeline == 0) = true := by decide +kernel
/-- The walk of `walkIs` with its operand slots in one state. -/
def walkAt (st : WalkState) (y : AccState) (x : SlotState) (next : Nat) (busy : Bool) (input : List DWord) : State :=
  onMill (fun m => { m with acc := 64, ctxs := [{ WalkCtx.start with posted := 1, tiles := 1, input := input.map fun v => ⟨v, []⟩, walks :=
    [{ walkIs st y with aslots := [⟨x, 0, 0⟩], bslots := [⟨x, 0, 0⟩], next := next, busy := busy }] }, WalkCtx.start] }) up
def walkState (t : State) : Option (WalkState × List SlotState × List AccState) :=
  (t.mill? 1).bind fun m => ((m.ctx 0).walks.head?).map fun w => (w.st, w.aslots.map (·.st), w.cslots.map (·.st))
theorem test_walk_start : (walkAt .queued .free .free 0 false []).oldest 0 0 = some (1, ((walkAt .queued .free .free 0 false []).mills.flatMap fun m =>
      (m.ctx 0).walks).headD (walkIs .queued .free)) ∧
    of (exec (.walkStart 1 0) (walkAt .queued .free .free 0 false [])) (fun t => walkState t == some (.running, [.needed], [.free])) = true := by decide +kernel
theorem test_kstep_begin : of (exec (.kstepBegin 1 0) (walkAt .running .free .ready 0 false [])) (fun t => walkState t ==
      some (.running, [.inuse], [.accumulating]) && t.mills.all fun m => (m.ctx 0).walks.all fun w => w.busy && w.next == 1) = true ∧
    of (exec (.kstepBegin 1 0) (walkAt .running .free .needed 0 false [])) (fun t => walkState t == some (.running, [.needed], [.free])) = true := by
  decide +kernel
-- the end of the k-step: its operands are in use, and both slots hold them
theorem test_kstep_end_hyps : ((walkAt .running .accumulating .inuse 1 true []).mill? 1).bind (fun m => (m.liveWalk 0).map fun w =>
    (w.busy, w.tile? 0, slotOf w.aslots 0 0, slotOf w.bslots 0 0)) = some (true, some (0, 0), some 0, some 0) := by decide +kernel
theorem test_ready : of (exec (.ready 1 0) (walkAt .running .free .needed 0 false [0x4000000000000001])) (fun t => walkState t ==
      some (.running, [.ready], [.free])) = true ∧
    of (exec (.ready 1 0) (walkAt .running .free .ready 0 false [0x4000000000000001])) (fun t => t.mills.all fun m => (m.ctx 0).halted) = true := by
  decide +kernel
theorem test_accfree : of (exec (.accfree 1 0) (walkAt .running .done .free 1 false [0x5000000000000001])) (fun t =>
      t.mills.all fun m => (m.ctx 0).timeline == 1) = true ∧
    of (exec (.accfree 1 0) (walkAt .running .full .free 1 false [0x5000000000000001])) (fun t => t.mills.all fun m => (m.ctx 0).halted) = true := by
  decide +kernel
/-- A machine of `up` whose thread has a load in flight that writes `r5`, its one access performed or not. -/
def loading (part : Option (List Byte)) : State :=
  eachThread (fun t => { t with long := [⟨7, none, [(.pos 5, 0)], [.pos 5], 0, none, 0, [(40, part)], none⟩] }) { up with fresh := 100 }
theorem test_long_latency_complete :
    of (exec (.longLatencyComplete (.wheel 1 0) 0 7) (loading (some [9, 1, 0, 0]))) (fun t => (t.thread (.wheel 1 0) 0).getV 5 == 0x109 &&
      (t.thread (.wheel 1 0) 0).long.isEmpty && (t.thread (.wheel 1 0) 1).getV 5 == 0) = true ∧
    of (exec (.longLatencyComplete (.wheel 1 0) 0 7) { loading none with posted := [{ access 40 (.wheel 1 0) 0x300 [] none with rd := 4, tag := some 9 }] }) (fun t =>
      (t.thread (.wheel 1 0) 0).long.length == 1) = true := by decide +kernel
/-- An access in flight to the word at 0x300, which reads 7. -/
def flying (p : Posted) : State := { loading none with mem := memPutList memory.mem 0x300 [7], posted := [p] }
def at300 (o : Out) (n : Nat) : Bool := of o fun t => memGetList t.mem 0x300 4 == bytesOfNat 4 n
theorem test_access_perform :
    of (exec (.accessPerform 40 .mill) (flying { access 40 (.wheel 1 0) 0x300 [] none with rd := 4 })) (fun t => t.posted.isEmpty &&
      (t.thread (.wheel 1 0) 0).long.map (·.parts) == [[(40, some [7, 0, 0, 0])]]) = true ∧
    at300 (exec (.accessPerform 40 .die) (flying (access 40 (.wheel 1 0) 0x300 [1, 2, 0, 0] none))) 0x201 = true ∧
    at300 (exec (.accessPerform 40 .die) (flying (access 40 (.wheel 1 0) 0x300 [0, 0, 0, 0] (some ⟨0, 32, 5, 0⟩)))) 12 = true ∧
    at300 (exec (.accessPerform 40 .die) (flying (access 40 (.wheel 1 0) 0x300 [0, 0, 0, 0] (some ⟨11, 32, 5, 8⟩)))) 7 = true ∧
    at300 (exec (.accessPerform 40 .die) (flying (access 40 (.wheel 1 0) 0x300 [0, 0, 0, 0] (some ⟨11, 32, 5, 7⟩)))) 5 = true := by decide +kernel
theorem test_access_poisoned :
    of (exec (.accessPerform 40 .die) { flying (access 40 (.wheel 1 0) 0x300 [0, 0, 0, 0] (some ⟨0, 32, 5, 0⟩)) with poison := [unitOf 0x300] }) (fun t =>
      t.posted.map (·.bad) == [some 0] && memGet t.mem 0x300 == 7) = true := by decide +kernel
/-- A fence of wheel 0 in slot 0 that records access 40. -/
def fencing (p : Posted) (sc : Scope) : State :=
  let s := flying p
  s.setFences (.wheel 1 0) { s.fences (.wheel 1 0) with slots := [some ⟨1, sc, false, [40], [], false⟩, none, none, none] }
theorem test_fence_slot_complete :
    of (exec (.fenceSlotComplete (.wheel 1 0) 0) (fencing { access 40 (.wheel 1 0) 0x300 [1] none with reach := some .mill } .mill)) (fun t =>
      (t.fences (.wheel 1 0)).slots == [none, none, none, none]) = true ∧
    of (exec (.fenceSlotComplete (.wheel 1 0) 0) (fencing { access 40 (.wheel 1 0) 0x300 [1] none with reach := some .mill } .gang)) (fun t =>
      (t.fences (.wheel 1 0)).slots.headD none == some ⟨1, .gang, false, [40], [], false⟩) = true := by decide +kernel
theorem test_posted_fault :
    of (exec (.postedFaultArrival 40 0) (flying { access 40 (.wheel 1 0) 0x300 [1] none with bad := some 0, va := 0x1300 })) (fun t =>
      t.posted.isEmpty && (t.thread (.wheel 1 0) 0).posted.map (fun q => (q.fr.cls, q.fr.sub, q.fr.va)) == [(0x18, 0, 0x1300)]) = true ∧
    of (exec (.postedFaultArrival 40 1) (flying { access 40 (.wheel 1 0) 0x300 [1] none with bad := some 0 })) (fun t => t.posted.length == 1) = true ∧
    of (exec (.postedFaultArrival 40 0) (onMill (fun m => { m with st := .freed }) (flying { access 40 (.wheel 1 0) 0x300 [1] none with bad := some 0 })))
      (fun t => t.posted.isEmpty && (t.thread (.wheel 1 0) 0).posted.isEmpty) = true := by decide +kernel
theorem test_fault_resolution : let s := { up with reqs := [⟨3, 0x10000, 5, some 1, [(.wheel 1 0, 1, FaultRec.zero)]⟩] }
    of (exec (.faultResolution 3 true) s) (fun t => t.reqs.isEmpty && (t.thread (.wheel 1 0) 1).refused.isEmpty) = true ∧
    of (exec (.faultResolution 3 false) s) (fun t => t.reqs.isEmpty && (t.thread (.wheel 1 0) 1).refused == [5] &&
      (t.thread (.wheel 1 0) 0).refused.isEmpty) = true := by decide +kernel
/-- The machine of `queued` with two sessions. -/
def trusted (st : Tdisp) : State :=
  let s := queued queue0
  { s with parts := s.parts.map fun e => { e with tdisp := st }
           trust := { s.trust with sessions := [(1, 5), (2, 6)], measure := List.replicate 10 0, attLive := true, identity := 3 } }
def codes (o : Out) (n : Nat) : Bool := of o fun t => t.trust.out.map (·.code) == [n]
theorem test_spdm : let s := trusted .run
    codes (exec (.getVersion []) s) 0x04 = true ∧ codes (exec (.getCapabilities []) s) 0x61 = true ∧ codes (exec (.negotiateAlgorithms []) s) 0x63 = true ∧
    codes (exec (.getDigests []) s) 0x01 = true ∧ codes (exec (.getCertificate []) s) 0x02 = true ∧ codes (exec (.challenge []) s) 0x03 = true ∧
    codes (exec (.getMeasurements []) s) 0x60 = true ∧ codes (exec (.finish []) s) 0x65 = true ∧ codes (exec (.vendorDefinedRequest 0) s) 0x7E = true ∧
    codes (exec (.unsupportedRequest 3) s) 0x7F = true := by decide +kernel
theorem test_signature_used : of (exec (.challenge []) (trusted .run)) (fun t => t.trust.attIndex == (trusted .run).trust.attIndex + 1) = true ∧
    codes (exec (.challenge []) { bare with trust := { bare.trust with attLive := false, identity := 3 } }) 0x7F = true := by decide +kernel
theorem test_sessions : let s := trusted .run
    of (exec (.keyExchange []) s) (fun t => t.trust.sessions.map (·.1) == [1, 2, s.fresh] && t.fresh == s.fresh + 1) = true ∧
    of (exec (.keyUpdate []) s) (fun t => t.trust.sessions.map (·.1) == [1, 2] && t.fresh == s.fresh + 1) = true ∧
    of (exec (.keyUpdate []) bare) (fun t => t.trust.sessions.isEmpty && t.trust.out.map (·.code) == [0x69]) = true ∧
    of (exec (.endSession []) s) (fun t => t.trust.sessions == [(1, 5)]) = true ∧ s.trust.sessions = [(1, 5)] ++ [(2, 6)] := by decide +kernel
theorem test_lock_interface :
    of (exec (.lockInterfaceRequest 0) (trusted .unlocked)) (fun t => (t.part 0).tdisp == .locked && (t.part 1).tdisp == .unlocked &&
      t.trust.out.map (·.code) == [3] && t.trust.measure.length == 10) = true ∧
    of (exec (.lockInterfaceRequest 0) (trusted .locked)) (fun t => (t.part 0).tdisp == .locked && t.trust.out == [⟨0x7F, [0x83]⟩]) = true ∧
    of (exec (.lockInterfaceRequest 0) { trusted .unlocked with trust := bare.trust }) (fun t => t.trust.out == [⟨0x7F, [0x83]⟩]) = true := by
  decide +kernel
theorem test_interface_report : codes (exec (.getDeviceInterfaceReport 0) (trusted .locked)) 0x04 = true ∧
    codes (exec (.getDeviceInterfaceReport 0) (trusted .error)) 0x7F = true ∧
    of (exec (.getDeviceInterfaceState 0) (trusted .run)) (fun t => t.trust.out == [⟨0x05, [2]⟩]) = true ∧
    codes (exec (.getDeviceInterfaceState 0) bare) 0x7F = true := by decide +kernel
theorem test_start_stop_interface :
    of (exec (.startInterfaceRequest 0) (trusted .locked)) (fun t => (t.part 0).tdisp == .run && t.trust.out == [⟨0x06, []⟩]) = true ∧
    codes (exec (.startInterfaceRequest 0) (trusted .run)) 0x7F = true ∧
    of (exec (.stopInterfaceRequest 0) (trusted .error)) (fun t => (t.part 0).tdisp == .unlocked && t.trust.out == [⟨0x07, []⟩]) = true ∧
    codes (exec (.stopInterfaceRequest 0) (trusted .unlocked)) 0x7F = true := by decide +kernel
theorem test_function_level_reset : of (exec (.functionLevelReset 0) (trusted .run)) (fun t => (t.part 0).tdisp == .unlocked &&
      (t.part 1).tdisp == .run) = true ∧
    of (exec (.functionLevelReset 0) (withEntry { entry with tdisp := .run })) (fun t => (t.part 0).tdisp == .run) = true := by decide +kernel
theorem test_ide_keying : State.reset.board.power = true ∧ Config.nParts = 8 ∧
    of (exec (.ideStreamKeying 0 false) bare) (fun t => t.trust.idePf && t.trust.ideVf.isEmpty) = true ∧
    of (exec (.ideStreamKeying 8 false) bare) (fun t => !t.trust.idePf && t.trust.ideVf == [7]) = true ∧
    of (exec (.ideStreamKeying 9 false) bare) (fun t => t.trust.ideVf.isEmpty) = true ∧
    of (exec (.ideStreamKeying 1 true) bare) (fun t => t.trust.ideVf.isEmpty) = true := by decide +kernel

/-! ### Two outcomes that a rule allows: by default the one, by choice the other -/

/-- Two wheels in the mill, and the choice that wheel 1 sees s4 late (R163). -/
def twoWheels : State := { onMill (fun m => { m with wheels := m.wheels ++ m.wheels }) idle with picks := [(16 * (32 * 4 + 1) + 4, 1)] }
theorem test_uniform_seen_late : let t := (twoWheels.uniPut (.wheel 1 0) 0 4 1).uniPut (.wheel 1 0) 0 5 1
    t.uniGet (.wheel 1 0) 0 4 = 1 ∧ t.uniGet (.wheel 1 1) 0 5 = 1 ∧ t.uniGet (.wheel 1 1) 0 4 = 0 ∧
    (t.pass 15).uniGet (.wheel 1 1) 0 4 = 0 ∧ (t.pass 16).uniGet (.wheel 1 1) 0 4 = 1 := by decide +kernel
/-- A store to the word at 0x300 has performed, which fetch read as 7 before (R258). -/
def patched : State := match exec (.accessPerform 40 .die) (flying (access 40 (.wheel 1 0) 0x300 [9, 0, 0, 0] none)) with
  | .next t => { t with picks := [(16 * 0x300, 1)] }
  | _ => idle
theorem test_fetch_may_see_the_old_word : let p := plainPiece 0x300 4
    { patched with picks := [] }.fetchPiece (.wheel 1 0) 0 p = [9, 0, 0, 0] ∧ patched.fetchPiece (.wheel 1 0) 0 p = [7, 0, 0, 0] ∧
    let t := { patched with code := patched.code ++ [CodeEvt.cinv 0 [0x300 / 128]] }
    t.fetchPiece (.wheel 1 0) 0 p = [7, 0, 0, 0] ∧
    (t.goTo (.wheel 1 0) 0 0x300).fetchPiece (.wheel 1 0) 0 p = [9, 0, 0, 0] := by decide +kernel
theorem test_cinv_renews : let s := withRegs [(6, 0x300), (16, 4)] patched
    of (exec (.cinv (fields 8 6 16 12 0 0)) s) (fun t => t.code.drop s.code.length == [CodeEvt.cinv 0 [6], .cinv 0 [6]]) = true := by decide +kernel
theorem test_translation_old_or_new : let s := { idle with tlb := [⟨0, 0x10000, 0, ⟨0x100000, 4, 16, 0, false, false, 0, false, true, true, true⟩⟩] }
    let sp : AddrSpace := ⟨0x10000, none, none, false, some 0⟩
    s.translate sp .load 0x300 = .ok ⟨0x100000, 4, 16, 0, false, false, 0, false, true, true, true⟩ 0x100000300 ∧
    { s with picks := [(16 * 0x300 + 1, 2)] }.translate sp .load 0x300 =
      .ok ⟨0, 4, 16, 0, false, false, 0, false, true, true, true⟩ 0x300 := by decide +kernel
theorem test_neighbour_old_or_new : let s := eachThread (fun t => { t with long := [⟨7, none, [(.pos 4, 9)], [.pos 4], 0, none, 0, [], none⟩] }) idle
    s.readReg (.wheel 1 0) { fields 8 4 16 12 0 0 with an := 2 } 0 4 2 0 = 0 ∧
    { s with picks := [(16 * (2 ^ 16 + 4) + 2, 1)] }.readReg (.wheel 1 0) { fields 8 4 16 12 0 0 with an := 2 } 0 4 2 0 = 9 := by decide +kernel
theorem test_pick : of (step { idle with agenda := [.pick [(3, 1)]] }) (fun t => t.agenda.isEmpty && t.picks == [(3, 1)]) = true := by decide +kernel
/-- Two lanes whose `portst.clr` on port 1 is in flight, while the port has dropped 5 messages (R279). -/
def clearing : State := eachThread (fun t => { t with long := [⟨7, none, [(.pos 4, 0), (.pos 5, 0)], [.pos 4, .pos 5], 0, none, 0, [], some (.port 1 (some 7))⟩] })
  (onMill (fun m => { m with ports := modAt m.ports 1 fun p => { p with drops := 5, sticky := true } }) idle)
theorem test_portst_clears_in_lane_order : of (exec (.longLatencyComplete (.wheel 1 0) 1 7) clearing) (fun t =>
    (t.thread (.wheel 1 0) 1).getV 5 == 0 && (t.thread (.wheel 1 0) 0).long.map (·.writes) == [[(.pos 4, 0x8E0), (.pos 5, 5)]] &&
    (t.thread (.wheel 1 0) 1).long.isEmpty) = true := by decide +kernel
/-- Lanes whose `tlrd` is in flight, while the flume's counter is 2^32 + 6 (R297). -/
def timing : State := eachThread (fun t => { t with long := [⟨7, none, [(.pos 4, 0), (.pos 5, 0)], [.pos 4, .pos 5], 0, none, 0, [], some (.counter 0)⟩] })
  (onMill (fun m => { m with flume := { m.flume with timeline := 2 ^ 32 + 6 } }) idle)
theorem test_counter_read_at_completion : of (exec (.longLatencyComplete (.wheel 1 0) 1 7) timing) (fun t =>
    (t.thread (.wheel 1 0) 1).getV 4 == 6 && (t.thread (.wheel 1 0) 1).getV 5 == 1 &&
    (t.thread (.wheel 1 0) 1).long.isEmpty && (t.thread (.wheel 1 0) 0).long.length == 1) = true := by decide +kernel
/-! ### More clauses: states that meet their hypotheses, with what the spec gives -/

theorem test_store_is_posted : let s := withRegs [(4, 0x200), (8, 0xAABBCCDD)] memory
    (s.pieces s.cur 0 .store .glob 0x200 2).toBool = true ∧ of (exec (.st (fields 8 4 63 12 1 0)) s) (fun t =>
      t.posted.map (fun p => (p.key, p.bytes, p.lane)) == [(0x200, [0xDD, 0xCC], 0), (0x200, [0xDD, 0xCC], 1)]) = true := by decide +kernel
/-- An `.sc` fence is held, and one more that records nothing comes; and a wheel whose other part waits at a fence. -/
def behindSc : State := onWheel (fun w => { w with fences := ⟨[some ⟨5, .mill, true, [1], [], false⟩, none, none, none], 9, none⟩ }) idle
theorem test_fence_waits_behind_sc : goes behindSc 0xB0 (fields 8 4 16 12 9 0) { d := .word, bImm := true } = true ∧
    (behindSc.ready.fences behindSc.cur).olderSc 9 = true ∧
    of (exec (.fence (fields 8 4 16 12 9 0)) behindSc) (fun t => (t.fences (.wheel 1 0)).stall == some (.wheel 1 0)) = true := by decide +kernel
theorem test_stalled_wheel : let s := onWheel (fun w => { w with fences := { w.fences with stall := some (.buf 1 0) } }) idle
    s.mayIssue (.wheel 1 0) = false ∧ idle.mayIssue (.wheel 1 0) = true := by decide +kernel
theorem test_wpost_keeps_its_record : of (exec (.wpost (fields 8 4 63 12 0 0)) queued8) (fun t =>
    (t.wheel? (.wheel 1 0)).bind (·.posting) == some (0x100008, walkRecOf walkBytes)) = true := by decide +kernel
theorem test_wcancel_ends : of (exec (.wcancel (fields 0 0 0 0 0 0)) (walking .running .free)) (fun t =>
    t.mills.all fun m => (m.ctx 0).walks.all (·.st == .ended)) = true ∧
    (walking .running .free).mills.all (fun m => (m.ctx 0).walks.all fun w => w.again == none && m.liveWalk 0 == some w) = true := by decide +kernel
theorem test_key_indices_end : codes (exec (.challenge []) { trusted .run with trust := { (trusted .run).trust with identity := 2 ^ 20 } }) 0x7F = true ∧
    of (exec (.challenge []) { trusted .run with trust := { (trusted .run).trust with attIndex := 65536 } }) (fun t =>
      t.trust.attIndex == 1 && t.trust.identity == 4 && t.trust.attCert == 4) = true := by decide +kernel
theorem test_store_seen_in_its_mill : of (exec (.accessPerform 40 .mill) (flying (access 40 (.wheel 1 0) 0x300 [1, 2, 0, 0] none))) (fun t =>
    t.posted.map (fun p => (p.reach, p.place)) == [(some .mill, some 1)] && memGet t.mem 0x300 == 7) = true := by decide +kernel
/-- Another wheel's store that has performed in the mill, and a load that reads it, with a fence and an instance that have recorded the load. -/
def learning : State :=
  let s := { flying { access 40 (.wheel 1 0) 0x300 [] none with rd := 4, set := .ld } with
    posted := [{ access 39 (.wheel 1 1) 0x300 [9, 0, 0, 0] none with reach := some .mill, place := some 1 },
               { access 40 (.wheel 1 0) 0x300 [] none with rd := 4, set := .ld }] }
  onWheel (fun w => { w with fences := { w.fences with slots := [some ⟨1, .die, false, [40], [], false⟩, none, none, none] }, inst := some ⟨0, [(40, .mill)], false⟩ }) s
theorem test_load_learns_what_it_reads : of (exec (.accessPerform 40 .mill) learning) (fun t =>
    (t.thread (.wheel 1 0) 0).long.map (·.parts) == [[(40, some [9, 0, 0, 0])]] && t.posted.map (·.readers) == [[(.wheel 1 0, 0, some .ld)]] &&
    (t.fences (.wheel 1 0)).slots.headD none == some ⟨1, .die, false, [40, 39], [], false⟩ &&
    (t.wheel? (.wheel 1 0)).map (·.inst) == some (some ⟨0, [(40, .mill), (39, .mill)], false⟩)) = true := by decide +kernel
theorem test_failed_load_leaves_its_fault : let s := { loading (some [0, 0, 0, 0]) with posted := [{ access 40 (.wheel 1 0) 0x300 [] none with rd := 4, bad := some 0 }] }
    of (exec (.longLatencyComplete (.wheel 1 0) 0 7) s) (fun t => t.posted.isEmpty && (t.thread (.wheel 1 0) 0).getV 5 == 0 &&
      (t.thread (.wheel 1 0) 0).posted.map (fun q => (q.fr.cls, q.fr.sub)) == [(0x18, 0)]) = true := by decide +kernel
theorem test_resolution_is_logged : let s := { up with reqs := [⟨3, 0x10000, 5, some 1, [(.wheel 1 0, 1, FaultRec.zero)]⟩] }
    of (exec (.faultResolution 3 true) s) (fun t => t.feLog.map (·.flags) == [2]) = true := by decide +kernel
theorem test_draining_mill_replays :
    let s := onMill (fun m => { m with st := .draining }) (flying { access 40 (.wheel 1 0) 0x300 [1] none with bad := some 0 })
    of (exec (.postedFaultArrival 40 0) { s with picks := [(16 * 40 + 8, 1)] }) (fun t => t.posted.map (·.bad) == [none]) = true ∧
    of (exec (.postedFaultArrival 40 0) (latching s)) (fun t => t.posted.isEmpty && t.mills.all (·.aborted)) = true := by decide +kernel
/-- An operation of an entry by index, expand, or in elements of 16 bytes; word 5 and mask 0b101 at 0x80 of the scratchpad. -/
def indexed (v : Byte) : State := { flumed Flume.start with mem := memPutList memory.mem (padKey 1 0x80) [v] }
def op1 (mask : List (Bool × Bool)) : FlOp := ⟨1, 0, 0, [], false, false, [], mask, []⟩
theorem test_flume_row_and_mask :
    (match (indexed 5).readFor 1 [] { copyEntry with kind := 1, aux := 0x80 } (op1 []) 1 with
      | .ok o => o.rows == [(0, 5, false)] && (o.place { copyEntry with kind := 1, aux := 0x80 } 1).src == some (0x200 + 5 * 16 + 4)
      | .error _ => false) = true ∧
    (match (indexed 0b101).readFor 1 [] { copyEntry with kind := 3, aux := 0x80 } (op1 [(true, false), (false, false)]) 2 with
      | .ok o => o.mask.getD 2 (false, false) == (true, false) && (o.place { copyEntry with kind := 3, aux := 0x80 } 2).src == some (0x200 + 4) &&
          (o.place { copyEntry with kind := 3, aux := 0x80 } 1).src == none
      | .error _ => false) = true := by decide +kernel
theorem test_flume_halves : of (exec (.flumeElement 1 1 0) { underWay [] false with
      grids := up.grids.map fun g => { g with sched := [{ copyEntry with esz := 4, n0 := 1, n1 := 1 }] } }) (fun t =>
    t.posted.isEmpty && t.mills.all fun m => m.flume.ops.all fun o => o.done == [] && o.halves == [(0, [0, 1, 2, 3, 4, 5, 6, 7, 8], false)]) = true := by decide +kernel
theorem test_abort_grid : (up.abortGrid 1).grids.map (·.dead) = [true] ∧ (up.abortGrid 1).mills.map (·.aborted) = [true] ∧
    ((queued queue0).stopGrids 0).grids.all (·.dead) = true := by decide +kernel
theorem test_snapshot_waits_for_its_latch : (started 6 0x4000 0 0).takeImages.cmds.map (·.phase) = [1] ∧
    (latching (started 6 0x4000 0 0)).takeImages.cmds.map (·.phase) = [0] := by decide +kernel
theorem test_latch_joined : (latching up).latch.snapDue = [(0, 1, 9)] ∧ up.snapDue = [] := by decide +kernel
theorem test_save_waits_for_room : closed.takeArea 0 (2 ^ 20 + 2 ^ 17) = some 0x40000 ∧
    of (exec (.saveImage 1) { closed with parts := up.parts }) (fun t => t.mills.all (·.st == .running)) = true := by decide +kernel
theorem test_outstanding_messages_hyps : ∃ s : State, (s.xmsgs.filter fun m => m.src == 0).length ≥ 2 ^ 20 :=
  have h (n : Nat) : ((List.replicate n (⟨0, 1, 0, [], .beacon⟩ : XMsg)).filter fun m => m.src == 0).length = n := by simp
  ⟨{ idle with xmsgs := List.replicate (2 ^ 20) ⟨0, 1, 0, [], .beacon⟩ }, (h _).ge⟩
theorem test_launch_full_hyps : let s := commanded 1 0 5 0x1000 0 0
    { s with gangs := List.replicate 4096 (gangOf 2 1 5 .unplaced []) }.launchFull 0 = true ∧ s.launchFull 0 = false := by decide +kernel

/-! ### Clauses of the wider statements: states and values that meet their hypotheses -/

-- R96, R97: the square root of 2, its reciprocal and 1/3 by their rounding clauses; an exact point of each table row
theorem test_exact_and_rounded_functions_hyps :
    let val := fun (c : Nat) => if c < 2 ^ 23 then c else (2 ^ 23 + c % 2 ^ 23) * 2 ^ (c / 2 ^ 23 - 1)
    (val 0x3FB504F3 ^ 2 ≤ val 0x40000000 * 2 ^ 149 ∧ val 0x40000000 * 2 ^ 149 < val 0x3FB504F4 ^ 2) ∧
    (val 0x3F3504F3 ^ 2 * val 0x40000000 ≤ 2 ^ 447 ∧ 2 ^ 447 < val 0x3F3504F4 ^ 2 * val 0x40000000) ∧
    (val 0x3EAAAAAA * val 0x40400000 ≤ 2 ^ 298 ∧ 2 ^ 298 < val 0x3EAAAAAB * val 0x40400000) ∧
    realFnOp .sqrt .rne false 0x40000000 = ⟨0x3FB504F3, fInexact⟩ ∧ realFnOp .rsq .rne false 0x40000000 = ⟨0x3F3504F3, fInexact⟩ ∧
    realFnOp .rcp .rne false 0x40400000 = ⟨0x3EAAAAAB, fInexact⟩ ∧ (finish fp32 .rne false (.fin true 149 0)).code = 0xC3150000 ∧
    (finish fp32 .rne false (.fin false (2 ^ 24) 0)).code = 0x4B800000 ∧ (finish fp32 .rne false (.fin false 3 (-1))).code = 0x3FC00000 := by decide +kernel

/-- One thread, with a posted fault that waits for its next header. -/
def alone : State :=
  onWheel (fun w => { w with threads := w.threads.take 1 |>.map fun t => { t with posted := [⟨{ FaultRec.zero with cls := 0x18, va := 0x300 }, false⟩] } }) idle
theorem test_exit_with_a_posted_fault_hyps : goes alone 0x66 (fields 0 0 0 0 0 0) { transfer := true } = true ∧
    alone.takers 0x66 (fields 0 0 0 0 0 0) { transfer := true } = [0] ∧ (alone.ready.thread alone.cur 0).posted.length = 1 ∧
    (alone.ready.thread alone.cur 0).sys.frp &&& ~~~63 = 0 ∧ (alone.gridOfMill 1).isSome = true ∧ (alone.mill? 1).map (·.err) = some none ∧
    of (exec (.exit (fields 0 0 0 0 0 0)) (latching alone)) (fun t => t.mills.all fun m => m.aborted && (m.err.map fun r => (r.cls, r.va)) == some (0x18, 0x300)) = true := by
  decide +kernel

/-- A thread at depth 1 whose caller's window is not resident: it lies below `wsp`, or the window itself is pending. -/
def away (pending : Bool) : State := eachThread (fun t => { t with low := 1, winPending := pending }) (deeper memory)
theorem test_window_fills_hyps : ([false, true].all fun b =>
    let s := away b
    let t := s.thread (.wheel 1 0) 0
    (t.winPending || t.low == t.depth) && t.depth == 1 && !t.pendingIn 0 24 && t.sys.wsp.toNat % 4 == 0 && t.winPending == b &&
    match s.pieces (.wheel 1 0) 0 .fill .glob (t.sys.wsp - 96) 96 with
      | .ok ps => (s.readAll (.wheel 1 0) 0 .fill .glob (t.sys.wsp - 96) 96 ps).toBool
      | .error _ => false) = true := by decide +kernel

/-- The fault of an access's pieces, or how many there are. -/
def piecesOf (s : State) (a : Agent) (k : AccKind) (spc : Space) (va : DWord) (size : Nat) : Nat × Nat := match s.pieces a 0 k spc va size with
  | .ok ps => (0, ps.length)
  | .error (.fault fi) => (fi.cls, fi.sub)
  | .error (.absent ..) => (8, 0)
  | .error _ => (99, 99)
-- R118 at the ends of each range, R220's first check, a page boundary, and a front-end core's own map
theorem test_pieces_hyps : let s := { ponded with parts := ponded.parts.map fun p => { p with pond := [(0, 1), (0, 0), (0, 0), (0, 0)] } }
    let w := Agent.wheel 1 0
    let room := BitVec.ofNat 64 (((s.mill? 1).map fun m => (m.scratch + m.acc) * 1024).getD 0)
    (s.mill? 1).isSome = true ∧ (s.gridOfMill 1).isSome = true ∧
    piecesOf s w .load .sp (room - 4) 4 = (0, 1) ∧ piecesOf s w .load .sp (room - 3) 4 = (9, 2) ∧
    piecesOf s w .store .pd 0xFFFFC 4 = (0, 1) ∧ piecesOf s w .store .pd 0xFFFFD 4 = (9, 3) ∧ piecesOf s w .store .pd (2 ^ 30) 4 = (9, 3) ∧
    piecesOf s w .load .glob 0x0100000000000000 4 = (9, 1) ∧ piecesOf s w .load .glob 0xFFE 4 = (0, 2) ∧
    piecesOf s w .load .glob 0x1000 4096 = (0, 1) ∧ ((s.thread (.fe 0) 0).sys.xroot, piecesOf s (.fe 0) .load .glob 0xC000000000 4) = (0, 9, 1) ∧
    piecesOf s (.fe 0) .load .glob 0xBFFFFFFFFC 4 = (0, 1) ∧ piecesOf s (.fe 0) .load .glob 0x10000000000000 4 = (0, 1) ∧
    piecesOf onCore (.fe 0) .load .glob 0x300 4 = (0, 1) ∧ (onCore.thread (.fe 0) 0).sys.xroot ≠ 0 := by decide +kernel
/-- `tabled` with another entry at an address, and with a marked line. -/
def tabledWith (at' e : Nat) : State := { tabled with mem := memPutList tabled.mem at' (bytesOfNat 16 e) }
-- R216, R217: each end of a walk's step; the walker reads the larger leaf's entry first, here a 64 KiB page whose group starts at 0x28000
theorem test_walk_steps_hyps : tabled.pick 1 0 = 0 ∧ walkGo tabled 0 0 0x28000 = .leaf (leafOf (leafLo 0x200 16)) 0x28000 ∧
    walkGo tabled 0x1000 0 0x28000 = .fail 0 ∧ walkGo tabled (2 ^ 48) 4 0x20000 = .fail 0 ∧
    walkGo (tabledWith 0x28000 (leafLo 0x200 16 + 2 ^ 64)) 0x5000 0 0x28000 = .leaf (leafOf (leafLo 0x200 16 + 2 ^ 64)) 0x28000 ∧
    walkGo (tabledWith 0x28000 (leafLo 0x201 16 + 2 ^ 64)) 0x5000 0 0x28000 = .fail 1 ∧
    walkGo (tabledWith 0x28010 (leafLo 0x200 16 + 2 * 2 ^ 64)) 0x1000 0 0x28000 = .fail 1 ∧
    walkGo (tabledWith 0x28010 0x30001) 0x1000 0 0x28000 = .fail 1 ∧
    walkGo { tabled with poison := [unitOf 0x28000] } 0x5000 0 0x28000 = .poison ∧ walkGo { tabled with poison := [unitOf 0x20000] } 0 4 0x20000 = .poison ∧
    walkGo { tabled with poison := [unitOf 0x28050] } 0x5000 0 0x28000 = .poison ∧
    tabled.walkEnd ⟨0x20000, none, none, false, some 0⟩ 0x10 = .leaf ⟨0x200, 0, 16, 0, false, false, 0, false, true, true, true⟩ 0 ∧
    tabled.walkEnd ⟨0x20000, none, none, false, some 9⟩ 0x10 = .leaf (leafOf (leafLo 0x200 16)) 0x28000 ∧
    tabled.walkEnd ⟨0x20000, none, none, false, none⟩ 0x10 = .leaf (leafOf (leafLo 0x200 16)) 0x28000 := by decide +kernel
theorem test_store_on_a_bound_slot_hyps : let s := walking .running .accumulating
    (match s.pieces (.wheel 1 0) 0 .store .sp 0x100000 4 with
      | .ok ps => (s.boundPieces ps false).isSome
      | .error _ => false) = true ∧ s.code = [] ∧ [6].contains (0x300 / 128) = true := by decide +kernel

-- R228, R384: each case of an access and a fence's scope
theorem test_performed_hyps : let own := access 40 (.wheel 1 0) 0x300 [9, 0, 0, 0] none
    let s := { idle with posted := [own], xmsgs := [⟨0, 1, 5, [5, 0, 0, 0], .push 0x300 0 [9] 0 (some 41)⟩] }
    idle.dieOf (.wheel 1 0) = some 0 ∧ s.doneFor { own with bad := some 0 } (.wheel 1 0) .sys = true ∧ s.doneFor own (.fe 0) .gang = true ∧
    s.doneFor own (.fe 0) .die = false ∧ s.doneFor { own with reach := some .die, settled := some 1 } (.wheel 1 0) .pkg = false ∧
    s.doneFor { own with rd := 4, reach := some .die } (.wheel 1 0) .die = false ∧ s.doneFor own (.wheel 1 0) .mill = false ∧
    s.doneFor { own with reach := some .mill } (.wheel 1 0) .mill = true ∧ s.doneFor { own with id := 42, settled := some 1 } (.wheel 1 0) .die = true ∧
    s.pushingTo 41 1 = true ∧ s.pushingTo 41 0 = false := by decide +kernel
/-- What `readLaunch` answers for the record of `memory` with some bytes changed: 0, or one more than its subcode. -/
def launches (l : List (Nat × Byte)) (addr : DWord) : Nat :=
  let bs := l.foldl (fun bs e => setAt bs e.1 e.2) (memGetList memory.mem 0x1000 256)
  match memory.readLaunch 0 false (fun _ n => .ok (bs.take n)) addr with
  | .ok _ => 0
  | .error (.fault fi) => if fi.cls = 0x14 then fi.sub + 1 else 99
  | .error _ => 99
-- R153: one record for each line of its table: WHEELS 2 but ext1 1; HRES 16; 16 wheels of 21 windows; a range without RMIN; engagement 1
theorem test_launch_records_hyps : launches [] 0x1000 = 0 ∧ launches [] 0x1001 = 1 ∧ launches [(0x28, 2)] 0x1000 = 2 ∧ launches [(0x29, 16)] 0x1000 = 3 ∧
    launches [(0x29, 15), (0x2B, 21)] 0x1000 = 4 ∧ launches [(0x70, 1)] 0x1000 = 5 ∧ launches [(0x6C, 1)] 0x1000 = 6 ∧
    (memory.part 0).engs.map (·.num) = [0] := by decide +kernel
theorem test_yield_last_word_hyps : (idle.lanes.all fun l => ((idle.ready.thread idle.cur l).clause.map fun c => c.idx + 1 == c.count) == some true) = true ∧
    (idle.ready.gangOf idle.cur).isSome = true ∧
    let s := eachThread (fun t => { t with clause := t.clause.map fun c => { c with count := 2 } }) idle
    goes s 0x97 (fields 8 4 16 12 0 0) {} = true ∧
      (s.lanes.all fun l => ((s.ready.thread s.cur l).clause.map fun c => decide (c.idx + 1 < c.count)) == some true) = true := by decide +kernel
/-- A vector table whose entries of some classes name the header at 0x200; every thread has it. -/
def vectors (cls : List Nat) (s : State) : State :=
  eachThread (fun t => { t with sys := { t.sys with tvec := 0x2000 } })
    { s with mem := cls.foldl (fun m c => memPutList m (0x2000 + 16 * c) (bytesOfNat 16 (0x200 + 2 ^ 64))) s.mem }
/-- Every thread has a register pending, v4. -/
def pendingV4 (s : State) : State := eachThread (fun t => { t with long := [⟨7, none, [(.pos 4, 9)], [.pos 4], 0, none, 0, [], none⟩] }) s
-- R44-R46: every lane of `add` meets an illegal operand, or a pending source; every lane of `send` a pending one
theorem test_operand_and_hazard_hyps : let s := vectors [2] memory
    let h := vectors [3] (pendingV4 memory)
    let f := fields 8 54 16 12 0 0
    let g := fields 8 4 16 12 0 0
    (s.lanes.all fun l => operandSub f (shape2 f s.cur) == some 0 && s.ready.checkLane s.cur 0x04 f (shape2 f s.cur) l != .skip) = true ∧
    canEnterAll s.cur (fun _ => 2) 0x200 s.lanes s.ready = true ∧ operandSub g (shape2 g h.cur) = none ∧
    (h.lanes.all fun l => h.ready.hazardSub h.cur (ownFields g (shape2 g h.cur)) (shape2 g h.cur) l == some 0) = true ∧
    canEnterAll h.cur (fun _ => 3) 0x200 h.lanes h.ready = true ∧
    of (exec (.add g) h) (fun t => (t.thread h.cur 0).pc == 0x200 && (t.thread h.cur 0).sys.tpc == h.pcNow && (t.thread h.cur 0).sys.tcause % 2 ^ 16 == 3) = true ∧
    let sh : Shape := { a := .pair, b := .word, c := .none, allHaz := true }
    (h.lanes.all fun l => h.ready.hazardSub h.cur (ownFields g sh) (h.ready.ownShape h.cur (ownFields g sh) sh l) l == some 0) = true := by decide +kernel
-- an operation's own fault, one of every participant or each lane's own; a transfer to 1, which no header stands at
theorem test_operation_faults_hyps : let s := vectors [4, 5] (withRegs [(4, 1)] memory)
    goes s 0x69 (fields 8 4 16 12 0 99) { d := .pair } = true ∧ s.takers 0x69 (fields 8 4 16 12 0 99) { d := .pair } = s.lanes ∧
    canEnterAll s.cur (fun _ => 5) 0x200 s.lanes s.ready = true ∧ goes s 0x61 (fields 8 4 16 12 0 0) { a := .pair, transfer := true } = true ∧
    s.takers 0x61 (fields 8 4 16 12 0 0) { a := .pair, transfer := true } = s.lanes ∧ canEnterAll s.cur (fun _ => 4) 0x200 s.lanes s.ready = true ∧
    (s.lanes.all fun l => match s.ready.fetchHeader s.cur l 1 with
      | .error (.fault fi) => fi.cls == 4 && fi.sub == 0
      | _ => false) = true ∧ s.lanes.Nodup ∧
    (s.lanes.all fun l => decide (l < (s.threads s.cur).length) && (s.thread s.cur l).pc == s.pcNow && (s.thread s.cur l).due == none) = true := by decide +kernel

/-- The issue that a step makes: what `retryTraps`, `leaveBuffers` and `nextBuf` leave, with its lowest lane's PC. -/
def issuing (s : State) : State := ((s.endSlices.retryTraps s.cur).leaveBuffers s.cur).nextBuf s.cur
def at' (pc : DWord) (s : State) : State := eachThread (fun t => { t with pc := pc }) s
/-- The first bytes at a PC, or the class of their fault. -/
def fetched (s : State) (pc : DWord) (off n : Nat) : List Byte ⊕ Nat := match (issuing s).fetchWord s.cur 0 pc off n with
  | .ok b => .inl b
  | .error (.fault fi) => .inr fi.cls
  | .error _ => .inr 99
-- a fetch at fault, a word of 16 bytes at offset 24, one of no listed opcode, and one that runs
theorem test_step_fetch_hyps : let long := { nopAhead with mem := memPutList nopAhead.mem 0x100018 [2] }
    let bad := State.reset.withFetchWord 64 (0x23 * 4)
    nopAhead.agenda = [] ∧ nopAhead.endSlices.mayIssue nopAhead.cur = true ∧ ((issuing nopAhead).group nopAhead.cur).headD 1 = 0 ∧
    (((issuing nopAhead).group nopAhead.cur).all fun l => !(issuing nopAhead).matchedAt nopAhead.cur l && !(issuing nopAhead).asking nopAhead.cur l) = true ∧
    fetched (at' 0x0100000000000000 nopAhead) 0x0100000000000000 0 4 = .inr 9 ∧ fetched (at' 0x100018 long) 0x100018 0 4 = .inl [2, 0, 0, 0] ∧
    32 < (0x100018 : DWord).toNat % 32 + 16 ∧ (fetched bad 0x100008 0 8).elim (fun b => match decodeBytes b with
      | .error e => e == .unlistedOpcode
      | .ok _ => false) (fun _ => false) = true ∧
    fetched nopAhead 0x100008 0 8 = .inl (List.replicate 8 0) ∧ nopAhead.gangs.all (fun g => !nopAhead.sliceOver g && g.save == none) = true ∧
    (nopAhead.part 0).monitors = [] := by decide +kernel
/-- Lanes 0 and 1 in buffer mode at 0x20 and 0x10, with their words. -/
def inBuffers : State :=
  let put := fun (l : Nat) (pc : DWord) (s : State) => s.modThread (.wheel 1 0) l fun t => { t with pc := pc, bufMode := true, loopBuf := [(pc, 0)] }
  put 0 0x20 (put 1 0x10 idle)
-- R158-R160: the PCs take turns, a lane that loses its word leaves, and none leaves a stalled wheel
theorem test_buffer_turns : inBuffers.group (.wheel 1 0) = [] ∧ inBuffers.group (.buf 1 0) = [1] ∧
    ((inBuffers.modWheel (.wheel 1 0) fun w => { w with bufPc := some 0x20 }).group (.buf 1 0)) = [0] ∧
    let s := inBuffers.modThread (.wheel 1 0) 0 fun t => { t with loopBuf := [] }
    (s.leaveBuffers (.wheel 1 0)).group (.wheel 1 0) = [0] ∧ ((s.leaveBuffers (.wheel 1 0)).thread (.wheel 1 0) 1).bufMode = true ∧
    ((s.setFences (.wheel 1 0) { s.fences (.wheel 1 0) with stall := some (.buf 1 0) }).leaveBuffers (.wheel 1 0)).group (.wheel 1 0) = [] := by decide +kernel
-- R158: two last lanes go back by one `brx`, to 0x200 and 0x240: the second's PC is not the lowest, and its word is buffered
theorem test_brx_enters_buffers : let m := memPutList memory.mem 0x240 (bytesOfNat 8 (encodeHeader ⟨0, 15, 15, 1⟩).toNat)
    let s := (eachThread (fun t => { t with loopBuf := [(0x240, 0)] }) (withRegs [(4, 0x200)] { memory with mem := m })).modThread (.wheel 1 0) 1 (Thread.setV · 4 0x240);
    of (exec (.brx (fields 8 4 16 12 0 0)) s) (fun t => (List.range 2).map (fun l => ((t.thread s.cur l).pc, (t.thread s.cur l).bufMode)) ==
      [(0x200, false), (0x240, true)]) = true := by decide +kernel
/-- Every thread waits at `syncw`; a debugger has halted lane 0. -/
def syncHalted : State :=
  onMill (fun m => { m with frozen := true }) ((eachThread (fun t => { t with waiting := true }) up).modThread (.wheel 1 0) 0 fun t => { t with halted := true })
theorem test_debug_resume_releases : of (exec (.debugResume (.wheel 1 0) 0) syncHalted) (fun t => !(t.thread (.wheel 1 0) 0).waiting && !(t.thread (.wheel 1 0) 1).waiting &&
      !(t.thread (.wheel 1 0) 0).halted) = true := by decide +kernel
theorem test_request_carries_its_lock : (up.addRequest (.wheel 1 0) 0 0x10000 5 { cls := 8, sub := 0 }).evq = [.faultReq up.fresh (some 0)] ∧
    (up.addRequest (.fe 12) 0 0x10000 5 { cls := 8, sub := 0 }).evq = [.faultReq up.fresh (some 0)] ∧
    (up.addRequest (.fe 3) 0 0x10000 5 { cls := 8, sub := 0 }).evq = [.faultReq up.fresh none] := by decide +kernel


/-- A SIGNAL at HEAD after an open LAUNCH with SEQ 5, which it names or does not name. -/
def signalAfter (seq : Nat) : State :=
  { commanded 2 0 6 0x3000 9 seq with cmds := [⟨99, 0, 1, 0, 5, [0x1000, 0, 0], 1, false, none, 0, false, none, []⟩] }
theorem test_signal_waits_for_what_it_names : of (exec (.signal 0) (signalAfter 5)) (fun t => memGet t.mem 0x3000 == 0 && (t.queue 0).head == 1 &&
      t.cmds.map (fun c => (c.uid, c.names)) == [(99, none), (100, some 99)]) = true ∧
    of (exec (.signal 0) (signalAfter 4)) (fun t => memGet t.mem 0x3000 == 9) = true ∧
    (signalAfter 5).cmds.all (fun c => c.opcode == 1 && !c.flags.getLsbD 1 && !c.done) = true := by decide +kernel
/-- A SIGNAL that has started, and the command that it names. -/
def signalling (done : Bool) : State := let s := started 2 0x3000 9 0
  { s with cmds := ⟨98, 0, 1, 0, 4, [0x1000, 0, 0], 0, done, none, 0, false, none, []⟩ :: s.cmds.map fun c => { c with names := some 98 } }
theorem test_started_signal : of (exec (.signal 0) (signalling false)) (fun t => t.cmds.all (!·.done)) = true ∧
    of (exec (.signal 0) (signalling true)) (fun t => t.cmds.all (·.done) && memGet t.mem 0x3000 == 9) = true := by decide +kernel
/-- A RELEASE that has started: of an engagement that is gone, or with its receipt to write into a buffer of some length. -/
def releasing (eng phase len : Nat) : State := let s := started 5 eng 0x4000 phase
  { s with cmds := s.cmds.map fun c => { c with args := [BitVec.ofNat 64 eng, 0x4000, BitVec.ofNat 64 len], body := List.replicate 2836 1 } }
theorem test_release_ends : (releasing 7 0 0).engOf 0 7 = none ∧ of (exec (.release 0) (releasing 7 0 0)) (fun t => (t.queue 0).error.cls == 0x14) = true ∧
    of (exec (.release 0) (releasing 1 1 2835)) (fun t => (t.queue 0).error.cls == 0x16 && (t.queue 0).error.sub == 1) = true ∧
    ((releasing 1 1 2836).cmdPieces 0 ((releasing 1 1 2836).cmdSpace 0 0) .store 0x4000 2836).toBool = true ∧
    { releasing 1 1 2836 with posted := [access 1 (cmdAgent 0) 0x4000 [1] none] }.posted.all (fun w => w.owner == cmdAgent 0 && w.bad.isNone) = true := by
  decide +kernel
/-- The move of a page to another device, from one, and with its READ answered or not. -/
def farLo (frame : Nat) : Nat := leafLo frame 16 + 3 * 2 ^ 6
def movingFar (mv : PageMove) (resp : Option (Nat × List Byte)) : State :=
  { tabled with moves := [mv], txns := [⟨9, none, none, 0, 0x7204, 4, none, resp⟩] }
def moveFar (src lo stage : Nat) : PageMove := { theMove with src := src, lo := BitVec.ofNat 64 lo, stage := stage, tags := [9] }
theorem test_far_page_moves_hyps : (leafOf (farLo 0x200)).base = none ∧
    (movingFar (moveFar (leafLo 0x200 16) (farLo 0x300) 0) none).moveReady (moveFar (leafLo 0x200 16) (farLo 0x300) 0) (some 0x200000) none = true ∧
    (movingFar (moveFar (farLo 0x200) (leafLo 0x300 16) 0) none).moveReady (moveFar (farLo 0x200) (leafLo 0x300 16) 0) none (some 0x300000) = true ∧
    (movingFar (moveFar (farLo 0x200) (leafLo 0x300 16) 1) none).entryReady 0x28000 = true ∧
    of (exec (.pageMoveCommit 0) (movingFar (moveFar (farLo 0x200) (leafLo 0x300 16) 1) none)) (fun t => t.moves.length == 1) = true ∧
    of (exec (.pageMoveCommit 0) (movingFar (moveFar (leafLo 0x200 16) (farLo 0x300) 2) (some (0, [])))) (fun t => t.moves.isEmpty) = true := by decide +kernel
theorem test_answers_hyps : let s := { message (.answer 4 [7, 0, 0, 0]) with posted := [{ access 4 (.wheel 1 0) 0x3000000000 [] none with rd := 4, sc := true }] };
    of (exec (.fetchResponse 0 1) { s with mills := (loading none).mills }) (fun t => t.posted.isEmpty) = true ∧
    of (exec (.fetchResponse 0 1) { message (.reply 9 [7]) with txns := [⟨9, none, none, 0, 0x7204, 4, none, none⟩] }) (fun t =>
      t.txns.map (·.resp) == [some (0, [7])]) = true := by decide +kernel
theorem test_save_area_hyps : (closed.gridOfMill 1).isSome = true ∧ ((closed.gridOfMill 1).bind fun g => closed.engOf g.part g.lr.eng).isSome = true ∧
    ((closed.gridOfMill 1).bind fun g => (closed.engOf g.part g.lr.eng).map (·.kids)) = some [16] ∧
    closed.mills.all (fun m => m.closed && m.ctxs.all fun c => c.walks.isEmpty) = true ∧
    ((restores.mill? 1).map fun m => ({ restores with mem := memPutList restores.mem 0x40000 [9] }.openArea { m with area := some (0x40000, 64) }).mem ==
      restores.mem) = some true := by decide +kernel
/-- The walk of `walkIs` with seeded weights: N and K of 32. -/
def seededWalk : Walk := { walkIs .running .accumulating with rc := { walkRecOf walkBytes with bfmt := 8 } }
theorem test_seeded_kstep_hyps : seededWalk.rc.bfmt = 8 ∧ seededWalk.rc.afmt ≠ 3 ∧ 0 * seededWalk.rc.tmRows + 31 < seededWalk.rc.m ∧
    0 * seededWalk.rc.tnCols + 31 < seededWalk.rc.n := by decide +kernel
/-- A load of a line of die 1's HBM from die 0. -/
def loadFar (sc : Bool) : State := flying { access 40 (.wheel 1 0) 0x3000000000 [] none with rd := 4, sc := sc }
theorem test_far_loads_hyps : (loadFar true).posted.all (fun p => p.remoteHome && (loadFar true).before p == [] && homeOf p.key == some 1) = true ∧
    (loadFar true).answering 40 = false ∧ (loadFar true).roomX 1 1 = true ∧ (loadFar false).needsFetch (some 0) 0 0x3000000000 = true ∧
    of (exec (.accessPerform 40 .die) (loadFar true)) (fun t => t.xmsgs.map (fun x => (x.src, x.dst, x.kind)) == [(1, 0, .answer 40 [0, 0, 0, 0])]) = true := by
  decide +kernel
theorem test_fence_with_engines_covers : let s := fencing { access 40 (.wheel 1 0) 0x300 [1] none with reach := some .mill } .mill
    of (exec (.fenceSlotComplete (.wheel 1 0) 0) (s.setFences (.wheel 1 0) { s.fences (.wheel 1 0) with
      slots := [some ⟨1, .mill, false, [40], [0], true⟩, none, none, none] })) (fun t => t.posted.map (·.fenced) == [[(.wheel 1 0, 0)]]) = true := by decide +kernel
theorem test_exited_thread_replays : let s := eachThread (fun t => { t with exited := true }) (flying { access 40 (.wheel 1 0) 0x300 [1] none with bad := some 0 })
    of (exec (.postedFaultArrival 40 0) { s with picks := [(16 * 40 + 8, 1)] }) (fun t => t.posted.map (·.bad) == [none]) = true := by decide +kernel
theorem test_waiting_record_posts : let s := onWheel (fun w => { w with posting := some (0x100008, walkRecOf walkBytes) }) (withRegs [(4, 0x7000)] posts)
    of (exec (.wpost (fields 8 4 63 12 0 0)) s) (fun t => t.mills.all fun m => (m.ctx 0).posted == 1) = true ∧
    (s.wheel? s.cur).map (·.posting) = some (some (s.pcNow, walkRecOf walkBytes)) := by decide +kernel


end Sys2Proof.Tests
end

/-! SUPPORT. The integer and bit words (spec/05_integer_and_float_instructions.md R72-R89): what exec does with a word whose operation
only writes D or a guard, the arithmetic of each operation at both widths, and the statements of that family. -/

namespace Sys2Proof.IntegerWords

open Sys2Proof Sys2Proof.Machine

/-! ### From an operation's own effect to `Completes` -/

/-- A word whose operation ends without a fault and without moving a thread completes with what the operation did. -/
theorem completes_of_done {i : Fields → Instr} {op : BitVec 8} {shape : Fields → Agent → Shape} {body : Fields → Ctx → Body}
    {effect : Ctx → State} (hi : ∀ f st, exec (i f) st = issue op shape (body f) f st) (own : ∀ f a, (shape f a).ownA = false)
    (hb : ∀ x, body x.f x = .done (effect x) [] []) (hm : ∀ x, (effect x).marks x.a = x.s0.marks x.a) :
    Completes i op shape effect := by
  intro f st h
  have hf : (st.ctx op f (shape f st.cur)).f = f := by simp [State.ctx, ownFields, own]
  have hd := hb (st.ctx op f (shape f st.cur))
  rw [hf] at hd
  rw [hi]
  exact issue_ok h hd (hm _)
theorem completes_writes {i : Fields → Instr} {op : BitVec 8} {shape : Fields → Agent → Shape}
    {v : Fields → Ctx → Nat → List Word × BitVec 5} {val : Ctx → Nat → List Word}
    (hi : ∀ f st, exec (i f) st = issue op shape (fun x => eachWrite x (v f x)) f st) (own : ∀ f a, (shape f a).ownA = false)
    (hv : ∀ x l, v x.f x l = (val x l, 0)) : Completes i op shape fun x => x.writes (val x) :=
  completes_of_done hi own (fun x => eachWrite_eq (hv x)) fun x => marks_writes x _ _
theorem completes_begins {i : Fields → Instr} {op : BitVec 8} {shape : Fields → Agent → Shape}
    {v : Fields → Ctx → Nat → List Word × BitVec 5} {val : Ctx → Nat → List Word}
    (hi : ∀ f st, exec (i f) st = issue op shape (fun x => eachLong x (v f x)) f st) (own : ∀ f a, (shape f a).ownA = false)
    (hv : ∀ x l, v x.f x l = (val x l, 0)) : Completes i op shape fun x => x.begins (val x) :=
  completes_of_done hi own (fun x => eachLong_eq (hv x)) fun x => marks_begins x _ _
theorem completes_guards {i : Fields → Instr} {op : BitVec 8} {shape : Fields → Agent → Shape}
    {v : Ctx → Nat → Bool × BitVec 5} {val : Ctx → Nat → Bool}
    (hi : ∀ f st, exec (i f) st = issue op shape (fun x => eachGuard x (guardD x.f) (v x)) f st)
    (own : ∀ f a, (shape f a).ownA = false)
    (hv : ∀ x l, v x l = (val x l, 0)) : Completes i op shape fun x => x.guards (guardD x.f) (val x) :=
  completes_of_done hi own (fun x => eachGuard_eq (hv x)) fun x => marks_guards x _ _ _

/-! ### Operations at both widths (R73) -/

/-- An operation of up to three sources as the model computes it, on unsigned numbers below 2^w, and as the word operation that this is
at every width. -/
structure WordOp where
  num      : Nat → Nat → Nat → Nat → Nat
  word     : (w : Nat) → BitVec w → BitVec w → BitVec w → BitVec w
  computes : ∀ {w : Nat}, 0 < w → ∀ a b c : BitVec w, BitVec.ofNat w (num w a.toNat b.toNat c.toNat) = word w a b c

/-- The registers that the operation gives a lane, at the width of the word (R73). -/
theorem WordOp.outW_eq (o : WordOp) (x : Ctx) (l : Nat) :
    outW (wBits x.f) (o.num (wBits x.f) (x.u l .A) (x.u l .B) (x.u l .C)) =
      x.out (o.word 32 (x.w l .A) (x.w l .B) (x.w l .C)) (o.word 64 (x.dw l .A) (x.dw l .B) (x.dw l .C)) := by
  apply Machine.outW_eq
  · intro hd
    rw [wBits_word hd, u_word hd, u_word hd, u_word hd]
    exact o.computes (by decide) _ _ _
  · intro hd
    rw [wBits_pair hd, u_pair hd, u_pair hd, u_pair hd]
    exact o.computes (by decide) _ _ _

/-- A word that writes an operation of its sources, which its fields name. -/
theorem completes_result {i : Fields → Instr} {op : BitVec 8} {shape : Fields → Agent → Shape} (o : Fields → WordOp)
    (hi : ∀ f st, exec (i f) st = issue op shape (fun x => eachWrite x fun l =>
      (outW (wBits x.f) ((o f).num (wBits x.f) (x.u l .A) (x.u l .B) (x.u l .C)), 0)) f st)
    (own : ∀ f a, (shape f a).ownA = false) :
    Completes i op shape fun x => x.writes fun l =>
      x.out ((o x.f).word 32 (x.w l .A) (x.w l .B) (x.w l .C)) ((o x.f).word 64 (x.dw l .A) (x.dw l .B) (x.dw l .C)) :=
  completes_writes hi own fun x l => congrArg (·, 0) ((o x.f).outW_eq x l)
/-- The same for a long-latency word. -/
theorem completes_longResult {i : Fields → Instr} {op : BitVec 8} {shape : Fields → Agent → Shape} (o : Fields → WordOp)
    (hi : ∀ f st, exec (i f) st = issue op shape (fun x => eachLong x fun l =>
      (outW (wBits x.f) ((o f).num (wBits x.f) (x.u l .A) (x.u l .B) (x.u l .C)), 0)) f st)
    (own : ∀ f a, (shape f a).ownA = false) :
    Completes i op shape fun x => x.begins fun l =>
      x.out ((o x.f).word 32 (x.w l .A) (x.w l .B) (x.w l .C)) ((o x.f).word 64 (x.dw l .A) (x.dw l .B) (x.dw l .C)) :=
  completes_begins hi own fun x l => congrArg (·, 0) ((o x.f).outW_eq x l)

/-! ### Moves, `lea` and wrapping arithmetic (R76, R77, R79, R81) -/

def movOp : WordOp where
  num _ a _ _ := a
  word _ a _ _ := a
  computes _ _ _ _ := by simp
/-- b as it stands, for `sel`. -/
def secondOp : WordOp where
  num _ _ b _ := b
  word _ _ b _ := b
  computes _ _ _ _ := by simp
/-- The scale of `lea` is a shift of b. -/
def leaOp (n : Nat) : WordOp where
  num w a b c := (a + b * 2 ^ n + c) % 2 ^ w
  word _ a b c := a + b <<< n + c
  computes _ _ _ _ := BitVec.eq_of_toNat_eq (by simp [Nat.shiftLeft_eq])
def addOp : WordOp where
  num w a b _ := modW w ((a : Int) + b)
  word _ a b _ := a + b
  computes _ _ _ _ := by simp [ofNat_modW, BitVec.ofInt_add]
def subOp : WordOp where
  num w a b _ := modW w ((a : Int) + -b)
  word _ a b _ := a - b
  computes _ _ _ _ := by simp [ofNat_modW, BitVec.ofInt_add, BitVec.ofInt_neg, BitVec.sub_eq_add_neg]
def mulOp : WordOp where
  num w a b _ := a * b % 2 ^ w
  word _ a b _ := a * b
  computes _ _ _ _ := BitVec.eq_of_toNat_eq (by simp)
def madOp : WordOp where
  num w a b c := (a * b + c) % 2 ^ w
  word _ a b c := a * b + c
  computes _ _ _ _ := BitVec.eq_of_toNat_eq (by simp)
/-- The high half of the exact product, unsigned or signed. -/
def mulhOp (u : Bool) : WordOp where
  num w a b _ := modW w (byU u w a * byU u w b / (2 ^ w : Nat))
  word w a b _ := if u then BitVec.ofNat w (a.toNat * b.toNat / 2 ^ w) else BitVec.ofInt w (a.toInt * b.toInt / 2 ^ w)
  computes {w} hw a b _ := by
    rw [ofNat_modW]
    cases u with
    | false => simp [byU, signedOf_toInt hw]
    | true => simpa [byU] using BitVec.ofInt_natCast w (a.toNat * b.toNat / 2 ^ w)
def absOp : WordOp where
  num w a _ _ := modW w (signedOf w a).natAbs
  word w a _ _ := BitVec.ofNat w a.toInt.natAbs
  computes hw _ _ _ := by rw [ofNat_modW, signedOf_toInt hw, BitVec.ofInt_natCast]
def negOp : WordOp where
  num w a _ _ := modW w (-(a : Int))
  word _ a _ _ := -a
  computes _ _ _ _ := by simp [ofNat_modW, BitVec.ofInt_neg]

/-! ### Order (R81, R87) -/

theorem byU_toNat {w : Nat} (hw : 0 < w) (u : Bool) (b : BitVec w) : byU u w b.toNat = if u then (b.toNat : Int) else b.toInt := by
  cases u <;> simp [byU, signedOf_toInt hw]
/-- The order of two numbers of w bits, unsigned or signed. -/
def below (u : Bool) (w : Nat) (p q : BitVec w) : Bool :=
  if u then decide (p.toNat < q.toNat) else decide (p.toInt < q.toInt)
theorem below_iff {w : Nat} (hw : 0 < w) (u : Bool) (p q : BitVec w) :
    below u w p q = true ↔ byU u w p.toNat < byU u w q.toNat := by
  cases u <;> simp [below, byU_toNat hw]
def minOp (u : Bool) : WordOp where
  num w a b _ := if byU u w b < byU u w a then b else a
  word w a b _ := if below u w b a then b else a
  computes hw a b _ := by
    simp only [below_iff hw]
    split <;> simp
def maxOp (u : Bool) : WordOp where
  num w a b _ := if byU u w b > byU u w a then b else a
  word w a b _ := if below u w a b then b else a
  computes hw a b _ := by
    simp only [below_iff hw, gt_iff_lt]
    split <;> simp

/-! ### Saturation (R77) -/

theorem clampInt_eq {lo hi : Int} (h : lo ≤ hi) (i : Int) : clampInt lo hi i = max lo (min hi i) := by
  unfold clampInt
  split_ifs <;> omega
theorem ofNat_signedClamp (i : Int) : BitVec.ofNat 32 (modW 32 (clampInt (-2147483648) 2147483647 i)) =
    BitVec.ofInt 32 (max (-2 ^ 31) (min (2 ^ 31 - 1) i)) := by
  rw [ofNat_modW, clampInt_eq (by decide)]
  rfl
theorem ofNat_unsignedClamp_add (a b : Nat) : BitVec.ofNat 32 (modW 32 (clampInt 0 4294967295 ((a : Int) + b))) =
    BitVec.ofNat 32 (min (2 ^ 32 - 1) (a + b)) := by
  rw [ofNat_modW, clampInt_eq (by decide), ← BitVec.ofInt_natCast]
  congr 1
  omega
theorem ofNat_unsignedClamp_sub (a : Word) (b : Nat) : BitVec.ofNat 32 (modW 32 (clampInt 0 4294967295 ((a.toNat : Int) + -b))) =
    BitVec.ofNat 32 (a.toNat - b) := by
  have ha := a.isLt
  rw [ofNat_modW, clampInt_eq (by decide), ← BitVec.ofInt_natCast]
  congr 1
  omega

/-- The three forms of `add` and `sub` by SUB. -/
theorem addSub_eq (sub : BitVec 6) (minus : Bool) (w a b : Nat) : addSub sub.toNat minus w a b =
    if sub = 4 then modW 32 (clampInt (-2147483648) 2147483647 (signedOf 32 a + if minus then -signedOf 32 b else signedOf 32 b))
    else if sub = 6 then modW 32 (clampInt 0 4294967295 ((a : Int) + if minus then -(b : Int) else b))
    else modW w ((a : Int) + if minus then -(b : Int) else b) := by
  by_cases h4 : sub = 4
  · simp [h4, addSub]
  by_cases h6 : sub = 6
  · simp [h6, addSub]
  have n4 : sub.toNat ≠ 4 := fun h => h4 (BitVec.eq_of_toNat_eq h)
  have n6 : sub.toNat ≠ 6 := fun h => h6 (BitVec.eq_of_toNat_eq h)
  rw [if_neg h4, if_neg h6, addSub]
  exacts [n4, n6]
/-- A saturating form is a word form: its sources and its result are single registers. -/
theorem isD_saturating {f : Fields} (h : f.sub = 4 ∨ f.sub = 6) : isD f = false := by
  rcases h with h | h <;> simp [isD, h]
theorem outW_word {f : Fields} (h : isD f = false) (n : Nat) : outW (wBits f) n = [BitVec.ofNat 32 n] := by
  rw [wBits_word h]
  rfl
theorem completes_add : Completes .add 0x04 shape2 (fun x => x.writes fun l =>
    if x.f.sub = 4 then [BitVec.ofInt 32 (max (-2 ^ 31) (min (2 ^ 31 - 1) ((x.w l .A).toInt + (x.w l .B).toInt)))]
    else if x.f.sub = 6 then [BitVec.ofNat 32 (min (2 ^ 32 - 1) ((x.w l .A).toNat + (x.w l .B).toNat))]
    else x.out (x.w l .A + x.w l .B) (x.dw l .A + x.dw l .B)) := by
  refine completes_writes (v := fun f x l => (outW (wBits x.f) (addSub f.sub.toNat false (wBits x.f) (x.u l .A) (x.u l .B)), 0))
    (fun _ _ => rfl) (fun _ _ => rfl) fun x l => congrArg (·, 0) ?_
  simp only [addSub_eq, Bool.false_eq_true, if_false]
  split_ifs with h4 h6
  · have hd := isD_saturating (.inl h4)
    simp only [outW_word hd, u_word hd, signedOf_toInt (w := 32) (by decide), ofNat_signedClamp]
  · have hd := isD_saturating (.inr h6)
    simp only [outW_word hd, u_word hd, ofNat_unsignedClamp_add]
  · exact addOp.outW_eq x l
theorem completes_sub : Completes .sub 0x05 shape2 (fun x => x.writes fun l =>
    if x.f.sub = 4 then [BitVec.ofInt 32 (max (-2 ^ 31) (min (2 ^ 31 - 1) ((x.w l .A).toInt - (x.w l .B).toInt)))]
    else if x.f.sub = 6 then [BitVec.ofNat 32 ((x.w l .A).toNat - (x.w l .B).toNat)]
    else x.out (x.w l .A - x.w l .B) (x.dw l .A - x.dw l .B)) := by
  refine completes_writes (v := fun f x l => (outW (wBits x.f) (addSub f.sub.toNat true (wBits x.f) (x.u l .A) (x.u l .B)), 0))
    (fun _ _ => rfl) (fun _ _ => rfl) fun x l => congrArg (·, 0) ?_
  simp only [addSub_eq, if_true]
  split_ifs with h4 h6
  · have hd := isD_saturating (.inl h4)
    simp only [outW_word hd, u_word hd, signedOf_toInt (w := 32) (by decide), ofNat_signedClamp, ← sub_eq_add_neg]
  · have hd := isD_saturating (.inr h6)
    simp only [outW_word hd, u_word hd, ofNat_unsignedClamp_sub]
  · exact subOp.outW_eq x l

/-! ### Carries (R78) -/

/-- A word of the carry chain: each participant writes a sum or difference to D, and then the carry to a guard. -/
def carries (x : Ctx) (val : Nat → List Word) (co : Nat → Bool) : State :=
  x.todo.foldl (fun s l => (s.putD x.a x.f l x.lowest (val l)).modThread x.a l fun t => t.setGuard (x.f.mod.toNat / 8 % 8) (co l)) x.s0
theorem marks_carries (x : Ctx) (val : Nat → List Word) (co : Nat → Bool) : (carries x val co).marks x.a = x.s0.marks x.a := by
  unfold carries
  apply marks_foldl
  intro s l
  exact (marks_modThread _ _ _ _ (fun t => (setGuard_marks t _ _).1) (fun t => (setGuard_marks t _ _).2)).trans
    (marks_putD s _ _ _ _ _)
/-- The carry in of a lane: the guard of MOD[2:0], and none for field value 0. -/
abbrev CarryIn (x : Ctx) (l : Nat) : Prop := x.f.mod.toNat % 8 ≠ 0 ∧ (x.thread l).guard (x.f.mod.toNat % 8) = true
def addcOp (p : Prop) [Decidable p] : WordOp where
  num w a b _ := modW w ((a : Int) + b + if p then 1 else 0)
  word _ a b _ := a + b + if p then 1 else 0
  computes _ _ _ _ := by by_cases hp : p <;> simp [hp, ofNat_modW, BitVec.ofInt_add]
def subbOp (p : Prop) [Decidable p] : WordOp where
  num w a b _ := modW w ((a : Int) - b - if p then 1 else 0)
  word _ a b _ := a - b - if p then 1 else 0
  computes _ _ _ _ := by by_cases hp : p <;> simp [hp, ofNat_modW, BitVec.ofInt_add, BitVec.ofInt_neg, sub_eq_add_neg]
/-- The carry out: the exact sum does not fit the width of the word. -/
theorem carryOut_add (x : Ctx) (l : Nat) (p : Prop) [Decidable p] :
    decide ((x.u l .A : Int) + x.u l .B + (if p then 1 else 0) ≥ (2 ^ wBits x.f : Nat)) =
      if isD x.f then decide ((x.dw l .A).toNat + (x.dw l .B).toNat + (if p then 1 else 0) ≥ 2 ^ 64)
      else decide ((x.w l .A).toNat + (x.w l .B).toNat + (if p then 1 else 0) ≥ 2 ^ 32) := by
  cases hd : isD x.f
  · rw [wBits_word hd, u_word hd, u_word hd]
    exact decide_eq_decide.mpr (by split <;> omega)
  · rw [wBits_pair hd, u_pair hd, u_pair hd]
    exact decide_eq_decide.mpr (by split <;> omega)
/-- The borrow out: the exact difference is below 0. -/
theorem borrowOut_sub (x : Ctx) (l : Nat) (p : Prop) [Decidable p] :
    decide ((x.u l .A : Int) - x.u l .B - (if p then 1 else 0) < 0) =
      if isD x.f then decide ((x.dw l .A).toNat < (x.dw l .B).toNat + (if p then 1 else 0))
      else decide ((x.w l .A).toNat < (x.w l .B).toNat + (if p then 1 else 0)) := by
  cases hd : isD x.f
  · rw [u_word hd, u_word hd]
    exact decide_eq_decide.mpr (by split <;> omega)
  · rw [u_pair hd, u_pair hd]
    exact decide_eq_decide.mpr (by split <;> omega)
theorem carryOp_add (x : Ctx) : carryOp false x = .done (carries x
    (fun l => x.out (x.w l .A + x.w l .B + if CarryIn x l then 1 else 0) (x.dw l .A + x.dw l .B + if CarryIn x l then 1 else 0))
    fun l => if isD x.f then decide ((x.dw l .A).toNat + (x.dw l .B).toNat + (if CarryIn x l then 1 else 0) ≥ 2 ^ 64)
      else decide ((x.w l .A).toNat + (x.w l .B).toNat + (if CarryIn x l then 1 else 0) ≥ 2 ^ 32)) [] [] := by
  have sum := fun l => (addcOp (CarryIn x l)).outW_eq x l
  simp only [addcOp] at sum
  simp only [← carryOut_add, ← sum]
  rfl
theorem carryOp_sub (x : Ctx) : carryOp true x = .done (carries x
    (fun l => x.out (x.w l .A - x.w l .B - if CarryIn x l then 1 else 0) (x.dw l .A - x.dw l .B - if CarryIn x l then 1 else 0))
    fun l => if isD x.f then decide ((x.dw l .A).toNat < (x.dw l .B).toNat + (if CarryIn x l then 1 else 0))
      else decide ((x.w l .A).toNat < (x.w l .B).toNat + (if CarryIn x l then 1 else 0))) [] [] := by
  have difference := fun l => (subbOp (CarryIn x l)).outW_eq x l
  simp only [subbOp] at difference
  simp only [← borrowOut_sub, ← difference]
  rfl

/-! ### Division (R80) -/

theorem signedOf_eq_intMin {w : Nat} (hw : 0 < w) (a : BitVec w) :
    signedOf w a.toNat = -((2 ^ (w - 1) : Nat) : Int) ↔ a = BitVec.intMin w := by
  rw [signedOf_toInt hw, ← BitVec.toInt_inj, BitVec.toInt_intMin_of_pos hw]
  simp
theorem signedOf_eq_negOne {w : Nat} (hw : 0 < w) (b : BitVec w) : signedOf w b.toNat = -1 ↔ b = -1#w := by
  rw [signedOf_toInt hw, ← BitVec.toInt_inj, BitVec.neg_one_eq_allOnes, BitVec.toInt_allOnes]
  simp [hw]
theorem ofInt_tdiv {w : Nat} (a b : BitVec w) : BitVec.ofInt w (a.toInt.tdiv b.toInt) = a.sdiv b := by
  apply BitVec.eq_of_toInt_eq
  rw [BitVec.toInt_ofInt, BitVec.toInt_sdiv]
theorem ofInt_tmod {w : Nat} (a b : BitVec w) : BitVec.ofInt w (a.toInt.tmod b.toInt) = a.srem b := by
  rw [← BitVec.toInt_srem, BitVec.ofInt_toInt]
theorem ofInt_tdiv_toNat {w : Nat} (a b : BitVec w) : BitVec.ofInt w ((a.toNat : Int).tdiv b.toNat) = a.udiv b := by
  rw [← Int.ofNat_tdiv, BitVec.ofInt_natCast]
  apply BitVec.eq_of_toNat_eq
  simp [Nat.mod_eq_of_lt (lt_of_le_of_lt (Nat.div_le_self _ _) a.isLt)]
theorem ofInt_tmod_toNat {w : Nat} (a b : BitVec w) : BitVec.ofInt w ((a.toNat : Int).tmod b.toNat) = a.umod b := by
  rw [← Int.ofNat_tmod, BitVec.ofInt_natCast]
  apply BitVec.eq_of_toNat_eq
  simp [Nat.mod_eq_of_lt (lt_of_le_of_lt (Nat.mod_le _ _) a.isLt)]

/-- The remainder by -1 is 0, that of the most negative number included. -/
theorem srem_negOne {w : Nat} (hw : 0 < w) (a : BitVec w) : a.srem (-1#w) = 0#w := by
  apply BitVec.eq_of_toInt_eq
  rw [BitVec.toInt_srem, BitVec.neg_one_eq_allOnes, BitVec.toInt_allOnes]
  simp [hw]
/-- Away from a zero divisor, `divRem` gives the words of the truncated quotient and of the remainder: its corner, the most negative
number by -1, is what `sdiv` and `srem` give by wrapping (R80). -/
theorem ofNat_divRem {w : Nat} (hw : 0 < w) (u : Bool) {a b : BitVec w} (hb : b ≠ 0) :
    BitVec.ofNat w (divRem u w a.toNat b.toNat).1 = (if u then a.udiv b else a.sdiv b) ∧
    BitVec.ofNat w (divRem u w a.toNat b.toNat).2 = if u then a.umod b else a.srem b := by
  have hb' : b.toNat ≠ 0 := by simpa [← BitVec.toNat_inj] using hb
  cases u with
  | true =>
    simp only [divRem, hb', if_false, Bool.not_true, Bool.false_and, Bool.false_eq_true, if_true, ofNat_modW, byU, mul_comm _ (b.toNat : Int),
      ← Int.tmod_def]
    exact ⟨ofInt_tdiv_toNat a b, ofInt_tmod_toNat a b⟩
  | false =>
    by_cases hc : a = BitVec.intMin w ∧ b = -1#w
    · obtain ⟨rfl, rfl⟩ := hc
      have h1 := (signedOf_eq_intMin hw _).mpr rfl
      have h2 := (signedOf_eq_negOne hw _).mpr rfl
      simp only [divRem, hb', if_false, h1, h2]
      simp [BitVec.intMin_sdiv_neg_one, srem_negOne hw, -BitVec.toNat_intMin]
    · rw [← signedOf_eq_intMin hw, ← signedOf_eq_negOne hw, signedOf_toInt hw, signedOf_toInt hw] at hc
      simp only [divRem, hb', if_false, Bool.not_false, Bool.true_and, Bool.and_eq_true, beq_iff_eq, hc, ofNat_modW, byU,
        signedOf_toInt hw, mul_comm _ b.toInt, ← Int.tmod_def, Bool.false_eq_true]
      exact ⟨ofInt_tdiv a b, ofInt_tmod a b⟩
def divOp (u : Bool) : WordOp where
  num w a b _ := (divRem u w a b).1
  word _ a b _ := if b = 0 then -1 else if u then a.udiv b else a.sdiv b
  computes {w} hw a b _ := by
    by_cases hb : b = 0
    · have ones : BitVec.ofNat w (2 ^ w - 1) = -1#w := by
        rw [BitVec.neg_one_eq_allOnes]
        exact BitVec.eq_of_toNat_eq (by simp)
      simpa [hb, divRem] using ones
    · simp only [hb, if_false]
      exact (ofNat_divRem hw u hb).1
def remOp (u : Bool) : WordOp where
  num w a b _ := (divRem u w a b).2
  word _ a b _ := if b = 0 then a else if u then a.umod b else a.srem b
  computes hw a b _ := by
    by_cases hb : b = 0
    · simp [hb, divRem]
    · simp only [hb, if_false]
      exact (ofNat_divRem hw u hb).2
theorem toInt_sdiv_eq {w : Nat} (hw : 0 < w) (a b : BitVec w) : (a.sdiv b).toInt =
    if a = BitVec.intMin w ∧ b = -1#w then -2 ^ (w - 1) else a.toInt.tdiv b.toInt := by
  split
  case isTrue hc => rw [hc.1, hc.2, BitVec.intMin_sdiv_neg_one, BitVec.toInt_intMin_of_pos hw]
  case isFalse hc => exact BitVec.toInt_sdiv_of_ne_or_ne a b (not_and_or.mp hc)
theorem toInt_srem_eq {w : Nat} (hw : 0 < w) (a b : BitVec w) : (a.srem b).toInt =
    if a = BitVec.intMin w ∧ b = -1#w then 0 else a.toInt.tmod b.toInt := by
  split
  case isTrue hc => rw [hc.2, srem_negOne hw, BitVec.toInt_zero]
  case isFalse hc => exact BitVec.toInt_srem a b

/-! ### Logic (R82) -/

theorem ofNat_complement {w : Nat} (a : BitVec w) : BitVec.ofNat w (2 ^ w - 1 - a.toNat) = ~~~a := by
  rw [← BitVec.toNat_not, BitVec.ofNat_toNat, BitVec.setWidth_eq]
def andOp : WordOp where
  num _ a b _ := a &&& b
  word _ a b _ := a &&& b
  computes _ _ _ _ := by simp [BitVec.ofNat_and]
def orOp : WordOp where
  num _ a b _ := a ||| b
  word _ a b _ := a ||| b
  computes _ _ _ _ := by simp [BitVec.ofNat_or]
def xorOp : WordOp where
  num _ a b _ := a ^^^ b
  word _ a b _ := a ^^^ b
  computes _ _ _ _ := by simp [BitVec.ofNat_xor]
def andnOp : WordOp where
  num w a b _ := a &&& (2 ^ w - 1 - b)
  word _ a b _ := a &&& ~~~b
  computes _ _ _ _ := by simp [BitVec.ofNat_and, ofNat_complement]
def notOp : WordOp where
  num w a _ _ := 2 ^ w - 1 - a
  word _ a _ _ := ~~~a
  computes _ a _ _ := ofNat_complement a

/-! ### Shifts and rotates (R83, R84) -/

theorem toNat_div_two_pow_lt {w : Nat} (a : BitVec w) (n : Nat) : a.toNat / 2 ^ n < 2 ^ w :=
  lt_of_le_of_lt (Nat.div_le_self _ _) a.isLt
def shlOp : WordOp where
  num w a n _ := if n < w then a * 2 ^ n % 2 ^ w else 0
  word w a n _ := if n < BitVec.ofNat w w then a <<< n.toNat else 0
  computes {w} _ a n _ := by
    have hn : n < BitVec.ofNat w w ↔ n.toNat < w := by
      rw [BitVec.lt_def, BitVec.toNat_ofNat, Nat.mod_eq_of_lt Nat.lt_two_pow_self]
    simp only [hn]
    split
    · exact BitVec.eq_of_toNat_eq (by simp [Nat.shiftLeft_eq])
    · rfl
def shrOp : WordOp where
  num w a n _ := if n < w then a / 2 ^ n else 0
  word _ a n _ := a >>> n.toNat
  computes {w} _ a n _ := by
    apply BitVec.eq_of_toNat_eq
    rw [BitVec.toNat_ushiftRight, Nat.shiftRight_eq_div_pow, BitVec.toNat_ofNat]
    split
    case isTrue h => exact Nat.mod_eq_of_lt (toNat_div_two_pow_lt a _)
    case isFalse h =>
      have : a.toNat < 2 ^ n.toNat := lt_of_lt_of_le a.isLt (Nat.pow_le_pow_right (by decide) (not_lt.mp h))
      simp [Nat.div_eq_of_lt this]
/-- The top bit of a number of w bits is the sign of the word. -/
theorem bitAt_toNat_eq_msb {w : Nat} (a : BitVec w) : bitAt a.toNat (w - 1) = a.msb := by
  rw [BitVec.msb_eq_getLsbD_last, ← BitVec.testBit_toNat, Nat.testBit_eq_decide_div_mod_eq]
  rfl
def sarOp : WordOp where
  num w a n _ := if n < w then modW w (signedOf w a / (2 ^ n : Nat)) else if bitAt a (w - 1) then 2 ^ w - 1 else 0
  word _ a n _ := a.sshiftRight n.toNat
  computes {w} hw a n _ := by
    rw [bitAt_toNat_eq_msb, signedOf_toInt hw]
    split
    case isTrue h => rw [ofNat_modW, BitVec.sshiftRight, Int.shiftRight_eq_div_pow]
    case isFalse h =>
      have hn : w ≤ n.toNat := not_lt.mp h
      apply BitVec.eq_of_getLsbD_eq
      intro k hk
      rw [BitVec.getLsbD_sshiftRight, BitVec.getLsbD_ofNat]
      cases a.msb <;> simp [hk, show ¬ n.toNat + k < w by omega]
/-- The two parts of a rotation do not overlap, so their sum is their union. -/
def rotOp : WordOp where
  num w a n _ := (a * 2 ^ (n % w) + a / 2 ^ (w - n % w)) % 2 ^ w
  word _ a n _ := a.rotateLeft n.toNat
  computes {w} hw a n _ := by
    have hr : n.toNat % w ≤ w := (Nat.mod_lt _ hw).le
    generalize hk : n.toNat % w = r at hr
    have low : a.toNat / 2 ^ (w - r) < 2 ^ r := by
      rw [Nat.div_lt_iff_lt_mul (by positivity), ← pow_add, Nat.add_sub_cancel' hr]
      exact a.isLt
    rw [mul_comm, Nat.two_pow_add_eq_or_of_lt low, mul_comm]
    apply BitVec.eq_of_toNat_eq
    rw [BitVec.toNat_rotateLeft, hk, Nat.shiftLeft_eq, Nat.shiftRight_eq_div_pow, BitVec.toNat_ofNat, Nat.mod_mod, Nat.or_mod_two_pow,
      Nat.mod_eq_of_lt (toNat_div_two_pow_lt a _)]
/-- The funnel value's number: a is its high word, b its low word (R84). -/
theorem toNat_funnel (a b : Word) : (a.setWidth 64 <<< 32 ||| b.setWidth 64 : DWord).toNat = a.toNat * 2 ^ 32 + b.toNat := by
  have ha := a.isLt
  have hb := b.isLt
  rw [BitVec.toNat_or, BitVec.toNat_shiftLeft, BitVec.toNat_setWidth, BitVec.toNat_setWidth, Nat.shiftLeft_eq,
    Nat.mod_eq_of_lt (a := a.toNat) (by omega), Nat.mod_eq_of_lt (a := b.toNat) (by omega), Nat.mod_eq_of_lt (by omega),
    mul_comm, ← Nat.two_pow_add_eq_or_of_lt hb]
theorem funnel_right (a b : Word) (n : Nat) : BitVec.ofNat 32 ((a.toNat * 2 ^ 32 + b.toNat) / 2 ^ n) =
    ((a.setWidth 64 <<< 32 ||| b.setWidth 64 : DWord) >>> n).setWidth 32 := by
  apply BitVec.eq_of_toNat_eq
  rw [BitVec.toNat_setWidth, BitVec.toNat_ushiftRight, toNat_funnel, Nat.shiftRight_eq_div_pow, BitVec.toNat_ofNat]
theorem funnel_left (a b : Word) (n : Nat) : BitVec.ofNat 32 ((a.toNat * 2 ^ 32 + b.toNat) * 2 ^ n / 2 ^ 32) =
    ((a.setWidth 64 <<< 32 ||| b.setWidth 64 : DWord) <<< n >>> 32).setWidth 32 := by
  apply BitVec.eq_of_toNat_eq
  rw [BitVec.toNat_setWidth, BitVec.toNat_ushiftRight, BitVec.toNat_shiftLeft, toNat_funnel, Nat.shiftRight_eq_div_pow,
    Nat.shiftLeft_eq, BitVec.toNat_ofNat]
  generalize (a.toNat * 2 ^ 32 + b.toNat) * 2 ^ n = v
  omega

/-! ### Bit counts and reversal (R85) -/

theorem popCount_eq_length (w : Nat) : ∀ n, popCount w n = ((List.range w).filter fun i => n.testBit i).length := by
  induction w with
  | zero => intro n; rfl
  | succ w ih =>
    intro n
    rw [popCount, ih, List.range_succ_eq_map, List.filter_cons, List.filter_map, Nat.testBit_zero]
    have hs : ((fun i => n.testBit i) ∘ Nat.succ) = fun i => (n / 2).testBit i := by
      funext i
      simp [Nat.testBit_succ]
    rw [hs]
    rcases Nat.mod_two_eq_zero_or_one n with h | h <;> simp [h, add_comm]
/-- Bit i of the w low bits in reverse is bit w - 1 - i. -/
theorem testBit_revBits (w : Nat) : ∀ n i, (revBits w n).testBit i = (decide (i < w) && n.testBit (w - 1 - i)) := by
  induction w with
  | zero => intro n i; simp [revBits]
  | succ w ih =>
    intro n i
    have low : revBits w (n / 2) < 2 ^ w := Nat.lt_pow_two_of_testBit _ fun j hj => by simp [ih, not_lt.mpr hj]
    rw [revBits, mul_comm, Nat.testBit_two_pow_mul_add _ low, ih]
    rcases lt_trichotomy i w with h | rfl | h
    · obtain ⟨k, hk⟩ : ∃ k, w - i = k + 1 := ⟨w - i - 1, by omega⟩
      simp [h, show i < w + 1 by omega, show w - 1 - i = k by omega, hk, Nat.testBit_succ]
    · simp
    · have : (n % 2).testBit (i - w) = false := Nat.testBit_eq_false_of_lt
        (lt_of_lt_of_le (Nat.mod_lt n two_pos) (Nat.le_self_pow (by omega) 2))
      simp [show ¬ i < w by omega, show ¬ i < w + 1 by omega, this]
def clzOp : WordOp where
  num w a _ _ := if a = 0 then w else w - 1 - Nat.log2 a
  word w a _ _ := BitVec.ofNat w (if a.toNat = 0 then w else w - 1 - Nat.log2 a.toNat)
  computes _ _ _ _ := rfl
def popcOp : WordOp where
  num w a _ _ := popCount w a
  word w a _ _ := BitVec.ofNat w ((List.range w).filter fun i => a.toNat.testBit i).length
  computes _ _ _ _ := congrArg _ (popCount_eq_length _ _)
def brevOp : WordOp where
  num w a _ _ := revBits w a
  word _ a _ _ := a.reverse
  computes _ a _ _ := by
    apply BitVec.eq_of_getLsbD_eq
    intro k hk
    rw [BitVec.getLsbD_reverse, BitVec.getMsbD, BitVec.getLsbD_ofNat, testBit_revBits, BitVec.testBit_toNat]
    simp [hk]

/-! ### Bit fields (R86) -/

theorem fieldPos_add_fieldLen_le (w pl : Nat) : fieldPos w pl + fieldLen w pl ≤ w := by
  unfold fieldLen fieldPos
  omega
/-- The top bit of a field of n bits tells whether it is 2^(n-1) or more. -/
theorem bitAt_top_iff {n v : Nat} (hn : n ≠ 0) (hv : v < 2 ^ n) : bitAt v (n - 1) = true ↔ 2 ^ (n - 1) ≤ v := by
  obtain ⟨k, rfl⟩ := Nat.exists_eq_succ_of_ne_zero hn
  have hq : v / 2 ^ k < 2 := by
    rw [Nat.div_lt_iff_lt_mul (by positivity), ← pow_succ']
    exact hv
  rw [bitAt, Nat.succ_sub_one, Nat.mod_eq_of_lt hq, beq_iff_eq, ← Nat.one_le_div_iff (by positivity)]
  omega
/-- The extracted field as an integer: sign-extended from its own top bit unless unsigned. -/
def fieldValue (u : Bool) (w a pl : Nat) : Int :=
  let f : Int := a / 2 ^ fieldPos w pl % 2 ^ fieldLen w pl
  if fieldLen w pl = 0 then (0 : Int)
  else if u = false ∧ f ≥ 2 ^ (fieldLen w pl - 1) then f - 2 ^ fieldLen w pl else f
theorem ofNat_bfxOp (u : Bool) (w a pl : Nat) : BitVec.ofNat w (bfxOp u w a pl) = BitVec.ofInt w (fieldValue u w a pl) := by
  unfold bfxOp fieldValue
  by_cases hn : fieldLen w pl = 0
  · simp [hn]
  · have top := bitAt_top_iff hn (Nat.mod_lt (a / 2 ^ fieldPos w pl) (by positivity))
    have hf : ((a / 2 ^ fieldPos w pl % 2 ^ fieldLen w pl : Nat) : Int) = (a : Int) / 2 ^ fieldPos w pl % 2 ^ fieldLen w pl := by
      push_cast
      rfl
    simp only [hn, if_false, ← hf]
    generalize a / 2 ^ fieldPos w pl % 2 ^ fieldLen w pl = v at top
    have top' : (v : Int) ≥ 2 ^ (fieldLen w pl - 1) ↔ bitAt v (fieldLen w pl - 1) = true := by
      rw [top]
      exact_mod_cast Iff.rfl
    simp only [top']
    cases u <;> cases bitAt v (fieldLen w pl - 1) <;> simp [ofNat_modW, BitVec.ofInt_natCast]
def bfxOf (u : Bool) : WordOp where
  num w a pl _ := bfxOp u w a pl
  word w a pl _ := BitVec.ofInt w (fieldValue u w a.toNat pl.toNat)
  computes {w} _ a pl _ := ofNat_bfxOp u w a.toNat pl.toNat
/-- The mask of a field at its position. -/
def fieldMask (w pl : Nat) : BitVec w := BitVec.ofNat w ((2 ^ fieldLen w pl - 1) * 2 ^ fieldPos w pl)
theorem toNat_fieldMask (w pl : Nat) : (fieldMask w pl).toNat = (2 ^ fieldLen w pl - 1) * 2 ^ fieldPos w pl := by
  apply Nat.mod_eq_of_lt
  calc (2 ^ fieldLen w pl - 1) * 2 ^ fieldPos w pl
      < 2 ^ fieldLen w pl * 2 ^ fieldPos w pl := Nat.mul_lt_mul_of_pos_right (Nat.sub_lt (by positivity) one_pos) (by positivity)
    _ ≤ 2 ^ w := by
      rw [← pow_add]
      exact Nat.pow_le_pow_right (by decide) (by rw [add_comm]; exact fieldPos_add_fieldLen_le w pl)
def bfiOf : WordOp where
  num := bfiOp
  word w a b pl := a &&& ~~~fieldMask w pl.toNat ||| b <<< fieldPos w pl.toNat &&& fieldMask w pl.toNat
  computes {w} _ a b pl := by
    unfold bfiOp
    simp only [← toNat_fieldMask, ← BitVec.toNat_not, BitVec.ofNat_or, BitVec.ofNat_and, BitVec.ofNat_toNat, BitVec.setWidth_eq]
    congr 2
    exact BitVec.eq_of_toNat_eq (by simp [Nat.shiftLeft_eq])

/-! ### Compares and guards (R87-R89) -/

/-- The condition that SUB bits 2:0 of a compare name (R87). -/
def comparison (cc : Nat) (p q : Int) : Bool :=
  match cc with
  | 0 => decide (p = q)
  | 1 => decide (p ≠ q)
  | 2 => decide (p < q)
  | 3 => decide (p ≤ q)
  | 4 => decide (p > q)
  | _ => decide (p ≥ q)
theorem condHolds_eq_comparison (p q : Int) : ∀ cc, condHolds cc p q = comparison cc p q
  | 0 | 2 | 3 | 4 | _ + 5 => rfl
  | 1 => decide_not.symm

/-- A source of `cmp` as the number compared: SUB bit 4 selects the pair, bit 3 the unsigned order (R87). -/
theorem byU_compared (x : Ctx) (l : Nat) (fld : Fld) :
    byU (x.f.sub.getLsbD 3) (if x.f.sub.getLsbD 4 then 64 else 32)
      (if x.f.sub.getLsbD 4 then (x.dw l fld).toNat else (x.w l fld).toNat) =
    if x.f.sub.getLsbD 4 then (if x.f.sub.getLsbD 3 then ((x.dw l fld).toNat : Int) else (x.dw l fld).toInt)
    else if x.f.sub.getLsbD 3 then ((x.w l fld).toNat : Int) else (x.w l fld).toInt := by
  split
  · exact byU_toNat (by decide) _ _
  · exact byU_toNat (by decide) _ _

/-- The guards read as a register: bit k is g[k], and bit 0 reads 1 (R89). -/
theorem ofNat_guards (t : Thread) : BitVec.ofNat 32 (1 + (allGuards.map fun k => if t.guard k then 2 ^ k else 0).sum) =
    (t.guards ||| 1).setWidth 32 := by
  have bits : ∀ g : BitVec 8, BitVec.ofNat 32 (1 + (allGuards.map fun k => if k == 0 || g.getLsbD k then 2 ^ k else 0).sum) =
      (g ||| 1).setWidth 32 := by decide +kernel
  exact bits t.guards
theorem getLsbD_setGuard (t : Thread) {k j : Nat} (b : Bool) (hk : k ≠ 0) (hj : j < 8) :
    (t.setGuard k b).guards.getLsbD j = if j = k then b else t.guards.getLsbD j := by
  have hbit : (BitVec.ofNat 8 (2 ^ k)).getLsbD j = decide (j = k) := by
    rw [BitVec.getLsbD_ofNat, Nat.testBit_two_pow]
    simp [hj, eq_comm]
  rw [Thread.setGuard, if_neg hk]
  cases b with
  | false =>
    simp only [Bool.false_eq_true, if_false, BitVec.getLsbD_and, BitVec.getLsbD_not, hbit]
    by_cases h : j = k <;> simp [h, hj]
  | true =>
    simp only [if_true, BitVec.getLsbD_or, hbit]
    by_cases h : j = k <;> simp [h]
/-- A write to a guard changes no other part of the thread. -/
theorem setGuard_frame (t : Thread) (k : Nat) (b : Bool) (g : BitVec 8) :
    { t.setGuard k b with guards := g } = { t with guards := g } := by
  unfold Thread.setGuard
  split <;> rfl
/-- Several guards set by one word. -/
def setGuards (b : Nat → Bool) (ks : List Nat) (t : Thread) : Thread := ks.foldl (fun t k => t.setGuard k (b k)) t
theorem setGuards_eq (b : Nat → Bool) (ks : List Nat) (t : Thread) : setGuards b ks t = { t with guards := (setGuards b ks t).guards } := by
  induction ks generalizing t with
  | nil => rfl
  | cons k ks ih => exact (ih (t.setGuard k (b k))).trans (setGuard_frame t k (b k) _)
theorem getLsbD_setGuards (b : Nat → Bool) {ks : List Nat} (hks : 0 ∉ ks) {j : Nat} (hj : j < 8) (t : Thread) :
    (setGuards b ks t).guards.getLsbD j = if j ∈ ks then b j else t.guards.getLsbD j := by
  induction ks generalizing t with
  | nil => simp [setGuards]
  | cons k ks ih =>
    obtain ⟨h0, hks⟩ := not_or.mp (List.mem_cons.not.mp hks)
    refine (ih hks (t.setGuard k (b k))).trans ?_
    rw [getLsbD_setGuard t (b k) (Ne.symm h0) hj]
    by_cases h : j ∈ ks <;> by_cases hk : j = k <;> simp [h, hk]
/-- `gmov` to the guards sets g1-g7 to bits 7:1 of the register and nothing else (R89). -/
theorem setGuards_allGuards (w : Word) :
    setGuards w.getLsbD allGuards = fun t => { t with guards := w.setWidth 8 &&& 0xFE ||| t.guards &&& 1 } := by
  funext t
  rw [setGuards_eq]
  congr 1
  apply BitVec.eq_of_getLsbD_eq
  intro j hj
  rw [getLsbD_setGuards _ (by decide) hj]
  interval_cases j <;> simp [allGuards]

/-! ### The statements -/

/-- Settles O1: each word's operation is named, and what a lane writes is the operation of its sources at the width of the word. -/
theorem movesWriteTheSelectedSource : Obligations.MovesWriteTheSelectedSource := by
  refine ⟨?nop, ?mov, ?sel, ?lea⟩
  case nop => exact completes_of_done (body := fun _ x => .done x.s0 [] []) (fun _ _ => rfl) (fun _ _ => rfl) (fun _ => rfl) fun _ => rfl
  case mov => exact completes_result (fun _ => movOp) (fun _ _ => rfl) fun _ _ => rfl
  case sel =>
    refine completes_writes (v := fun _ x l => (outW (wBits x.f)
        (if (x.thread l).guard (x.f.mod.toNat % 8) != x.f.mod.getLsbD 3 then x.u l .A else x.u l .B), 0))
      (fun _ _ => rfl) (fun _ _ => rfl) fun x l => ?_
    split
    · exact congrArg (·, 0) (movOp.outW_eq x l)
    · exact congrArg (·, 0) (secondOp.outW_eq x l)
  case lea =>
    exact completes_writes (v := fun _ x l => (outW (wBits x.f)
        ((x.u l .A + x.u l .B * 2 ^ (x.f.mod.toNat % 8) + x.u l .C) % 2 ^ wBits x.f), 0))
      (fun _ _ => rfl) (fun _ _ => rfl) fun x l => congrArg (·, 0) ((leaOp (x.f.mod.toNat % 8)).outW_eq x l)

/-- Settles O2: a saturating form is a word form whose clamp is the least and greatest of the range; a carry is the comparison of the
exact sum or difference with its range. -/
theorem additionsWrapSaturateAndCarry : Obligations.AdditionsWrapSaturateAndCarry := by
  refine ⟨⟨completes_add, completes_sub⟩, ?addc, ?subb⟩
  case addc =>
    exact completes_of_done (body := fun _ => carryOp false) (fun _ _ => rfl) (fun _ _ => rfl) carryOp_add fun x => marks_carries x _ _
  case subb =>
    exact completes_of_done (body := fun _ => carryOp true) (fun _ _ => rfl) (fun _ _ => rfl) carryOp_sub fun x => marks_carries x _ _

/-- Settles O3: both halves are those of the exact product, at the width of the word. -/
theorem multiplicationsWriteHalfProducts : Obligations.MultiplicationsWriteHalfProducts :=
  ⟨completes_result (fun _ => mulOp) (fun _ _ => rfl) fun _ _ => rfl,
    completes_result (fun f => mulhOp (isU f)) (fun _ _ => rfl) fun _ _ => rfl,
    completes_result (fun _ => madOp) (fun _ _ => rfl) fun _ _ => rfl⟩

/-- Settles O4: `divRem` gives the words of `sdiv`, `srem`, `udiv` and `umod`, whose integers are the truncated ones of R80. -/
theorem divisionsBeginWithTruncatedResults : Obligations.DivisionsBeginWithTruncatedResults := by
  refine ⟨?div, ?rem, ?word, ?pair⟩
  case div => exact completes_longResult (fun f => divOp (isU f)) (fun _ _ => rfl) fun _ _ => rfl
  case rem => exact completes_longResult (fun f => remOp (isU f)) (fun _ _ => rfl) fun _ _ => rfl
  case word => exact fun a b _ => ⟨toInt_sdiv_eq (w := 32) (by decide) a b, toInt_srem_eq (w := 32) (by decide) a b⟩
  case pair => exact fun a b _ => ⟨toInt_sdiv_eq (w := 64) (by decide) a b, toInt_srem_eq (w := 64) (by decide) a b⟩

/-- Settles O5: `cmp` by its condition on the numbers that SUB selects, `gmov` bit by bit of the guards. -/
theorem minMaxComparesAndGuardMoves : Obligations.MinMaxComparesAndGuardMoves := by
  refine ⟨⟨?min, ?max, ?abs, ?neg⟩, ?cmp, ?gop, ?gmov⟩
  case min => exact completes_result (fun f => minOp (isU f)) (fun _ _ => rfl) fun _ _ => rfl
  case max => exact completes_result (fun f => maxOp (isU f)) (fun _ _ => rfl) fun _ _ => rfl
  case abs => exact completes_result (fun _ => absOp) (fun _ _ => rfl) fun _ _ => rfl
  case neg => exact completes_result (fun _ => negOp) (fun _ _ => rfl) fun _ _ => rfl
  case cmp =>
    refine completes_guards (v := fun x l => (condHolds (x.f.sub.toNat % 8)
        (byU (x.f.sub.getLsbD 3) (if x.f.sub.getLsbD 4 then 64 else 32)
          (if x.f.sub.getLsbD 4 then (x.dw l .A).toNat else (x.w l .A).toNat))
        (byU (x.f.sub.getLsbD 3) (if x.f.sub.getLsbD 4 then 64 else 32)
          (if x.f.sub.getLsbD 4 then (x.dw l .B).toNat else (x.w l .B).toNat)), 0))
      (fun _ _ => rfl) (fun _ _ => rfl) fun x l => ?_
    rw [byU_compared, byU_compared, condHolds_eq_comparison]
    rfl
  case gop =>
    exact completes_guards (v := fun x l => (gopHolds x.f.sub.toNat ((x.thread l).guard (x.f.a.toNat % 8))
        ((x.thread l).guard (x.f.b.toNat % 8)), 0))
      (fun _ _ => rfl) (fun _ _ => rfl) fun _ _ => rfl
  case gmov =>
    refine completes_of_done (body := fun _ x => if x.f.sub = 0 then
          eachWrite x fun l => ([BitVec.ofNat 32 (1 + (allGuards.map fun k => if (x.thread l).guard k then 2 ^ k else 0).sum)], 0)
        else .done (x.todo.foldl (fun s l => s.modThread x.a l (setGuards (x.w l .A).getLsbD allGuards)) x.s0) [] [])
      (fun _ _ => rfl) (fun f _ => ?own) (fun x => ?body) fun x => ?marks
    case own => split <;> rfl
    case body =>
      split
      · exact eachWrite_eq fun l => congrArg (fun w => ([w], 0)) (ofNat_guards _)
      · simp only [setGuards_allGuards]
    case marks =>
      split
      · exact marks_writes x _ _
      · apply marks_foldl
        intro s l
        exact marks_modThread s x.a l _ (fun _ => rfl) fun _ => rfl

/-- Settles O6: the model's arithmetic on unsigned numbers is the word operation, at the width of the word. -/
theorem logicAndShiftsWriteTheirResults : Obligations.LogicAndShiftsWriteTheirResults := by
  refine ⟨⟨?and, ?or, ?xor, ?andn, ?not⟩, ?shl, ?shr, ?sar, ?rot, ?fsh⟩
  case and => exact completes_result (fun _ => andOp) (fun _ _ => rfl) fun _ _ => rfl
  case or => exact completes_result (fun _ => orOp) (fun _ _ => rfl) fun _ _ => rfl
  case xor => exact completes_result (fun _ => xorOp) (fun _ _ => rfl) fun _ _ => rfl
  case andn => exact completes_result (fun _ => andnOp) (fun _ _ => rfl) fun _ _ => rfl
  case not => exact completes_result (fun _ => notOp) (fun _ _ => rfl) fun _ _ => rfl
  case shl => exact completes_result (fun _ => shlOp) (fun _ _ => rfl) fun _ _ => rfl
  case shr => exact completes_result (fun _ => shrOp) (fun _ _ => rfl) fun _ _ => rfl
  case sar => exact completes_result (fun _ => sarOp) (fun _ _ => rfl) fun _ _ => rfl
  case rot => exact completes_result (fun _ => rotOp) (fun _ _ => rfl) fun _ _ => rfl
  case fsh =>
    refine completes_writes (v := fun _ x l => ([BitVec.ofNat 32 (
        if x.f.sub = 2 then ((x.w l .A).toNat * 2 ^ 32 + (x.w l .B).toNat) / 2 ^ ((x.w l .C).toNat % 32)
        else ((x.w l .A).toNat * 2 ^ 32 + (x.w l .B).toNat) * 2 ^ ((x.w l .C).toNat % 32) / 2 ^ 32)], 0))
      (fun _ _ => rfl) (fun _ _ => rfl) fun x l => ?_
    split
    · exact congrArg (fun v => ([v], 0)) (funnel_right _ _ _)
    · exact congrArg (fun v => ([v], 0)) (funnel_left _ _ _)

/-- Settles O7: the counts by the bits of the number, the fields by the mask that position and length give. -/
theorem bitCountsAndBitFieldsWriteTheirResults : Obligations.BitCountsAndBitFieldsWriteTheirResults := by
  refine ⟨⟨?clz, ?popc, ?brev⟩, ?bfx, ?bfi⟩
  case clz => exact completes_result (fun _ => clzOp) (fun _ _ => rfl) fun _ _ => rfl
  case popc => exact completes_result (fun _ => popcOp) (fun _ _ => rfl) fun _ _ => rfl
  case brev => exact completes_result (fun _ => brevOp) (fun _ _ => rfl) fun _ _ => rfl
  case bfx => exact completes_result (fun f => bfxOf (isU f)) (fun _ _ => rfl) fun _ _ => rfl
  case bfi => exact completes_result (fun _ => bfiOf) (fun _ _ => rfl) fun _ _ => rfl

end Sys2Proof.IntegerWords
